-- ==== Sys2Proof/Word.lean ====
section
/-! DEFINITION. The machine words and index types of the VK416: bytes, 16-bit quantities, clients, pins, channels. -/

namespace Sys2Proof

/-- One byte of a frame ("Frame and Record Formats, Pins"). -/
abbrev Byte := BitVec 8

/-- A two-byte quantity: reload, compare, count, hold limit. -/
abbrev Word := BitVec 16

/-- A client, by the index the formats use: A is 0, B is 1, C is 2, D is 3. -/
abbrev Client := Fin 4

/-- A shared pin P0 to P15. -/
abbrev Pin := Fin 16

/-- A waveform channel C0 to C5. -/
abbrev Chan := Fin 6

/-- A rank or a rank ceiling, 0 to 7; a claim's rank is 1 to 7 (R1, R31). -/
abbrev Rank := Fin 8

def clientA : Client := 0
def clientB : Client := 1
def clientC : Client := 2
def clientD : Client := 3

/-- The four clients in letter order. -/
def allClients : List Client := List.finRange 4

/-- The sixteen pins in order. -/
def allPins : List Pin := List.finRange 16

/-- The six channels in order. -/
def allChans : List Chan := List.finRange 6

end Sys2Proof
end

