-- ==== Sys2Proof/Syntax.lean ====
section
/-! DEFINITION. The commands of the part: one constructor of `Instr` per row of spec/opcode_table.json.
A request row is the TAKING, by the dispatcher, of the request frame that a client's port holds (R166):
its operand is the port, and the request's own operands stand in the held frame, put there by WRITE. -/

namespace Sys2Proof

/-- A level of a pin or of its filter. -/
inductive Level where
  | low
  | high
  deriving DecidableEq, Repr

/-- The two kinds of filtered edge (R44). -/
inductive Edge where
  | rise
  | fall
  deriving DecidableEq, Repr

/-- What the board does at a pin (R41): whether another device drives it, and the level. When nothing
else drives the pin, the level counts only on a released pad with pull none. -/
structure BoardLevel where
  drives : Bool
  level  : Level
  deriving DecidableEq, Repr

/-- The part of a port transaction that a bus command carries out (R156). `whole` is a complete
transaction: select asserted, the kind byte, the listed bytes, select deasserted. The other four cut it
at the events a request or a reset can come between (R157, R172, R174). -/
inductive BusPart where
  | select
  | kind
  | byte (b : Byte)
  | deselect
  | whole (bytes : List Byte)
  deriving DecidableEq, Repr

/-- The 26 requests ("Client Ports and Request Handling"). -/
inductive Command where
  | openSession | closeSession | ping | resetAll
  | getPolicy | setPolicy
  | claim | modify | release | queryPin
  | bind | configure | stage | commit | cancel
  | start | arm | stop | startGroup
  | releaseChannel | adopt | readChannel
  | watch | unwatch | readPins
  | fetch
  deriving DecidableEq, Repr

/-- One command of the part: a request taken at a port, a bus transaction, or an internal or external
event (spec/opcode_table.json, row by row). -/
inductive Instr where
  /-- OPEN taken at a port (R123). -/
  | openSession (port : Client)
  /-- CLOSE taken at a port (R130). -/
  | closeSession (port : Client)
  /-- PING taken at a port (R129). -/
  | ping (port : Client)
  /-- RESET ALL taken at a port (R136). -/
  | resetAll (port : Client)
  /-- GET POLICY taken at a port (R34). -/
  | getPolicy (port : Client)
  /-- SET POLICY taken at a port (R35). -/
  | setPolicy (port : Client)
  /-- CLAIM taken at a port (R13). -/
  | claim (port : Client)
  /-- MODIFY taken at a port (R16). -/
  | modify (port : Client)
  /-- RELEASE taken at a port (R20). -/
  | release (port : Client)
  /-- QUERY PIN taken at a port (R29). -/
  | queryPin (port : Client)
  /-- BIND taken at a port (R92). -/
  | bind (port : Client)
  /-- CONFIGURE taken at a port (R60). -/
  | configure (port : Client)
  /-- STAGE taken at a port (R74). -/
  | stage (port : Client)
  /-- COMMIT taken at a port (R77). -/
  | commit (port : Client)
  /-- CANCEL taken at a port (R79). -/
  | cancel (port : Client)
  /-- START taken at a port (R62). -/
  | start (port : Client)
  /-- ARM taken at a port (R63). -/
  | arm (port : Client)
  /-- STOP taken at a port (R65). -/
  | stop (port : Client)
  /-- START GROUP taken at a port (R67). -/
  | startGroup (port : Client)
  /-- RELEASE CHANNEL taken at a port (R98). -/
  | releaseChannel (port : Client)
  /-- ADOPT taken at a port (R101). -/
  | adopt (port : Client)
  /-- READ CHANNEL taken at a port (R69). -/
  | readChannel (port : Client)
  /-- WATCH taken at a port (R110). -/
  | watch (port : Client)
  /-- UNWATCH taken at a port (R112). -/
  | unwatch (port : Client)
  /-- READ PINS taken at a port (R116). -/
  | readPins (port : Client)
  /-- FETCH taken at a port (R146). -/
  | fetch (port : Client)
  /-- A request whose command is none of the 26, taken at a port (R167). -/
  | unknownCommand (port : Client)
  /-- A WRITE transaction, or a part of one (R159). -/
  | write (port : Client) (part : BusPart)
  /-- A READ transaction, or a part of one (R161). -/
  | read (port : Client) (part : BusPart)
  /-- A transaction with an unknown kind byte, or a part of one (R156). -/
  | ignoredTransaction (port : Client) (kind : Byte) (part : BusPart)
  /-- A clock input taken whole at a channel: the phase, and the tick or boundary it makes (R51). -/
  | clockInput (chan : Chan)
  /-- A clock input that makes a channel tick with the count above 0 (R52). -/
  | channelTick (chan : Chan)
  /-- A clock input that makes a channel tick with the count at 0 (R80). -/
  | periodBoundary (chan : Chan)
  /-- The trigger edge handed to an ARMED channel is taken (R64). -/
  | triggerEdge (chan : Chan)
  /-- The board changes what it does at a pin (R41). -/
  | pinLevelChange (pin : Pin) (board : BoardLevel)
  /-- The filter of a pad takes a change of filtered level (R44). -/
  | filteredEdge (pin : Pin)
  /-- The hold of a client's LIVE claim on a pin runs out (R27). -/
  | holdExpiry (client : Client) (pin : Pin)
  /-- The lease of an OPEN session runs out (R125). -/
  | leaseExpiry (client : Client)
  /-- The grace period of a session runs out (R127). -/
  | graceExpiry (client : Client)
  /-- The supply comes up (R134). -/
  | powerOn
  /-- NRST goes low (R134). -/
  | nrst
  /-- NRST returns high (R45). -/
  | resetEnd
  /-- A millisecond tick (R42). -/
  | millisecondTick
  /-- The power-on reset ends by itself (R134). -/
  | powerOnResetEnd
  deriving DecidableEq, Repr

end Sys2Proof
end

