-- ==== Sys2Proof/Decode.lean ====
section
/-! DEFINITION. The command a word of the table spells. No row of spec/opcode_table.json gives bits (every
row's "fields" is empty), so no word spells a command; the byte layouts of frames and payloads are in
Machine/Operands.lean and Machine/Flags.lean. -/

namespace Sys2Proof

/-- The command spelled by the low `nbits` bits of `w`: none, since the table has no row with bits. -/
def decodeTableWord (_nbits _w : Nat) : Option Instr := none

end Sys2Proof
end

