-- ==== Sys2Proof/Config.lean ====
section
/-! DEFINITION. The constants of the part: pool and queue sizes, identity fields, bus byte values.
The spec leaves no result of a command to the implementation, so no constant here is a free value. -/

namespace Sys2Proof.Config

/-- Records of the claim pool (R2). -/
def claimPool : Nat := 40

/-- Records of the watch pool (R107). -/
def watchPool : Nat := 24

/-- Entries a notice queue holds at most (R141, R142). -/
def queueSize : Nat := 12

/-- Where a repeat count and a dropped count saturate (R143, R145). -/
def countMax : Nat := 255

/-- The longest payload of a frame (R158). -/
def maxPayload : Nat := 56

/-- The part code reported by OPEN, 4160 (R123). -/
def partCode : Word := 4160

/-- The revision reported by OPEN (R123). -/
def revision : Byte := 1

/-- The WRITE kind byte (R180). -/
def writeKind : Byte := 0xA5

/-- The READ kind byte (R180). -/
def readKind : Byte := 0x5A

/-- The filler byte (R180). -/
def filler : Byte := 0xFF

/-- Milliseconds in one unit of the lease period (R120). -/
def leaseUnit : Nat := 10

end Sys2Proof.Config
end

