-- ==== Sys2Proof/Machine/State.lean ====
section
/-! DEFINITION. The state of the part as plain data, every block's state after reset, and the getters and
setters of its tables. INVENTORY.md lists each field with its rule. -/

namespace Sys2Proof.Machine

open Sys2Proof

/-- Why a step can fault: never. The spec gives the part no fault and no trap, and every command an
outcome in every state, so this type has no constructor (safe: no claim can rest on a fault). -/
inductive Fault
  deriving DecidableEq, Repr

/-- Why a step can be refused. -/
inductive Refusal where
  /-- Raised by `exec` alone, for a command that has no meaning yet. Safe: nothing is claimed of it. -/
  | notModelled (mnemonic : String)
  deriving DecidableEq, Repr

/-! ## Claims -/

/-- What a claim drives its pin from (R1, R7). -/
inductive Source where
  | high
  | low
  | float
  | ch (k : Chan)
  | chn (k : Chan)
  | gate (k m : Chan)
  deriving DecidableEq, Repr

/-- The state of a claim record (R1). -/
inductive ClaimState where
  | pending
  | live
  deriving DecidableEq, Repr

/-- A pending change: a new rank, a new source, or both (R1, R18). -/
structure Change where
  rank   : Option Rank
  source : Option Source
  deriving DecidableEq, Repr

/-- One record of the claim pool (R1). `tickDue`: a millisecond tick brings the hold remaining to 0 and the
expiry is still to be taken (the model's own field, log entry 6). -/
structure Claim where
  client   : Client
  pin      : Pin
  rank     : Rank
  source   : Source
  state    : ClaimState
  wait     : Option Chan
  hold     : Option Word
  holdLeft : Option Word
  change   : Option Change
  tickDue  : Bool
  deriving DecidableEq, Repr

/-! ## Policy and pads -/

/-- The role of a pin (R31). -/
inductive Role where
  | io
  | inputOnly
  deriving DecidableEq, Repr

/-- The default state of a pin (R31). -/
inductive DefaultState where
  | float
  | pullUp
  | pullDown
  | driveLow
  | driveHigh
  deriving DecidableEq, Repr

/-- The drive type of a pin (R31). -/
inductive DriveType where
  | pushPull
  | openDrain
  deriving DecidableEq, Repr

/-- One entry of the policy table (R31). -/
structure Policy where
  role      : Role
  dflt      : DefaultState
  drive     : DriveType
  filterLen : Fin 16
  ceilings  : Vector Rank 4
  deriving DecidableEq, Repr

/-- The driven state of a pad (R38). -/
inductive Driven where
  | high
  | low
  | released
  deriving DecidableEq, Repr

/-- The pull of a pad (R38). -/
inductive Pull where
  | none
  | up
  | down
  deriving DecidableEq, Repr

/-- One pad (R38). `board` is what the board does at the pin (R41), the model's input; `tickDue`: a
millisecond tick completed the filter run and the edge is still to be taken (log entry 6). -/
structure Pad where
  driven   : Driven
  pull     : Pull
  raw      : Level
  filtered : Level
  run      : Nat
  board    : BoardLevel
  tickDue  : Bool
  deriving DecidableEq, Repr

/-! ## Channels -/

/-- The mode of a channel (R47, R54). -/
inductive Mode where
  | oneShot
  | reload
  | wrap
  deriving DecidableEq, Repr

/-- The clock source of a channel (R47). -/
inductive ClockSource where
  | base
  | pin (n : Pin) (e : Edge)
  | chain (j : Chan)
  deriving DecidableEq, Repr

/-- The settings record (R47); the prescale is 2 to the power `prescaleExp`. -/
structure Settings where
  mode        : Mode
  reload      : Word
  compare     : Word
  prescaleExp : Fin 9
  clock       : ClockSource
  notify      : Bool
  deriving DecidableEq, Repr

/-- A staging record or a pending commit (R72, R73). -/
structure Staged where
  reload      : Option Word
  compare     : Option Word
  prescaleExp : Option (Fin 9)
  mode        : Option Mode
  deriving DecidableEq, Repr

/-- The state of a channel (R49). -/
inductive ChanState where
  | free
  | stopped
  | armed
  | running
  | done
  deriving DecidableEq, Repr

/-- One channel (R46). `inputsDue` counts the clock inputs handed to it and not yet taken, and `triggerDue`
says that its trigger edge was handed to it and not yet taken (the model's own fields, log entry 7). -/
structure Channel where
  state      : ChanState
  owner      : Option Client
  settings   : Settings
  count      : Word
  phase      : Byte
  startValue : Word
  output     : Bool
  trigger    : Option (Pin × Edge)
  staging    : Option Staged
  commit     : Option Staged
  refs       : Nat
  inputsDue  : Nat
  triggerDue : Bool
  deriving DecidableEq, Repr

/-! ## Watches and notices -/

/-- The edge selection of a watch (R107). -/
inductive EdgeSel where
  | rise
  | fall
  | both
  deriving DecidableEq, Repr

/-- One record of the watch pool (R107). -/
structure Watch where
  client : Client
  pin    : Pin
  edges  : EdgeSel
  deriving DecidableEq, Repr

/-- A notice: its kind, its object and its data (R140). -/
inductive Notice where
  | edge (pin : Pin) (level : Level)
  | topChange (pin : Pin) (nowTop : Bool) (client : Client) (rank : Rank)
  | claimExpired (pin : Pin)
  | terminal (chan : Chan)
  | commitEnd (chan : Chan) (applied : Bool)
  | sourceChange (chan : Chan) (state : ChanState) (owned : Bool)
  | leaseWarning
  | overflow (dropped : Nat)
  deriving DecidableEq, Repr

/-- The kind and the object of a notice, by which notices coalesce (R142). -/
inductive NoticeKey where
  | edge (pin : Pin)
  | topChange (pin : Pin)
  | claimExpired (pin : Pin)
  | terminal (chan : Chan)
  | commitEnd (chan : Chan)
  | sourceChange (chan : Chan)
  | leaseWarning
  | overflow
  deriving DecidableEq, Repr

/-- One entry of a notice queue (R140). -/
structure Entry where
  notice  : Notice
  repeats : Nat
  deriving DecidableEq, Repr

/-- A notice queue: the entries from head to tail, and the dropped count (R141). -/
structure Queue where
  entries : List Entry
  dropped : Nat
  deriving DecidableEq, Repr

/-! ## Sessions -/

/-- The state of a session (R122). -/
inductive SessionState where
  | closed
  | opened
  | grace
  deriving DecidableEq, Repr

/-- How the last session on a port ended (R124). -/
inductive EndCause where
  | deviceReset
  | closed
  | lapsed
  deriving DecidableEq, Repr

/-- The cause of the last device reset (R121, R134). -/
inductive ResetCause where
  | powerOn
  | resetPin
  | resetCommand
  deriving DecidableEq, Repr

/-- One session entry (R120). `tickDue`: a millisecond tick brings the running timer to 0 and its expiry is
still to be taken (the model's own field, log entry 6). -/
structure Session where
  state          : SessionState
  lease          : Option Byte
  leaseRemaining : Option Nat
  graceRemaining : Option Nat
  priorEnd       : EndCause
  claimsHeld     : Nat
  watchesHeld    : Nat
  channelsOwned  : Nat
  tickDue        : Bool
  deriving DecidableEq, Repr

/-! ## Ports -/

/-- The 23 status values ("Client Ports and Request Handling"). -/
inductive Status where
  | ok | accepted | pending
  | noReply | frameError
  | unknown | badArg | noSession | state
  | role | denied | exists_ | noClaim | noWatch | poolFull | sourceFree
  | notOwner | notOrphan | noChannel | inUse | loop | nonePending | notQuiescent
  deriving DecidableEq, Repr

/-- A good request frame: the declared length is the payload's (R158, R159). -/
structure Frame where
  command : Byte
  tag     : Byte
  payload : List Byte
  deriving DecidableEq, Repr

/-- A reply as it was built; the overrun flag is the port's, set when the flags byte is shifted out (R164). -/
structure Reply where
  status  : Status
  tag     : Byte
  session : SessionState
  depth   : Nat
  payload : List Byte
  deriving DecidableEq, Repr

/-- The state of a port (R155, R157). -/
inductive PortState where
  | ready
  | held
  | answered
  deriving DecidableEq, Repr

/-- Where a port stands in its present transaction (R155, R156). -/
inductive Transaction where
  | none
  | kind
  | receive
  | send
  | ignore
  deriving DecidableEq, Repr

/-- One client port (R155). `rx` holds the frame bytes received so far, `tx` the reply bytes still to be
shifted out, `txReply` whether they are the slot's reply (R157); `out` records the bytes shifted out since
select was last asserted (log entry 4) and `passedBy` the clients whose request was taken while this
port was HELD (R166, log entry 5). -/
structure Port where
  state       : PortState
  held        : Option Frame
  reply       : Option Reply
  overrun     : Bool
  transaction : Transaction
  attention   : Bool
  rx          : List Byte
  tx          : List Byte
  txReply     : Bool
  out         : List Byte
  passedBy    : List Client
  deriving DecidableEq, Repr

/-! ## The whole part -/

/-- The state of the part and the commands that wait. `edgeOwed`: a filtered edge was handed to the channels, one of
which took it ahead of its EDGE notices, and those are still to be placed: its pin and the level after it (the
model's own field, log entry 17). -/
structure State where
  pending    : List Instr
  ports      : Vector Port 4
  sessions   : Vector Session 4
  resetCause : ResetCause
  por        : Bool
  nrstLow    : Bool
  claims     : List Claim
  claimLists : Vector (List Client) 16
  waitLists  : Vector (List (Client × Pin)) 6
  policies   : Vector Policy 16
  pads       : Vector Pad 16
  channels   : Vector Channel 6
  watches    : List Watch
  queues     : Vector Queue 4
  edgeOwed   : Option (Pin × Level)
  deriving DecidableEq, Repr

/-! ## Reset values of the blocks -/

/-- A port after reset (R155). -/
def Port.atReset : Port :=
  { state := .ready, held := none, reply := none, overrun := false, transaction := .none,
    attention := false, rx := [], tx := [], txReply := false, out := [], passedBy := [] }

/-- A session entry after reset (R121). -/
def Session.atReset : Session :=
  { state := .closed, lease := none, leaseRemaining := none, graceRemaining := none,
    priorEnd := .deviceReset, claimsHeld := 0, watchesHeld := 0, channelsOwned := 0, tickDue := false }

/-- The reset entry of the policy table (R32). -/
def Policy.atReset : Policy :=
  { role := .io, dflt := .pullDown, drive := .pushPull, filterLen := 0,
    ceilings := Vector.replicate 4 7 }

/-- A pad after reset with nothing driven by the board (R38, R41, R45). DESIGN CHOICE: the board's part. -/
def Pad.atReset : Pad :=
  { driven := .released, pull := .down, raw := .low, filtered := .low, run := 0,
    board := { drives := false, level := .low }, tickDue := false }

/-- The cleared settings record (R47). -/
def Settings.cleared : Settings :=
  { mode := .oneShot, reload := 0, compare := 0, prescaleExp := 0, clock := .base, notify := false }

/-- A FREE channel without references (R48, R97). -/
def Channel.cleared : Channel :=
  { state := .free, owner := none, settings := Settings.cleared, count := 0, phase := 0,
    startValue := 0, output := false, trigger := none, staging := none, commit := none, refs := 0,
    inputsDue := 0, triggerDue := false }

/-- An empty notice queue (R141). -/
def Queue.empty : Queue := { entries := [], dropped := 0 }

/-- The part right after the power-on reset has ended (R134, R135), with no command waiting. -/
def State.reset : State :=
  { pending    := []
    ports      := Vector.replicate 4 Port.atReset
    sessions   := Vector.replicate 4 Session.atReset
    resetCause := .powerOn
    por        := false
    nrstLow    := false
    claims     := []
    claimLists := Vector.replicate 16 []
    waitLists  := Vector.replicate 6 []
    policies   := Vector.replicate 16 Policy.atReset
    pads       := Vector.replicate 16 Pad.atReset
    channels   := Vector.replicate 6 Channel.cleared
    watches    := []
    queues     := Vector.replicate 4 Queue.empty
    edgeOwed   := none }

/-! ## Getters and setters of the tables -/

def State.port (s : State) (c : Client) : Port := s.ports[c.val]
def State.session (s : State) (c : Client) : Session := s.sessions[c.val]
def State.claimList (s : State) (p : Pin) : List Client := s.claimLists[p.val]
def State.waitList (s : State) (k : Chan) : List (Client × Pin) := s.waitLists[k.val]
def State.policy (s : State) (p : Pin) : Policy := s.policies[p.val]
def State.pad (s : State) (p : Pin) : Pad := s.pads[p.val]
def State.channel (s : State) (k : Chan) : Channel := s.channels[k.val]
def State.queue (s : State) (c : Client) : Queue := s.queues[c.val]

def State.setPort (s : State) (c : Client) (v : Port) : State :=
  { s with ports := s.ports.set c.val v c.isLt }
def State.setSession (s : State) (c : Client) (v : Session) : State :=
  { s with sessions := s.sessions.set c.val v c.isLt }
def State.setClaimList (s : State) (p : Pin) (v : List Client) : State :=
  { s with claimLists := s.claimLists.set p.val v p.isLt }
def State.setWaitList (s : State) (k : Chan) (v : List (Client × Pin)) : State :=
  { s with waitLists := s.waitLists.set k.val v k.isLt }
def State.setPolicy (s : State) (p : Pin) (v : Policy) : State :=
  { s with policies := s.policies.set p.val v p.isLt }
def State.setPad (s : State) (p : Pin) (v : Pad) : State :=
  { s with pads := s.pads.set p.val v p.isLt }
def State.setChannel (s : State) (k : Chan) (v : Channel) : State :=
  { s with channels := s.channels.set k.val v k.isLt }
def State.setQueue (s : State) (c : Client) (v : Queue) : State :=
  { s with queues := s.queues.set c.val v c.isLt }

/-- Rewrites every port by its letter. -/
def State.mapPorts (s : State) (f : Client → Port → Port) : State :=
  { s with ports := Vector.ofFn fun c => f c (s.port c) }

/-- Rewrites every session by its letter. -/
def State.mapSessions (s : State) (f : Client → Session → Session) : State :=
  { s with sessions := Vector.ofFn fun c => f c (s.session c) }

/-- Rewrites every pad by its pin. -/
def State.mapPads (s : State) (f : Pin → Pad → Pad) : State :=
  { s with pads := Vector.ofFn fun p => f p (s.pad p) }

/-- Rewrites every channel by its number. -/
def State.mapChannels (s : State) (f : Chan → Channel → Channel) : State :=
  { s with channels := Vector.ofFn fun k => f k (s.channel k) }

end Sys2Proof.Machine
end

