-- ==== Sys2Proof/Machine/Flags.lean ====
section
/-! DEFINITION. The bytes the part sends: field encodings, the port flags byte, the CRC, the reply frame, the
notice record and the status codes ("Frame and Record Formats, Pins"). -/

namespace Sys2Proof.Machine

open Sys2Proof

/-! ## Field encodings -/

/-- A number as one byte. -/
def byteOf (n : Nat) : Byte := BitVec.ofNat 8 n

/-- Yes or no, on or off, active or inactive as one byte. -/
def flagByte (b : Bool) : Byte := if b then 1 else 0

/-- The high and the low byte of a two-byte quantity, high first. -/
def wordBytes (w : Word) : List Byte := [w.extractLsb' 8 8, w.extractLsb' 0 8]

/-- A two-byte quantity from its high and low bytes. -/
def wordOf (hi lo : Byte) : Word := hi ++ lo

def levelByte : Level → Byte
  | .low => 0
  | .high => 1

def roleByte : Role → Byte
  | .io => 0
  | .inputOnly => 1

def defaultByte : DefaultState → Byte
  | .float => 0
  | .pullUp => 1
  | .pullDown => 2
  | .driveLow => 3
  | .driveHigh => 4

def driveByte : DriveType → Byte
  | .pushPull => 0
  | .openDrain => 1

def drivenByte : Driven → Byte
  | .high => 0
  | .low => 1
  | .released => 2

def pullByte : Pull → Byte
  | .none => 0
  | .up => 1
  | .down => 2

def claimStateByte : ClaimState → Byte
  | .pending => 1
  | .live => 2

def edgeByte : Edge → Byte
  | .rise => 1
  | .fall => 2

def edgeSelByte : EdgeSel → Byte
  | .rise => 1
  | .fall => 2
  | .both => 3

def chanStateByte : ChanState → Byte
  | .free => 0
  | .stopped => 1
  | .armed => 2
  | .running => 3
  | .done => 4

def modeByte : Mode → Byte
  | .oneShot => 0
  | .reload => 1
  | .wrap => 2

def resetCauseByte : ResetCause → Byte
  | .powerOn => 1
  | .resetPin => 2
  | .resetCommand => 3

def endCauseByte : EndCause → Byte
  | .deviceReset => 1
  | .closed => 2
  | .lapsed => 3

/-- A client field that may be absent: 0xFF stands for default or none. -/
def clientByte : Option Client → Byte
  | some c => byteOf c.val
  | none => 0xFF

/-- The two bytes of a source. -/
def sourceBytes : Source → List Byte
  | .high => [0x01, 0x00]
  | .low => [0x02, 0x00]
  | .float => [0x03, 0x00]
  | .ch k => [0x04, byteOf (16 * k.val)]
  | .chn k => [0x05, byteOf (16 * k.val)]
  | .gate k m => [0x06, byteOf (16 * k.val + m.val)]

/-- The byte of a clock source. DESIGN CHOICE: a bit that its layout does not name is zero (log entry 18). -/
def clockByte : ClockSource → Byte
  | .base => 0x00
  | .pin n .rise => byteOf (0x40 + n.val)
  | .pin n .fall => byteOf (0x50 + n.val)
  | .chain j => byteOf (0x80 + j.val)

/-- The eight bytes of a settings record. -/
def settingsBytes (r : Settings) : List Byte :=
  [modeByte r.mode] ++ wordBytes r.reload ++ wordBytes r.compare ++
    [byteOf r.prescaleExp.val, clockByte r.clock, flagByte r.notify]

/-- The nine bytes GET POLICY reports of a pin (R34). -/
def policyBytes (p : Pin) (e : Policy) : List Byte :=
  [byteOf p.val, roleByte e.role, defaultByte e.dflt, driveByte e.drive, byteOf e.filterLen.val] ++
    e.ceilings.toList.map (fun r => byteOf r.val)

/-- A presence byte: bit 0 marks the first field of the list (R181). -/
def presenceByte : List Bool → Byte
  | [] => 0
  | b :: bs => flagByte b + 2 * presenceByte bs

/-- The presence byte and the marked fields of a staging record, as the STAGE reply carries them (R74, R182). -/
def stagedBytes (r : Staged) : List Byte :=
  [presenceByte [r.reload.isSome, r.compare.isSome, r.prescaleExp.isSome, r.mode.isSome]] ++
    (r.reload.map wordBytes).getD [] ++ (r.compare.map wordBytes).getD [] ++
    (r.prescaleExp.map fun e => [byteOf e.val]).getD [] ++ (r.mode.map fun m => [modeByte m]).getD []

/-! ## Notices -/

/-- The kind, object and data bytes of a notice. DESIGN CHOICE: the bits of a data byte that the table does not name, 6 and
3 of TOP_CHANGE and 6 to 3 of SOURCE_CHANGE, are zero (log entry 19). -/
def noticeBytes : Notice → List Byte
  | .edge p l => [0x01, byteOf p.val, levelByte l]
  | .topChange p now c r =>
      [0x02, byteOf p.val, byteOf ((if now then 128 else 0) + 16 * c.val + r.val)]
  | .claimExpired p => [0x03, byteOf p.val, 0x00]
  | .terminal k => [0x04, byteOf k.val, 0x00]
  | .commitEnd k applied => [0x05, byteOf k.val, flagByte (!applied)]
  | .sourceChange k st owned =>
      [0x06, byteOf k.val, byteOf ((if owned then 128 else 0) + (chanStateByte st).toNat)]
  | .leaseWarning => [0x07, 0xFF, 0x00]
  | .overflow n => [0x08, 0xFF, byteOf n]

/-- The four bytes of a queue entry in a FETCH reply. -/
def entryBytes (e : Entry) : List Byte := noticeBytes e.notice ++ [byteOf e.repeats]

/-! ## Status codes and the port flags -/

def statusByte : Status → Byte
  | .ok => 0x00
  | .accepted => 0x01
  | .pending => 0x02
  | .noReply => 0x10
  | .frameError => 0x11
  | .unknown => 0x20
  | .badArg => 0x21
  | .noSession => 0x22
  | .state => 0x23
  | .role => 0x30
  | .denied => 0x31
  | .exists_ => 0x32
  | .noClaim => 0x33
  | .noWatch => 0x34
  | .poolFull => 0x35
  | .sourceFree => 0x36
  | .notOwner => 0x40
  | .notOrphan => 0x41
  | .noChannel => 0x42
  | .inUse => 0x43
  | .loop => 0x44
  | .nonePending => 0x45
  | .notQuiescent => 0x46

/-- The session state bits of the port flags. -/
def sessionBits : SessionState → Nat
  | .closed => 0
  | .opened => 1
  | .grace => 2

/-- The port flags byte: overrun in bit 7, session state in bits 6 and 5, queue depth in bits 3 to 0. -/
def portFlags (overrun : Bool) (st : SessionState) (depth : Nat) : Byte :=
  byteOf ((if overrun then 128 else 0) + 32 * sessionBits st + depth % 16)

/-! ## CRC and reply frame -/

/-- One of the eight shifts of the CRC register (R180). -/
def crcShift (r : Byte) : Byte := if r.msb then (r <<< 1) ^^^ 0x07 else r <<< 1

/-- One byte taken into the CRC register (R180). -/
def crcByte (r b : Byte) : Byte :=
  crcShift (crcShift (crcShift (crcShift (crcShift (crcShift (crcShift (crcShift (r ^^^ b))))))))

/-- The CRC-8 of a list of bytes, from 0xFF (R180). -/
def crc8 (bytes : List Byte) : Byte := bytes.foldl crcByte 0xFF

/-- A frame with its CRC byte behind it. -/
def withCrc (bytes : List Byte) : List Byte := bytes ++ [crc8 bytes]

/-- A request frame as a client sends it (R158). -/
def requestBytes (f : Frame) : List Byte :=
  withCrc ([f.command, f.tag, byteOf f.payload.length] ++ f.payload)

/-- A reply frame as the port shifts it out, with the overrun flag as it stands then (R161, R162, R164). -/
def replyBytes (overrun : Bool) (r : Reply) : List Byte :=
  withCrc ([statusByte r.status, r.tag, portFlags overrun r.session r.depth,
    byteOf r.payload.length] ++ r.payload)

end Sys2Proof.Machine
end

