-- ==== Sys2Proof/Machine/Operands.lean ====
section
/-! DEFINITION. The operands of the requests: command codes, payload lengths (R170) and the decoding of each
payload's fields with their ranges (R181, "Frame and Record Formats, Pins"). A decoder answers none where
a field holds a value outside its encoding, which the owning block refuses with BAD_ARG. -/

namespace Sys2Proof.Machine

open Sys2Proof

/-! ## Commands -/

/-- The command byte of a request. -/
def commandCode : Command → Byte
  | .openSession => 0x01
  | .closeSession => 0x02
  | .ping => 0x03
  | .resetAll => 0x04
  | .getPolicy => 0x10
  | .setPolicy => 0x11
  | .claim => 0x20
  | .modify => 0x21
  | .release => 0x22
  | .queryPin => 0x23
  | .bind => 0x30
  | .configure => 0x31
  | .stage => 0x32
  | .commit => 0x33
  | .cancel => 0x34
  | .start => 0x35
  | .arm => 0x36
  | .stop => 0x37
  | .startGroup => 0x38
  | .releaseChannel => 0x39
  | .adopt => 0x3A
  | .readChannel => 0x3B
  | .watch => 0x40
  | .unwatch => 0x41
  | .readPins => 0x42
  | .fetch => 0x50

/-- The 26 requests. -/
def allCommands : List Command :=
  [.openSession, .closeSession, .ping, .resetAll, .getPolicy, .setPolicy, .claim, .modify, .release,
   .queryPin, .bind, .configure, .stage, .commit, .cancel, .start, .arm, .stop, .startGroup,
   .releaseChannel, .adopt, .readChannel, .watch, .unwatch, .readPins, .fetch]

/-- The request a command byte names, if it is one of the 26 (R167). -/
def commandOf? (b : Byte) : Option Command := allCommands.find? fun cmd => commandCode cmd = b

/-- Whether a request needs a session that is OPEN or GRACE (R169). -/
def needsSession : Command → Bool
  | .openSession => false
  | .ping => false
  | _ => true

/-! ## Payload lengths (R170, R181) -/

/-- The byte at a position of a payload, 0 where the payload is shorter. -/
def byteAt (bs : List Byte) (i : Nat) : Byte := bs.getD i 0

/-- 1 where a presence byte marks the field, else 0. -/
def marked (pres : Byte) (i : Nat) : Nat := if pres.getLsbD i then 1 else 0

/-- Whether a payload length, with the presence marks in the payload, is one the command's layout allows. -/
def lengthOk (cmd : Command) (bs : List Byte) : Bool :=
  match cmd with
  | .openSession | .getPolicy | .release | .queryPin | .bind | .commit | .cancel | .start | .stop
  | .releaseChannel | .adopt | .readChannel | .unwatch | .fetch => bs.length = 1
  | .closeSession | .ping | .resetAll | .readPins => bs.length = 0
  | .setPolicy | .configure => bs.length = 9
  | .arm => bs.length = 3
  | .watch => bs.length = 2
  | .startGroup => 1 ≤ bs.length && bs.length ≤ 6
  | .claim =>
      let pres := byteAt bs 4
      5 ≤ bs.length && pres.toNat < 4 && bs.length = 5 + 2 * marked pres 0 + marked pres 1
  | .modify =>
      let pres := byteAt bs 1
      2 ≤ bs.length && pres.toNat < 16 &&
        bs.length = 2 + marked pres 0 + 2 * marked pres 1 + 2 * marked pres 2 + marked pres 3
  | .stage =>
      let pres := byteAt bs 1
      2 ≤ bs.length && pres.toNat < 16 &&
        bs.length = 2 + 2 * marked pres 0 + 2 * marked pres 1 + marked pres 2 + marked pres 3

/-! ## Fields -/

def pinOf? (b : Byte) : Option Pin := if h : b.toNat < 16 then some ⟨b.toNat, h⟩ else none

def chanOf? (b : Byte) : Option Chan := if h : b.toNat < 6 then some ⟨b.toNat, h⟩ else none

/-- A ceiling, 0 to 7. -/
def ceilingOf? (b : Byte) : Option Rank := if h : b.toNat < 8 then some ⟨b.toNat, h⟩ else none

/-- A rank, 1 to 7. -/
def rankOf? (b : Byte) : Option Rank := if b = 0 then none else ceilingOf? b

def prescaleOf? (b : Byte) : Option (Fin 9) := if h : b.toNat < 9 then some ⟨b.toNat, h⟩ else none

def filterOf? (b : Byte) : Option (Fin 16) := if h : b.toNat < 16 then some ⟨b.toNat, h⟩ else none

def modeOf? (b : Byte) : Option Mode :=
  match b.toNat with
  | 0 => some .oneShot
  | 1 => some .reload
  | 2 => some .wrap
  | _ => none

def roleOf? (b : Byte) : Option Role :=
  match b.toNat with
  | 0 => some .io
  | 1 => some .inputOnly
  | _ => none

def defaultOf? (b : Byte) : Option DefaultState :=
  match b.toNat with
  | 0 => some .float
  | 1 => some .pullUp
  | 2 => some .pullDown
  | 3 => some .driveLow
  | 4 => some .driveHigh
  | _ => none

def driveOf? (b : Byte) : Option DriveType :=
  match b.toNat with
  | 0 => some .pushPull
  | 1 => some .openDrain
  | _ => none

def boolOf? (b : Byte) : Option Bool :=
  match b.toNat with
  | 0 => some false
  | 1 => some true
  | _ => none

def edgeOf? (b : Byte) : Option Edge :=
  match b.toNat with
  | 1 => some .rise
  | 2 => some .fall
  | _ => none

def edgeSelOf? (b : Byte) : Option EdgeSel :=
  match b.toNat with
  | 1 => some .rise
  | 2 => some .fall
  | 3 => some .both
  | _ => none

/-- The high and the low four bits of a byte. -/
def highNibble (b : Byte) : Byte := b >>> 4
def lowNibble (b : Byte) : Byte := b &&& 0x0F

/-- A source: one of the six forms, its channels C0 to C5, a GATE of two different channels, and zero bits
where the layout gives zero (R13, R181). -/
def sourceOf? (form arg : Byte) : Option Source :=
  match form.toNat with
  | 1 => if arg = 0 then some .high else none
  | 2 => if arg = 0 then some .low else none
  | 3 => if arg = 0 then some .float else none
  | 4 => if lowNibble arg = 0 then (chanOf? (highNibble arg)).map .ch else none
  | 5 => if lowNibble arg = 0 then (chanOf? (highNibble arg)).map .chn else none
  | 6 =>
      match chanOf? (highNibble arg), chanOf? (lowNibble arg) with
      | some k, some m => if k = m then none else some (.gate k m)
      | _, _ => none
  | _ => none

/-- A clock source byte: BASE is 0x00; bits 7 and 6 are 01 for PIN and 10 for CHAIN. DESIGN CHOICE (log entry 18): bit 5
of PIN and bits 5 to 3 of CHAIN, which the layout does not name, must be zero. -/
def clockOf? (b : Byte) : Option ClockSource :=
  if b = 0 then some .base
  else if b &&& 0xF0 = 0x40 then (pinOf? (lowNibble b)).map fun n => .pin n .rise
  else if b &&& 0xF0 = 0x50 then (pinOf? (lowNibble b)).map fun n => .pin n .fall
  else if b &&& 0xF8 = 0x80 then (chanOf? (b &&& 0x07)).map .chain
  else none

/-- A field that is carried only where it is marked: the field, and the bytes after it. -/
def optByte (mark : Bool) (bs : List Byte) : Option Byte × List Byte :=
  if mark then (some (byteAt bs 0), bs.drop 1) else (none, bs)

def optWord (mark : Bool) (bs : List Byte) : Option Word × List Byte :=
  if mark then (some (wordOf (byteAt bs 0) (byteAt bs 1)), bs.drop 2) else (none, bs)

/-- An optional field whose value must be in its encoding where it is carried. -/
def optField {α : Type} (decode : Byte → Option α) : Option Byte → Option (Option α)
  | none => some none
  | some b => (decode b).map some

/-- An optional hold limit, which is not 0 where it is carried (R13, R16). -/
def holdField : Option Word → Option (Option Word)
  | none => some none
  | some h => if h = 0 then none else some (some h)

/-! ## Payloads -/

/-- The operands of CLAIM (R13). -/
structure ClaimArgs where
  pin    : Pin
  rank   : Rank
  source : Source
  hold   : Option Word
  wait   : Option Chan
  deriving DecidableEq, Repr

/-- The fields of a CLAIM payload, or none where check 1 of R13 fails. -/
def decodeClaim (bs : List Byte) : Option ClaimArgs :=
  let pres := byteAt bs 4
  let h := optWord (pres.getLsbD 0) (bs.drop 5)
  let w := optByte (pres.getLsbD 1) h.2
  match pinOf? (byteAt bs 0), rankOf? (byteAt bs 1), sourceOf? (byteAt bs 2) (byteAt bs 3),
      holdField h.1, optField chanOf? w.1 with
  | some p, some r, some src, some hold, some wait =>
      some { pin := p, rank := r, source := src, hold := hold, wait := wait }
  | _, _, _, _, _ => none

/-- The operands of MODIFY (R16). -/
structure ModifyArgs where
  pin    : Pin
  rank   : Option Rank
  source : Option Source
  hold   : Option Word
  wait   : Option Chan
  deriving DecidableEq, Repr

/-- A source field that is carried only where it is marked. -/
def optSource (mark : Bool) (bs : List Byte) : Option (Option Source) × List Byte :=
  if mark then ((sourceOf? (byteAt bs 0) (byteAt bs 1)).map some, bs.drop 2) else (some none, bs)

/-- The fields of a MODIFY payload, or none where check 1 of R16 fails. -/
def decodeModify (bs : List Byte) : Option ModifyArgs :=
  let pres := byteAt bs 1
  let r := optByte (pres.getLsbD 0) (bs.drop 2)
  let src := optSource (pres.getLsbD 1) r.2
  let h := optWord (pres.getLsbD 2) src.2
  let w := optByte (pres.getLsbD 3) h.2
  if pres.getLsbD 0 || pres.getLsbD 1 then
    match pinOf? (byteAt bs 0), optField rankOf? r.1, src.1, holdField h.1, optField chanOf? w.1 with
    | some p, some rank, some source, some hold, some wait =>
        some { pin := p, rank := rank, source := source, hold := hold, wait := wait }
    | _, _, _, _, _ => none
  else none

/-- The four ceilings of a SET POLICY payload. -/
def ceilingsOf? (a b c d : Byte) : Option (Vector Rank 4) :=
  match ceilingOf? a, ceilingOf? b, ceilingOf? c, ceilingOf? d with
  | some ra, some rb, some rc, some rd => some #v[ra, rb, rc, rd]
  | _, _, _, _ => none

/-- Whether an entry is one R31 admits: INPUT_ONLY has no driving default (R35). -/
def policyOk (e : Policy) : Bool :=
  e.role = .io || (e.dflt ≠ .driveLow && e.dflt ≠ .driveHigh)

/-- The pin and the entry of a SET POLICY payload, or none where check 1 of R35 fails. -/
def decodePolicy (bs : List Byte) : Option (Pin × Policy) :=
  match pinOf? (byteAt bs 0), roleOf? (byteAt bs 1), defaultOf? (byteAt bs 2), driveOf? (byteAt bs 3),
      filterOf? (byteAt bs 4),
      ceilingsOf? (byteAt bs 5) (byteAt bs 6) (byteAt bs 7) (byteAt bs 8) with
  | some p, some role, some dflt, some drive, some len, some ceil =>
      let e : Policy := { role := role, dflt := dflt, drive := drive, filterLen := len, ceilings := ceil }
      if policyOk e then some (p, e) else none
  | _, _, _, _, _, _ => none

/-- The channel and the settings record of a CONFIGURE payload, or none where check 1 of R60 fails. -/
def decodeConfigure (bs : List Byte) : Option (Chan × Settings) :=
  match chanOf? (byteAt bs 0), modeOf? (byteAt bs 1), prescaleOf? (byteAt bs 6), clockOf? (byteAt bs 7),
      boolOf? (byteAt bs 8) with
  | some k, some mode, some exp, some clock, some notify =>
      some (k, { mode := mode, reload := wordOf (byteAt bs 2) (byteAt bs 3),
                 compare := wordOf (byteAt bs 4) (byteAt bs 5), prescaleExp := exp,
                 clock := clock, notify := notify })
  | _, _, _, _, _ => none

/-- The fields of a STAGE payload, or none where check 3 of R74 fails. The channel is byte 0. -/
def decodeStage (bs : List Byte) : Option Staged :=
  let pres := byteAt bs 1
  let r := optWord (pres.getLsbD 0) (bs.drop 2)
  let c := optWord (pres.getLsbD 1) r.2
  let e := optByte (pres.getLsbD 2) c.2
  let m := optByte (pres.getLsbD 3) e.2
  if pres = 0 then none
  else
    match optField prescaleOf? e.1, optField modeOf? m.1 with
    | some exp, some mode => some { reload := r.1, compare := c.1, prescaleExp := exp, mode := mode }
    | _, _ => none

/-- The channel and trigger of an ARM payload, or none where one is out of range (R63). -/
def decodeArm (bs : List Byte) : Option (Chan × Pin × Edge) :=
  match chanOf? (byteAt bs 0), pinOf? (byteAt bs 1), edgeOf? (byteAt bs 2) with
  | some k, some p, some e => some (k, p, e)
  | _, _, _ => none

/-- The pin and the edge selection of a WATCH payload, or none where check 1 of R110 fails. -/
def decodeWatch (bs : List Byte) : Option (Pin × EdgeSel) :=
  match pinOf? (byteAt bs 0), edgeSelOf? (byteAt bs 1) with
  | some p, some e => some (p, e)
  | _, _ => none

end Sys2Proof.Machine
end

