-- ==== Sys2Proof/Machine/Ops.lean ====
section
/-! DEFINITION. The shared operations of the blocks: placing notices, references and freeing, claim lists and
waiting lists, resolution of pins, filtered edges, channel starts and boundaries, lease renewal, teardown,
device reset, and the taking of a request at a port. -/

namespace Sys2Proof.Machine

open Sys2Proof

/-- The part is held in reset: the power-on reset is in progress or NRST is low (R134). -/
def State.inReset (s : State) : Bool := s.por || s.nrstLow

/-! ## Notice queues (R141 to R145) and the attention line (R165) -/

/-- The kind and object of a notice (R140). -/
def Notice.key : Notice → NoticeKey
  | .edge p _ => .edge p
  | .topChange p _ _ _ => .topChange p
  | .claimExpired p => .claimExpired p
  | .terminal k => .terminal k
  | .commitEnd k _ => .commitEnd k
  | .sourceChange k _ _ => .sourceChange k
  | .leaseWarning => .leaseWarning
  | .overflow _ => .overflow

/-- A placement at a queue: coalesce, join at the tail, or drop and count (R142, R143, R145). -/
def Queue.place (q : Queue) (n : Notice) : Queue :=
  if q.entries.any fun e => e.notice.key = n.key then
    { q with entries := q.entries.map fun e =>
        if e.notice.key = n.key then { notice := n, repeats := min Config.countMax (e.repeats + 1) } else e }
  else if q.entries.length < Config.queueSize then
    { q with entries := q.entries ++ [{ notice := n, repeats := 1 }] }
  else { q with dropped := min Config.countMax (q.dropped + 1) }

/-- The removal of up to `n` entries from the head and the OVERFLOW it may place (R146, R147). -/
def Queue.fetch (q : Queue) (n : Nat) : Queue :=
  let rest : Queue := { q with entries := q.entries.drop n }
  if (q.entries.take n).isEmpty || q.dropped = 0 then rest
  else { rest.place (.overflow q.dropped) with dropped := 0 }

/-- Keeps a client's attention line by its two conditions (R165). -/
def State.syncAttention (s : State) (c : Client) : State :=
  s.setPort c { s.port c with
    attention := (s.port c).state = .answered || !(s.queue c).entries.isEmpty }

/-- A notice placed in a client's queue. -/
def State.place (s : State) (c : Client) (n : Notice) : State :=
  (s.setQueue c ((s.queue c).place n)).syncAttention c

/-- A notice placed in the queue of each listed client. -/
def State.placeAll (s : State) (cs : List Client) (n : Notice) : State :=
  cs.foldl (fun t c => t.place c n) s

/-! ## References and counts (R12, R91, R95 to R97, R120) -/

/-- The channels a source names. -/
def Source.names (src : Source) (k : Chan) : Bool :=
  match src with
  | .high | .low | .float => false
  | .ch i | .chn i => i = k
  | .gate i m => i = k || m = k

/-- Whether a claim names a channel in any of its three roles (R12). -/
def Claim.names (q : Claim) (k : Chan) : Bool :=
  q.source.names k || (q.change.bind (·.source)).any (·.names k) || q.wait = some k

/-- The reference count by its definition (R95). -/
def State.refsOf (s : State) (k : Chan) : Nat :=
  s.claims.countP (·.names k) + allChans.countP fun j => (s.channel j).settings.clock = .chain k

/-- Brings the reference counts and the three counts of each session to their definitions (R95, R120). -/
def State.recount (s : State) : State :=
  { s with
    channels := Vector.ofFn fun k => { s.channel k with refs := s.refsOf k }
    sessions := Vector.ofFn fun c =>
      { s.session c with
        claimsHeld := s.claims.countP (·.client = c)
        watchesHeld := s.watches.countP (·.client = c)
        channelsOwned := allChans.countP fun k => (s.channel k).owner = some c } }

/-- An orphaned channel whose last reference has left (R96). -/
def Channel.forsaken (ch : Channel) : Bool := ch.owner = none && ch.state ≠ .free && ch.refs = 0

/-- One orphan without references goes FREE, if there is one (R97). -/
def State.freeOne (s : State) : State :=
  match allChans.find? fun k => (s.channel k).forsaken with
  | none => s
  | some k => (s.setChannel k Channel.cleared).recount

/-- Orphans without references go FREE, and so on along their CHAIN sources (R97). -/
def State.freeOrphans (s : State) : State := s.freeOne.freeOne.freeOne.freeOne.freeOne.freeOne

/-- The counts after an event that may take references away, and the freeing it causes (R95 to R97). -/
def State.settleRefs (s : State) : State := s.recount.freeOrphans

/-! ## The claim pool and its lists (R2, R4, R5) -/

/-- A client's claim on a pin. -/
def State.claimAt (s : State) (c : Client) (p : Pin) : Option Claim :=
  s.claims.find? fun q => q.client = c && q.pin = p

/-- The client of a pin's top claim (R6). -/
def State.top (s : State) (p : Pin) : Option Client := (s.claimList p).head?

/-- A pin's top claim (R6). -/
def State.topClaim (s : State) (p : Pin) : Option Claim := (s.top p).bind fun c => s.claimAt c p

/-- The rank of a client's claim on a pin, 0 where it holds none. -/
def State.rankAt (s : State) (c : Client) (p : Pin) : Rank :=
  match s.claimAt c p with
  | some q => q.rank
  | none => 0

/-- Insertion immediately after the last claim whose rank is equal to or higher than `r` (R4). -/
def insertRanked (rk : Client → Rank) (c : Client) (r : Rank) : List Client → List Client
  | [] => [c]
  | x :: xs => if (x :: xs).any fun y => r ≤ rk y then x :: insertRanked rk c r xs else c :: x :: xs

/-- A claim enters its pin's claim list, or moves in it, by its rank (R4). -/
def State.enterList (s : State) (c : Client) (p : Pin) : State :=
  s.setClaimList p (insertRanked (fun y => s.rankAt y p) c (s.rankAt c p)
    ((s.claimList p).filter (· ≠ c)))

/-- Replaces a client's record on a pin. -/
def State.setClaim (s : State) (q : Claim) : State :=
  { s with claims := s.claims.map fun r => if r.client = q.client && r.pin = q.pin then q else r }

/-- A claim leaves whatever waiting list it stands in (R5). -/
def State.leaveWait (s : State) (c : Client) (p : Pin) : State :=
  { s with waitLists := Vector.ofFn fun k => (s.waitList k).filter (· ≠ (c, p)) }

/-- A claim is appended to a channel's waiting list, leaving any it stood in (R5). -/
def State.enterWait (s : State) (c : Client) (p : Pin) (k : Chan) : State :=
  let t := s.leaveWait c p
  t.setWaitList k (t.waitList k ++ [(c, p)])

/-- The claims selected leave the pool, their claim lists and their waiting lists. -/
def State.dropClaims (s : State) (gone : Client → Pin → Bool) : State :=
  { s with
    claims := s.claims.filter fun q => !gone q.client q.pin
    claimLists := Vector.ofFn fun p => (s.claimList p).filter fun c => !gone c p
    waitLists := Vector.ofFn fun k => (s.waitList k).filter fun w => !gone w.1 w.2 }

/-- The TOP_CHANGE notices of one pin for one event: `before` is the state the event found, and `excl` the
client whose own request the event is (R10, R11). -/
def State.noteTop (before : State) (excl : Option Client) (s : State) (p : Pin) : State :=
  if before.top p = s.top p then s
  else
    match s.top p with
    | none => s
    | some y =>
        let r := s.rankAt y p
        let t :=
          match before.top p with
          | some x =>
              if (s.claimList p).contains x && excl ≠ some x then s.place x (.topChange p false y r) else s
          | none => s
        if excl = some y then t else t.place y (.topChange p true y r)

/-- The TOP_CHANGE notices of one event, pins in ascending order (R10, R144). -/
def State.noteTops (before : State) (excl : Option Client) (s : State) : State :=
  allPins.foldl (fun t p => State.noteTop before excl t p) s

/-! ## Resolution of pins (R7, R8, R39 to R41) -/

/-- The level a source gives; none is float (R7). -/
def State.levelOf (s : State) (src : Source) : Option Level :=
  match src with
  | .high => some .high
  | .low => some .low
  | .float => none
  | .ch k => some (if (s.channel k).output then .high else .low)
  | .chn k => some (if (s.channel k).output then .low else .high)
  | .gate k m => some (if (s.channel k).output && (s.channel m).output then .high else .low)

/-- The default pull of a pin (R8, R40). -/
def Policy.pull (e : Policy) : Pull :=
  match e.dflt with
  | .pullUp => .up
  | .pullDown => .down
  | .float | .driveLow | .driveHigh => .none

/-- The resolved drive of an IO pin whose claim list is not empty (R8). -/
def Policy.driven (e : Policy) : Option Level → Driven × Pull
  | some .high => if e.drive = .pushPull then (.high, .none) else (.released, e.pull)
  | some .low => (.low, .none)
  | none => (.released, e.pull)

/-- The resolved drive of an IO pin whose claim list is empty (R8). -/
def Policy.idle (e : Policy) : Driven × Pull :=
  match e.dflt with
  | .float => (.released, .none)
  | .pullUp => (.released, .up)
  | .pullDown => (.released, .down)
  | .driveLow => (.low, .none)
  | .driveHigh => if e.drive = .pushPull then (.high, .none) else (.released, .none)

/-- What a pin's pad does: its resolution, or the setting of an INPUT_ONLY pad (R8, R40). -/
def State.resolve (s : State) (p : Pin) : Driven × Pull :=
  let e := s.policy p
  match e.role with
  | .inputOnly => (.released, e.pull)
  | .io =>
      match s.topClaim p with
      | some q => e.driven (s.levelOf q.source)
      | none => e.idle

/-- The level at a pin (R41). -/
def rawLevel (d : Driven) (pl : Pull) (b : BoardLevel) : Level :=
  match d with
  | .high => .high
  | .low => .low
  | .released =>
      if b.drives then b.level
      else
        match pl with
        | .up => .high
        | .down => .low
        | .none => b.level

/-- A pad takes a drive and a pull, and its raw level follows (R39, R41). -/
def Pad.take (pad : Pad) (d : Driven × Pull) : Pad :=
  { pad with driven := d.1, pull := d.2, raw := rawLevel d.1 d.2 pad.board }

/-- Every pad takes its resolution (R9, R39, R40). -/
def State.resolvePads (s : State) : State := s.mapPads fun p pad => pad.take (s.resolve p)

/-! ## Filtered edges (R42 to R44, R113) -/

def flipLevel : Level → Level
  | .low => .high
  | .high => .low

/-- The kind of the edge to a level (R44). -/
def edgeTo : Level → Edge
  | .high => .rise
  | .low => .fall

def EdgeSel.includes (sel : EdgeSel) (e : Edge) : Bool :=
  match sel with
  | .both => true
  | .rise => e = .rise
  | .fall => e = .fall

/-- What a channel does with a filtered edge handed to it: it is its trigger, or a clock input, or nothing
(R44, R50, R57). DESIGN CHOICE (log entry 7): a further edge that matches the trigger, before the TRIGGER_EDGE that takes
the first, is that same trigger, not a second one and not a clock input; and an edge of its PIN clock source that does not
match the trigger is dropped there, as at any ARMED channel, not kept as its first clock input. -/
def Channel.handEdge (ch : Channel) (p : Pin) (e : Edge) : Channel :=
  if ch.state = .armed && ch.trigger = some (p, e) then { ch with triggerDue := true }
  else if ch.state = .running && ch.settings.clock = .pin p e then { ch with inputsDue := ch.inputsDue + 1 }
  else ch

/-- The clients whose watch matches an edge of a pin (R113). -/
def State.watchers (s : State) (p : Pin) (e : Edge) : List Client :=
  (s.watches.filter fun w => w.pin = p && w.edges.includes e).map (·.client)

/-- The filter of a pad takes a change of its filtered level and hands the edge on (R42, R43, R44). The EDGE notices are
placed before anything a channel does with the edge; the other order, which R44, R115 and R153 allow too, is
`State.beginEdge` and `State.endEdge` (log entry 17). -/
def State.takeEdge (s : State) (p : Pin) : State :=
  let lvl := flipLevel (s.pad p).filtered
  let e := edgeTo lvl
  let t := s.setPad p { s.pad p with filtered := lvl, run := 0, tickDue := false }
  let u := t.placeAll (t.watchers p e) (.edge p lvl)
  u.mapChannels fun _ ch => ch.handEdge p e

/-- The first half of an edge that a channel takes ahead of its EDGE notices (R44, R153): the filter takes it and hands
it to the channels, and the notices are owed. -/
def State.beginEdge (s : State) (p : Pin) : State :=
  let lvl := flipLevel (s.pad p).filtered
  let t := s.setPad p { s.pad p with filtered := lvl, run := 0, tickDue := false }
  { t.mapChannels fun _ ch => ch.handEdge p (edgeTo lvl) with edgeOwed := some (p, lvl) }

/-- The second half: the EDGE notices that are owed are placed (R113). -/
def State.endEdge (s : State) : State :=
  match s.edgeOwed with
  | none => s
  | some (p, lvl) => { s with edgeOwed := none }.placeAll (s.watchers p (edgeTo lvl)) (.edge p lvl)

/-- A pad of filter length 0 whose filtered level has yet to follow its raw level (R43). -/
def State.lags (s : State) (p : Pin) : Bool :=
  (s.policy p).filterLen = 0 && (s.pad p).raw ≠ (s.pad p).filtered

/-- The filtered level of a lagging pad follows. -/
def State.follow (s : State) (p : Pin) : State := if s.lags p then s.takeEdge p else s

/-- EDGE notices that are owed are placed (log entry 17). Then the edges of filter length 0 that the last event made and
that no FILTERED_EDGE command has taken are taken, before anything else is (R43: at the moment of the change). -/
def State.settle (s : State) : State := if s.inReset then s else allPins.foldl State.follow s.endEdge

/-- The same for every pad but that of `p`, whose edge a channel is about to take; nothing owed is placed. -/
def State.followBut (s : State) (p : Pin) : State := (allPins.filter (· ≠ p)).foldl State.follow s

/-! ## Channels: output, start, SOURCE_CHANGE, activation, boundary -/

/-- The prescale in force (R47). -/
def Settings.prescale (r : Settings) : Nat := 2 ^ r.prescaleExp.val

/-- The output of a RUNNING channel by its settings and its position in the period (R53). -/
def Channel.outputNow (ch : Channel) : Bool :=
  if ch.settings.compare = 0 then false
  else if ch.settings.reload < ch.settings.compare then true
  else ch.startValue - ch.count < ch.settings.compare

/-- The output evaluated at a channel event (R53). -/
def Channel.evalOutput (ch : Channel) : Channel :=
  { ch with output := ch.state = .running && ch.outputNow }

/-- A start of a channel (R62, R64, R68). -/
def Channel.start (ch : Channel) : Channel :=
  Channel.evalOutput { ch with
    state := .running, count := ch.settings.reload, startValue := ch.settings.reload, phase := 0,
    trigger := none, inputsDue := 0, triggerDue := false }

/-- The application of staged fields to a settings record (R75). -/
def Settings.apply (r : Settings) (st : Staged) : Settings :=
  { r with
    reload := st.reload.getD r.reload
    compare := st.compare.getD r.compare
    prescaleExp := st.prescaleExp.getD r.prescaleExp
    mode := st.mode.getD r.mode }

/-- Whether a client holds a claim that names a channel (R102). -/
def State.relies (s : State) (c : Client) (k : Chan) : Bool :=
  s.claims.any fun q => q.client = c && q.names k

/-- SOURCE_CHANGE for a channel to the clients whose claims name it, less one (R102, R103). -/
def State.noteSource (s : State) (k : Chan) (excl : Option Client) : State :=
  s.placeAll (allClients.filter fun c => excl ≠ some c && s.relies c k)
    (.sourceChange k (s.channel k).state (s.channel k).owner.isSome)

/-- A notice to a channel's owner, if it has one. -/
def State.noteOwner (s : State) (k : Chan) (n : Notice) : State :=
  match (s.channel k).owner with
  | some c => s.place c n
  | none => s

/-- A claim with its pending change applied and its wait ended (R22). -/
def Claim.activated (q : Claim) : Claim :=
  { q with
    state := .live
    source := (q.change.bind (·.source)).getD q.source
    rank := (q.change.bind (·.rank)).getD q.rank
    wait := none
    change := none }

/-- The activation of one claim of a waiting list (R22): a PENDING claim enters its claim list; a LIVE one
moves in it where its rank changes. -/
def State.activateOne (s : State) (id : Client × Pin) : State :=
  match s.claimAt id.1 id.2 with
  | none => s
  | some q =>
      let t := s.setClaim q.activated
      if q.state = .pending || q.activated.rank ≠ q.rank then t.enterList id.1 id.2 else t

/-- The activation of a channel's waiting list from head to tail, one event, with its TOP_CHANGE notices
(R22, R24). -/
def State.activate (s : State) (k : Chan) : State :=
  State.noteTops s none ((s.waitList k).foldl State.activateOne (s.setWaitList k []))

/-- Step 1 of a boundary: a pending commit is applied and reported (R80, R81). -/
def State.boundaryCommit (s : State) (k : Chan) : State :=
  match (s.channel k).commit with
  | none => s
  | some st =>
      let t := s.setChannel k { s.channel k with
        settings := (s.channel k).settings.apply st, commit := none }
      t.noteOwner k (.commitEnd k true)

/-- A clock input handed to the RUNNING channels chained from `k` (R58, R80). DESIGN CHOICE (log entry 7): a channel whose
trigger edge waits for its TRIGGER_EDGE is still ARMED and gets none. -/
def State.handBoundary (s : State) (k : Chan) : State :=
  s.mapChannels fun _ ch =>
    if ch.state = .running && ch.settings.clock = .chain k then { ch with inputsDue := ch.inputsDue + 1 }
    else ch

/-- A channel that begins a new period of the start value given (R82). -/
def Channel.newPeriod (ch : Channel) (start : Word) : Channel :=
  Channel.evalOutput { ch with count := start, startValue := start, phase := 0 }

/-- A channel that goes to DONE (R83). -/
def Channel.finish (ch : Channel) : Channel :=
  { ch with state := .done, count := 0, phase := 0, output := false, inputsDue := 0 }

/-- Step 3 of a boundary: the mode decides what follows (R80, R82, R83). -/
def State.boundaryMode (s : State) (k : Chan) : State :=
  let ch := s.channel k
  match ch.settings.mode with
  | .reload => (s.setChannel k (ch.newPeriod ch.settings.reload)).handBoundary k
  | .wrap => (s.setChannel k (ch.newPeriod 65535)).handBoundary k
  | .oneShot => ((s.setChannel k ch.finish).noteSource k none).handBoundary k

/-- Step 4 of a boundary: TERMINAL to the owner where notify is on (R70, R80). -/
def State.boundaryTerminal (s : State) (k : Chan) : State :=
  if (s.channel k).settings.notify then s.noteOwner k (.terminal k) else s

/-- A period boundary of channel `k`, its four steps in order, then the freeing of orphans that lost their
last reference (R84) and one resolution of the pins (R80 to R84). -/
def State.boundary (s : State) (k : Chan) : State :=
  ((((s.boundaryCommit k).activate k).boundaryMode k).boundaryTerminal k).settleRefs.resolvePads

/-! ## Clock inputs (R51, R52, R56 to R58) -/

/-- What the next clock input of a channel makes: it raises the phase, it is a channel tick with the count
above 0, or it is a boundary (R51, R52). -/
inductive InputKind where
  | raise
  | tick
  | boundary
  deriving DecidableEq, Repr

def Channel.nextInput (ch : Channel) : InputKind :=
  if ch.phase.toNat + 1 = ch.settings.prescale then
    (if ch.count = 0 then .boundary else .tick)
  else .raise

/-- A base tick: every RUNNING channel on BASE has one clock input to take (R56). -/
def State.baseTick (s : State) : State :=
  s.mapChannels fun _ ch =>
    if ch.state = .running && ch.settings.clock = .base then { ch with inputsDue := ch.inputsDue + 1 } else ch

/-- A channel whose count falls by 1 at a channel tick (R52, R53). -/
def Channel.tick (ch : Channel) : Channel :=
  Channel.evalOutput { ch with phase := 0, count := ch.count - 1 }

/-- A clock input that is due at channel `k` is taken whole (R51, R52). -/
def State.takeInput (s : State) (k : Chan) : State :=
  let ch := { s.channel k with inputsDue := (s.channel k).inputsDue - 1 }
  match ch.nextInput with
  | .raise => s.setChannel k { ch with phase := ch.phase + 1 }
  | .tick => (s.setChannel k ch.tick).resolvePads
  | .boundary => (s.setChannel k { ch with phase := 0 }).boundary k

/-! ## Sessions: renewal and teardown (R126, R131) -/

/-- The lease renewal of an OPEN or GRACE session (R126, R168). -/
def Session.renewed (e : Session) : Session :=
  match e.state with
  | .closed => e
  | .opened | .grace =>
      { e with
        state := .opened
        leaseRemaining := some ((e.lease.getD 0).toNat * Config.leaseUnit)
        graceRemaining := none
        tickDue := false }

def State.renew (s : State) (c : Client) : State := s.setSession c (s.session c).renewed

/-- A channel as it stands once its owner has let it go (R98). -/
def Channel.letGo (ch : Channel) : Channel :=
  { ch with
    staging := none
    commit := none
    state := if ch.state = .armed then .stopped else ch.state
    trigger := none
    triggerDue := false
    owner := none }

/-- The release of a channel: what only an owner may hold is cleared, the owner becomes absent, and the
channel goes FREE or is orphaned, with SOURCE_CHANGE to the other clients that rely on it (R98, R99). -/
def State.letGo (s : State) (k : Chan) (excl : Client) : State :=
  let t := (s.setChannel k (s.channel k).letGo).settleRefs
  if (t.channel k).state = .free then t else t.noteSource k (some excl)

/-- Step 1 of a teardown: the session's claims are removed (R21). -/
def State.tearClaims (s : State) (c : Client) : State :=
  State.noteTops s none (s.dropClaims fun c' _ => c' = c).settleRefs

/-- Step 2 of a teardown: the session's watches are removed (R109). -/
def State.tearWatches (s : State) (c : Client) : State :=
  State.recount { s with watches := s.watches.filter fun w => w.client ≠ c }

/-- Step 3 of a teardown: the session's channels are released, in ascending order (R131, R144). -/
def State.tearChannels (s : State) (c : Client) : State :=
  allChans.foldl (fun t k => if (t.channel k).owner = some c then t.letGo k c else t) s

/-- Step 4 of a teardown: the session's queue is purged (R150). -/
def State.purge (s : State) (c : Client) : State := (s.setQueue c Queue.empty).syncAttention c

/-- Step 5 of a teardown: the session is CLOSED with its end cause (R131). -/
def Session.ended (e : Session) (cause : EndCause) : Session :=
  { e with
    state := .closed, lease := none, leaseRemaining := none, graceRemaining := none,
    priorEnd := cause, tickDue := false }

/-- The teardown of a session, one event (R131). -/
def State.teardown (s : State) (c : Client) (cause : EndCause) : State :=
  let t := (((s.tearClaims c).tearWatches c).tearChannels c).purge c
  (t.setSession c ((t.session c).ended cause)).resolvePads

/-! ## Device reset (R134, R135, R172) -/

/-- A pad at its reset values; its filter takes no sample (R38). The board goes on as it was. -/
def Pad.cleared (pad : Pad) : Pad :=
  { pad.take (.released, .down) with run := 0, tickDue := false }

/-- A port at its reset values, with a transaction in progress cut (R172). -/
def Port.cut (q : Port) : Port :=
  { Port.atReset with
    transaction := if q.transaction = .none then .none else .ignore
    out := q.out }

/-- A device reset: every block at its reset values, and the cause recorded (R121, R135). -/
def State.deviceReset (s : State) (cause : ResetCause) : State :=
  { pending    := s.pending
    ports      := Vector.ofFn fun c => (s.port c).cut
    sessions   := Vector.replicate 4 Session.atReset
    resetCause := cause
    por        := s.por
    nrstLow    := s.nrstLow
    claims     := []
    claimLists := Vector.replicate 16 []
    waitLists  := Vector.replicate 6 []
    policies   := Vector.replicate 16 Policy.atReset
    pads       := Vector.ofFn fun p => (s.pad p).cleared
    channels   := Vector.replicate 6 Channel.cleared
    watches    := []
    queues     := Vector.replicate 4 Queue.empty
    edgeOwed   := none }

/-- The first sample of every pad, without an edge (R45). -/
def State.firstSamples (s : State) : State :=
  s.mapPads fun _ pad => { pad with filtered := pad.raw, run := 0, tickDue := false }

/-! ## The taking of a request (R166 to R171) -/

/-- What an owning block answers: the state after it, the status and the reply's payload. -/
structure Result where
  state   : State
  status  : Status
  payload : List Byte

/-- A refusal: no state of the owning block changes (R167). -/
def refuse (s : State) (st : Status) : Result := { state := s, status := st, payload := [] }

/-- A request that may be taken now at a port without passing over another held request twice (R166). -/
def State.mayTake (s : State) (c : Client) : Bool :=
  allClients.all fun d => d = c || (s.port d).state ≠ .held || !(s.port d).passedBy.contains c

/-- The request frame held at a port, where it may be taken (R157, R166). -/
def State.heldFrame (s : State) (c : Client) : Option Frame :=
  if s.inReset then none
  else if (s.port c).state = .held && s.mayTake c then (s.port c).held
  else none

/-- The other held ports see one more request of `c` taken (R166). -/
def State.passing (s : State) (c : Client) : State :=
  s.mapPorts fun d q =>
    if d ≠ c && q.state = .held then { q with passedBy := c :: q.passedBy } else q

/-- The reply is built and enters the slot (R164, R171). -/
def State.answer (s : State) (c : Client) (tag : Byte) (st : Status) (payload : List Byte) : State :=
  s.setPort c { s.port c with
    state := .answered
    held := none
    reply := some { status := st, tag := tag, session := (s.session c).state,
                    depth := (s.queue c).entries.length, payload := payload }
    attention := true
    passedBy := [] }

/-- What the dispatcher does with a frame whose command is `cmd`: the common checks of R167 in order, then
the owning block. The lease has been renewed. -/
def State.serve (s : State) (c : Client) (cmd : Command) (payload : List Byte)
    (act : List Byte → State → Result) : Result :=
  if needsSession cmd && (s.session c).state = .closed then refuse s .noSession
  else if !lengthOk cmd payload then refuse s .badArg
  else act payload s

/-- The taking of a held request whose command is `cmd`, whole: the renewal, the checks, the owning block and
the reply (R166 to R171). Where the port holds no such request, none is taken. -/
def State.take (s : State) (c : Client) (cmd : Command) (act : List Byte → State → Result) : State :=
  let t := s.settle
  match t.heldFrame c with
  | none => t
  | some f =>
      if f.command = commandCode cmd then
        let r := ((t.renew c).passing c).serve c cmd f.payload act
        r.state.answer c f.tag r.status r.payload
      else t

end Sys2Proof.Machine
end

