-- ==== Sys2Proof/Machine/Session.lean ====
section
/-! DEFINITION. The session requests OPEN, CLOSE, PING and RESET ALL ("Sessions and Leases"), and the request
with an unknown command (R167). -/

namespace Sys2Proof.Machine

open Sys2Proof

/-- The answer of every meaning: a next state. -/
abbrev Out := Host.Outcome State Fault Refusal

/-- A session opened with a lease period (R123). -/
def Session.openWith (e : Session) (lease : Byte) : Session :=
  { e with
    state := .opened
    lease := some lease
    leaseRemaining := some (lease.toNat * Config.leaseUnit)
    graceRemaining := none
    tickDue := false }

/-- The fields of the OPEN reply, in order (R123). DEDUCED: the revision is one byte (log entry 9). -/
def openReply (s : State) (c : Client) (lease : Byte) : List Byte :=
  [byteOf c.val] ++ wordBytes Config.partCode ++
    [Config.revision, resetCauseByte s.resetCause, endCauseByte (s.session c).priorEnd, lease]

/-- OPEN at the session table (R123). -/
def openAct (c : Client) (bs : List Byte) (s : State) : Result :=
  let lease := byteAt bs 0
  if lease = 0 then refuse s .badArg
  else if (s.session c).state ≠ .closed then refuse s .state
  else
    { state := s.setSession c ((s.session c).openWith lease), status := .ok,
      payload := openReply s c lease }

def execOpen (c : Client) (s : State) : Out := .next (s.take c .openSession (openAct c))

/-- The three counts of a session as bytes (R120). -/
def countBytes (e : Session) : List Byte :=
  [byteOf e.claimsHeld, byteOf e.watchesHeld, byteOf e.channelsOwned]

/-- CLOSE at the session table: the counts before the teardown are reported (R130). -/
def closeAct (c : Client) (_ : List Byte) (s : State) : Result :=
  { state := s.teardown c .closed, status := .ok, payload := countBytes (s.session c) }

def execClose (c : Client) (s : State) : Out := .next (s.take c .closeSession (closeAct c))

/-- The fields of the PING reply; the lease period is marked and present when the session is OPEN (R129, R182).
DEDUCED: the counts and the queue depth are one byte each (log entry 9), and the presence byte stands before the lease
period (log entry 14). -/
def pingReply (s : State) (c : Client) : List Byte :=
  let e := s.session c
  [flagByte (e.state ≠ .closed), presenceByte [e.lease.isSome]] ++ e.lease.toList ++ countBytes e ++
    [byteOf (s.queue c).entries.length, endCauseByte e.priorEnd]

/-- PING at the session table (R129). -/
def pingAct (c : Client) (_ : List Byte) (s : State) : Result :=
  { state := s, status := .ok, payload := pingReply s c }

def execPing (c : Client) (s : State) : Out := .next (s.take c .ping (pingAct c))

/-- Every session other than the caller's is CLOSED (R35, R136). -/
def State.quiescentFor (s : State) (c : Client) : Bool :=
  allClients.all fun d => d = c || (s.session d).state = .closed

/-- RESET ALL at the session table: a device reset whose pads take their first samples at once (R45, R136).
The reply enters the caller's port afterwards, as every reply does. -/
def resetAllAct (c : Client) (_ : List Byte) (s : State) : Result :=
  if s.quiescentFor c then
    { state := (s.deviceReset .resetCommand).firstSamples, status := .ok, payload := [] }
  else refuse s .notQuiescent

def execResetAll (c : Client) (s : State) : Out := .next (s.take c .resetAll (resetAllAct c))

/-- The taking of a held request whose command is none of the 26: the lease is renewed and the reply is
UNKNOWN (R167, R168). -/
def State.takeUnknown (s : State) (c : Client) : State :=
  let t := s.settle
  match t.heldFrame c with
  | none => t
  | some f =>
      if commandOf? f.command = none then ((t.renew c).passing c).answer c f.tag .unknown [] else t

def execUnknown (c : Client) (s : State) : Out := .next (s.takeUnknown c)

end Sys2Proof.Machine
end

