-- ==== Sys2Proof/Machine/Bus.lean ====
section
/-! DEFINITION. The transactions at a client port: WRITE, READ and ignored ones ("Client Ports and Request
Handling", R156 to R163). -/

namespace Sys2Proof.Machine

open Sys2Proof

/-- Select is asserted: the port waits for the kind byte, or ignores the transaction while the part is held in
reset (R156, R172). -/
def State.busSelect (s : State) (c : Client) : State :=
  let q := s.port c
  if q.transaction = .none then
    s.setPort c { q with
      transaction := if s.inReset then .ignore else .kind
      rx := [], tx := [], txReply := false, out := [] }
  else s

/-- The frame a READ shifts out, judged at the kind byte: the reply in the slot, or NO_REPLY (R157, R161, R163). -/
def State.readFrame (s : State) (c : Client) : List Byte :=
  let q := s.port c
  let empty : Reply :=
    { status := .noReply, tag := 0, session := (s.session c).state,
      depth := (s.queue c).entries.length, payload := [] }
  replyBytes q.overrun (if q.state = .answered then q.reply.getD empty else empty)

/-- The kind byte is judged; the filler is shifted out meanwhile (R156, R157, R160). -/
def State.busKind (s : State) (c : Client) (kind : Byte) : State :=
  let q := { s.port c with out := (s.port c).out ++ [Config.filler] }
  if kind = Config.writeKind then
    if q.state = .ready then s.setPort c { q with transaction := .receive }
    else s.setPort c { q with transaction := .ignore, overrun := true }
  else if kind = Config.readKind then
    s.setPort c { q with
      transaction := .send, tx := s.readFrame c, txReply := q.state = .answered }
  else s.setPort c { q with transaction := .ignore }

/-- Whether a frame received so far takes another byte: the header is not complete, or the declared length is
at most 56 and the CRC byte has not come (R158, R159). -/
def frameOpen (rx : List Byte) : Bool :=
  rx.length < 3 ||
    ((byteAt rx 2).toNat ≤ Config.maxPayload && rx.length < 4 + (byteAt rx 2).toNat)

/-- One byte is shifted in and one out: the first of a transaction is its kind byte (R156, R158, R161). Clocks
without select do nothing. -/
def State.busByte (s : State) (c : Client) (b : Byte) : State :=
  let q := s.port c
  match q.transaction with
  | .kind => s.busKind c b
  | .receive =>
      s.setPort c { q with
        rx := if frameOpen q.rx then q.rx ++ [b] else q.rx, out := q.out ++ [Config.filler] }
  | .send => s.setPort c { q with tx := q.tx.drop 1, out := q.out ++ [q.tx.headD Config.filler] }
  | .ignore => s.setPort c { q with out := q.out ++ [Config.filler] }
  | .none => s

/-- The request frame of the bytes received, where the frame is good (R159). -/
def goodFrame (rx : List Byte) : Option Frame :=
  let len := (byteAt rx 2).toNat
  if 3 ≤ rx.length && len ≤ Config.maxPayload && 4 + len ≤ rx.length &&
      crc8 (rx.take (3 + len)) = byteAt rx (3 + len) then
    some { command := byteAt rx 0, tag := byteAt rx 1, payload := (rx.drop 3).take len }
  else none

/-- The end of a WRITE received in READY: a good frame is held, a bad one is answered FRAME_ERROR (R159). -/
def State.endWrite (s : State) (c : Client) : State :=
  match goodFrame (s.port c).rx with
  | some f =>
      s.setPort c { s.port c with
        state := .held, held := some f, transaction := .none, rx := [], passedBy := [] }
  | none =>
      (s.answer c (byteAt (s.port c).rx 1) .frameError []).setPort c
        { (s.answer c (byteAt (s.port c).rx 1) .frameError []).port c with transaction := .none, rx := [] }

/-- The end of a READ: a complete one of the slot's reply empties the slot and clears overrun (R161, R162). -/
def State.endRead (s : State) (c : Client) : State :=
  let q := { s.port c with transaction := .none, tx := [], txReply := false }
  if (s.port c).txReply && (s.port c).tx.isEmpty then
    (s.setPort c { q with state := .ready, reply := none, overrun := false }).syncAttention c
  else s.setPort c q

/-- Select is deasserted (R156, R159, R161). -/
def State.busDeselect (s : State) (c : Client) : State :=
  match (s.port c).transaction with
  | .receive => s.endWrite c
  | .send => s.endRead c
  | .kind | .ignore => s.setPort c { s.port c with transaction := .none }
  | .none => s

/-- A whole transaction, where none is in progress at the port. -/
def State.busWhole (s : State) (c : Client) (kind : Byte) (bytes : List Byte) : State :=
  if (s.port c).transaction = .none then
    ((kind :: bytes).foldl (fun t b => t.busByte c b) (s.busSelect c)).busDeselect c
  else s

/-- One part of a transaction whose kind byte is `kind`. -/
def State.bus (s : State) (c : Client) (kind : Byte) (part : BusPart) : State :=
  match part with
  | .select => s.busSelect c
  | .kind => s.busByte c kind
  | .byte b => s.busByte c b
  | .deselect => s.busDeselect c
  | .whole bytes => s.busWhole c kind bytes

/-- A WRITE transaction, or a part of one (R158 to R160). -/
def execWrite (c : Client) (part : BusPart) (s : State) : Out :=
  .next (s.settle.bus c Config.writeKind part)

/-- A READ transaction, or a part of one (R161 to R163). -/
def execRead (c : Client) (part : BusPart) (s : State) : Out :=
  .next (s.settle.bus c Config.readKind part)

/-- A transaction with an unknown kind byte, or a part of one (R156). -/
def execIgnored (c : Client) (kind : Byte) (part : BusPart) (s : State) : Out :=
  .next (s.bus c kind part)

end Sys2Proof.Machine
end

