-- ==== Sys2Proof/Machine/Channels.lean ====
section
/-! DEFINITION. The channel requests CONFIGURE, START, ARM, STOP, START GROUP and READ CHANNEL ("Waveform
Channels"). -/

namespace Sys2Proof.Machine

open Sys2Proof

/-- The walk of R59 from channel `j`: whether following CHAIN sources reaches `k`. The law of R59 bounds it by
the six channels. -/
def State.chainReaches (s : State) (k : Chan) : Nat → Chan → Bool
  | 0, _ => false
  | fuel + 1, j =>
      if j = k then true
      else
        match (s.channel j).settings.clock with
        | .chain i => s.chainReaches k fuel i
        | .base | .pin _ _ => false

/-- A CONFIGURE that passes its checks (R61): the record is replaced, the staging record discarded, and the
references of CHAIN sources follow. -/
def State.configure (s : State) (k : Chan) (r : Settings) : State :=
  (s.setChannel k { s.channel k with settings := r, staging := none }).settleRefs

/-- Check 4 and check 5 of R60 for a clock source. -/
def State.chainCheck (s : State) (k : Chan) (src : ClockSource) : Option Status :=
  match src with
  | .base | .pin _ _ => none
  | .chain j =>
      if (s.channel j).state = .free then some .sourceFree
      else if s.chainReaches k 6 j then some .loop
      else none

/-- CONFIGURE at the channel (R60, R61). -/
def configureAct (c : Client) (bs : List Byte) (s : State) : Result :=
  match decodeConfigure bs with
  | none => refuse s .badArg
  | some (k, r) =>
      if (s.channel k).owner ≠ some c then refuse s .notOwner
      else if (s.channel k).state ≠ .stopped && (s.channel k).state ≠ .done then refuse s .state
      else
        match s.chainCheck k r.clock with
        | some st => refuse s st
        | none => { state := s.configure k r, status := .ok, payload := [] }

def execConfigure (c : Client) (s : State) : Out := .next (s.take c .configure (configureAct c))

/-- The states START accepts (R62, R67). -/
def ChanState.startable : ChanState → Bool
  | .stopped => true
  | .done => true
  | .armed => true
  | .free => false
  | .running => false

/-- The channels listed are started in one event, then reported in ascending order, and the pins are resolved
(R62, R68, R144). -/
def State.startChans (s : State) (ks : List Chan) (excl : Option Client) : State :=
  let t := s.mapChannels fun k ch => if ks.contains k then ch.start else ch
  ((allChans.filter ks.contains).foldl (fun u k => u.noteSource k excl) t).resolvePads

/-- START at the channel (R62). -/
def startAct (c : Client) (bs : List Byte) (s : State) : Result :=
  match chanOf? (byteAt bs 0) with
  | none => refuse s .badArg
  | some k =>
      if (s.channel k).owner ≠ some c then refuse s .notOwner
      else if !(s.channel k).state.startable then refuse s .state
      else
        { state := s.startChans [k] (some c), status := .ok, payload := [chanStateByte .running] }

def execStart (c : Client) (s : State) : Out := .next (s.take c .start (startAct c))

/-- ARM at the channel (R63). -/
def armAct (c : Client) (bs : List Byte) (s : State) : Result :=
  match decodeArm bs with
  | none => refuse s .badArg
  | some (k, p, e) =>
      if (s.channel k).owner ≠ some c then refuse s .notOwner
      else if (s.channel k).state ≠ .stopped && (s.channel k).state ≠ .done then refuse s .state
      else
        { state := s.setChannel k { s.channel k with
            state := .armed, trigger := some (p, e), triggerDue := false },
          status := .ok, payload := [chanStateByte .armed] }

def execArm (c : Client) (s : State) : Out := .next (s.take c .arm (armAct c))

/-- STOP of a RUNNING channel, one event: the commit is dropped and reported, the waiting claims are activated,
the exit from RUNNING is reported, and the pins are resolved once (R23, R65). -/
def State.stopRunning (s : State) (k : Chan) (c : Client) : State :=
  let ch := s.channel k
  let t := s.setChannel k { ch with
    state := .stopped, output := false, commit := none, inputsDue := 0 }
  let u := if ch.commit.isSome then t.noteOwner k (.commitEnd k false) else t
  ((u.activate k).noteSource k (some c)).settleRefs.resolvePads

/-- STOP of an ARMED channel (R65). -/
def State.disarm (s : State) (k : Chan) : State :=
  s.setChannel k { s.channel k with state := .stopped, trigger := none, triggerDue := false }

/-- STOP at the channel (R65). -/
def stopAct (c : Client) (bs : List Byte) (s : State) : Result :=
  match chanOf? (byteAt bs 0) with
  | none => refuse s .badArg
  | some k =>
      if (s.channel k).owner ≠ some c then refuse s .notOwner
      else
        match (s.channel k).state with
        | .running =>
            { state := s.stopRunning k c, status := .ok, payload := [chanStateByte .stopped] }
        | .armed => { state := s.disarm k, status := .ok, payload := [chanStateByte .stopped] }
        | .free | .stopped | .done => refuse s .state

def execStop (c : Client) (s : State) : Out := .next (s.take c .stop (stopAct c))

/-- The first check of R67 that an entry of a START GROUP list fails. -/
def State.groupCheck (s : State) (c : Client) (earlier : List Byte) (b : Byte) : Option Status :=
  match chanOf? b with
  | none => some .badArg
  | some k =>
      if earlier.contains b then some .badArg
      else if (s.channel k).owner ≠ some c then some .notOwner
      else if !(s.channel k).state.startable then some .state
      else none

/-- The first entry of a START GROUP list that fails a check: its position from 1, its byte and the status. -/
def State.groupFail (s : State) (c : Client) (earlier : List Byte) : List Byte → Option (Nat × Byte × Status)
  | [] => none
  | b :: bs =>
      match s.groupCheck c earlier b with
      | some st => some (earlier.length + 1, b, st)
      | none => s.groupFail c (earlier ++ [b]) bs

/-- START GROUP at the channels (R67, R68). -/
def startGroupAct (c : Client) (bs : List Byte) (s : State) : Result :=
  match s.groupFail c [] bs with
  | some (pos, b, st) => { state := s, status := st, payload := [byteOf pos, b] }
  | none =>
      { state := s.startChans (bs.filterMap chanOf?) (some c), status := .ok, payload := [] }

def execStartGroup (c : Client) (s : State) : Out := .next (s.take c .startGroup (startGroupAct c))

/-- The fields of the READ CHANNEL reply (R69, R182). DEDUCED: the prescaler phase and the reference count are one byte
each (log entry 9), and the trigger is one conditional field (log entry 12). -/
def readChannelReply (s : State) (k : Chan) : List Byte :=
  let ch := s.channel k
  [chanStateByte ch.state, clientByte ch.owner] ++ settingsBytes ch.settings ++ wordBytes ch.count ++
    [ch.phase, flagByte ch.output, presenceByte [ch.trigger.isSome]] ++
    (ch.trigger.map fun t => [byteOf t.1.val, edgeByte t.2]).getD [] ++
    [flagByte ch.staging.isSome, flagByte ch.commit.isSome, byteOf ch.refs]

/-- READ CHANNEL at the channel (R69). -/
def readChannelAct (bs : List Byte) (s : State) : Result :=
  match chanOf? (byteAt bs 0) with
  | none => refuse s .badArg
  | some k => { state := s, status := .ok, payload := readChannelReply s k }

def execReadChannel (c : Client) (s : State) : Out := .next (s.take c .readChannel readChannelAct)

end Sys2Proof.Machine
end

