-- ==== Sys2Proof/Machine/Claims.lean ====
section
/-! DEFINITION. The claim requests CLAIM, MODIFY, RELEASE and QUERY PIN ("Drive Claims and Pin Resolution"). -/

namespace Sys2Proof.Machine

open Sys2Proof

/-- The highest rank a client may use on a pin (R31). -/
def Policy.ceiling (e : Policy) (c : Client) : Rank := e.ceilings[c.val]

/-- Whether a source or a wait channel names a channel that is FREE (R13 check 5, R16 check 5). -/
def State.namesFree (s : State) (src : Option Source) (wait : Option Chan) : Bool :=
  allChans.any fun k =>
    (s.channel k).state = .free && (src.any (·.names k) || wait = some k)

/-- The wait channel a request waits for: the one given, where it is RUNNING (R14, R15, R17, R18). -/
def State.waitsOn (s : State) (wait : Option Chan) : Option Chan :=
  wait.filter fun k => (s.channel k).state = .running

/-- Whether a client's claim is its pin's top claim. -/
def State.isTop (s : State) (c : Client) (p : Pin) : Bool := s.top p = some c

/-- The record a CLAIM fills (R14, R15). -/
def newClaim (c : Client) (a : ClaimArgs) (wait : Option Chan) : Claim :=
  { client := c, pin := a.pin, rank := a.rank, source := a.source,
    state := if wait.isSome then .pending else .live,
    wait := wait, hold := a.hold, holdLeft := a.hold, change := none, tickDue := false }

/-- A CLAIM that enters LIVE (R14). -/
def State.claimLive (s : State) (c : Client) (a : ClaimArgs) : State :=
  let t := ({ s with claims := s.claims ++ [newClaim c a none] }).enterList c a.pin
  (State.noteTops s (some c) t).recount.resolvePads

/-- A CLAIM that enters PENDING on a RUNNING wait channel (R15). -/
def State.claimPending (s : State) (c : Client) (a : ClaimArgs) (k : Chan) : State :=
  (({ s with claims := s.claims ++ [newClaim c a (some k)] }).enterWait c a.pin k).recount

/-- CLAIM at the claim pool: the checks of R13 in order, then R14 or R15. -/
def claimAct (c : Client) (bs : List Byte) (s : State) : Result :=
  match decodeClaim bs with
  | none => refuse s .badArg
  | some a =>
      if (s.policy a.pin).role ≠ .io then refuse s .role
      else if (s.policy a.pin).ceiling c < a.rank then refuse s .denied
      else if (s.claimAt c a.pin).isSome then refuse s .exists_
      else if s.namesFree (some a.source) a.wait then refuse s .sourceFree
      else if Config.claimPool ≤ s.claims.length then refuse s .poolFull
      else
        match s.waitsOn a.wait with
        | none =>
            let t := s.claimLive c a
            { state := t, status := .ok,
              payload := [claimStateByte .live, flagByte (t.isTop c a.pin)] }
        | some k =>
            { state := s.claimPending c a k, status := .ok,
              payload := [claimStateByte .pending, flagByte false] }

def execClaim (c : Client) (s : State) : Out := .next (s.take c .claim (claimAct c))

/-- A claim whose hold is restarted where MODIFY gives a hold limit (R19). -/
def Claim.rehold (q : Claim) (hold : Option Word) : Claim :=
  match hold with
  | none => q
  | some h => { q with hold := some h, holdLeft := some h, tickDue := false }

/-- A claim with the change of an applied MODIFY (R17). -/
def Claim.modified (q : Claim) (a : ModifyArgs) : Claim :=
  { q.rehold a.hold with
    rank := a.rank.getD q.rank, source := a.source.getD q.source, wait := none, change := none }

/-- A MODIFY applied at once (R17): the stored change is discarded, the source is replaced and a changed rank
moves the claim. -/
def State.modifyNow (s : State) (c : Client) (q : Claim) (a : ModifyArgs) : State :=
  let t := (s.setClaim (q.modified a)).leaveWait c q.pin
  let u := if (q.modified a).rank ≠ q.rank then t.enterList c q.pin else t
  (State.noteTops s (some c) u).settleRefs.resolvePads

/-- A MODIFY stored until a boundary of its wait channel (R18). -/
def State.modifyLater (s : State) (c : Client) (q : Claim) (a : ModifyArgs) (k : Chan) : State :=
  let q' : Claim :=
    { q.rehold a.hold with wait := some k, change := some { rank := a.rank, source := a.source } }
  -- an orphan that only the replaced change named loses its last reference (R12, R96)
  ((s.setClaim q').enterWait c q.pin k).settleRefs

/-- MODIFY at the claim pool: the checks of R16 in order, then R17 or R18, with R19. -/
def modifyAct (c : Client) (bs : List Byte) (s : State) : Result :=
  match decodeModify bs with
  | none => refuse s .badArg
  | some a =>
      match s.claimAt c a.pin with
      | none => refuse s .noClaim
      | some q =>
          if q.state ≠ .live then refuse s .state
          else if (a.rank.any fun r => (s.policy a.pin).ceiling c < r) then refuse s .denied
          else if s.namesFree a.source a.wait then refuse s .sourceFree
          else
            match s.waitsOn a.wait with
            | none =>
                let t := s.modifyNow c q a
                { state := t, status := .ok,
                  payload := [0, byteOf (t.rankAt c a.pin).val, flagByte (t.isTop c a.pin)] }
            | some k =>
                let t := s.modifyLater c q a k
                { state := t, status := .ok,
                  payload := [1, byteOf (t.rankAt c a.pin).val, flagByte (t.isTop c a.pin)] }

def execModify (c : Client) (s : State) : Out := .next (s.take c .modify (modifyAct c))

/-- The removal of one claim with the TOP_CHANGE notices of the event (R20, R27). -/
def State.dropClaim (s : State) (c : Client) (p : Pin) (excl : Option Client) : State :=
  State.noteTops s excl (s.dropClaims fun c' p' => c' = c && p' = p)

/-- A RELEASE that finds a claim (R20). -/
def State.releaseClaim (s : State) (c : Client) (p : Pin) : State :=
  (s.dropClaim c p (some c)).settleRefs.resolvePads

/-- RELEASE at the claim pool (R20). -/
def releaseAct (c : Client) (bs : List Byte) (s : State) : Result :=
  match pinOf? (byteAt bs 0) with
  | none => refuse s .badArg
  | some p =>
      match s.claimAt c p with
      | none => refuse s .noClaim
      | some q =>
          { state := s.releaseClaim c p, status := .ok,
            payload := [claimStateByte q.state, flagByte (s.isTop c p)] }

def execRelease (c : Client) (s : State) : Out := .next (s.take c .release (releaseAct c))

/-- The claims of one state on a pin. -/
def State.claimsIn (s : State) (p : Pin) (st : ClaimState) : Nat :=
  s.claims.countP fun q => q.pin = p && q.state = st

/-- The fields of the QUERY PIN reply, with one presence byte before the first that may be absent (R29, R182). DEDUCED:
the live and the pending count are one byte each (log entry 9), and the presence byte has six bits (log entry 11). -/
def queryReply (s : State) (c : Client) (p : Pin) : List Byte :=
  let pad := s.pad p
  let top := s.topClaim p
  let own := s.claimAt c p
  let holdLeft := own.bind (·.holdLeft)
  let wait := own.bind (·.wait)
  [drivenByte pad.driven, pullByte pad.pull, clientByte (s.top p),
    presenceByte [top.isSome, top.isSome, own.isSome, own.isSome, holdLeft.isSome, wait.isSome]] ++
  (top.map fun q => byteOf q.rank.val :: sourceBytes q.source).getD [] ++
  [byteOf (s.claimsIn p .live), byteOf (s.claimsIn p .pending),
    (own.map fun q => claimStateByte q.state).getD 0] ++
  (own.map fun q => byteOf q.rank.val :: sourceBytes q.source).getD [] ++
  (holdLeft.map wordBytes).getD [] ++
  (wait.map fun k => [byteOf k.val]).getD [] ++
  [flagByte (own.any (·.change.isSome)), levelByte pad.filtered]

/-- QUERY PIN at the claim pool (R29). -/
def queryPinAct (c : Client) (bs : List Byte) (s : State) : Result :=
  match pinOf? (byteAt bs 0) with
  | none => refuse s .badArg
  | some p => { state := s, status := .ok, payload := queryReply s c p }

def execQueryPin (c : Client) (s : State) : Out := .next (s.take c .queryPin (queryPinAct c))

end Sys2Proof.Machine
end

