-- ==== Sys2Proof/Machine/Events.lean ====
section
/-! DEFINITION. The events of the channels and the pads: CLOCK_INPUT, CHANNEL_TICK, PERIOD_BOUNDARY, TRIGGER_EDGE
and PIN_LEVEL_CHANGE. A command that names an event that is not due changes nothing (log entry 1). -/

namespace Sys2Proof.Machine

open Sys2Proof

/-! ## What waits at the channels -/

/-- The pin and the kind of edge a channel waits for: its trigger while ARMED, its clock source while RUNNING (R44). -/
def Channel.edgePin (ch : Channel) : Option (Pin × Edge) :=
  match ch.state, ch.settings.clock with
  | .armed, _ => ch.trigger
  | .running, .pin n e => some (n, e)
  | _, _ => none

/-- A trigger edge or a clock input was handed to a channel and waits to be taken. -/
def Channel.waiting (ch : Channel) : Bool := ch.triggerDue || 0 < ch.inputsDue

/-- An edge of a kind is due at a pad and not yet taken by its filter. -/
def State.edgeComes (s : State) (p : Pin) (e : Edge) : Bool :=
  (s.lags p || (s.pad p).tickDue) && edgeTo (flipLevel (s.pad p).filtered) = e

/-- The state in which channel `k` is to take what waits at it. Where that is an edge still due at its pin, the edge begins
here, and its EDGE notices are owed: the channel's own notices come first, as R44, R115 and R153 allow. So they
stay owed for a further channel that takes the same edge (log entry 17). Else everything is settled first: DESIGN CHOICE
(log entry 17), so the notices of a channel CHAINed from one that took the edge come after its EDGE notices, though R153
allows either order. -/
def State.ready (s : State) (k : Chan) : State :=
  match (s.channel k).edgePin with
  | none => s.settle
  | some (p, e) =>
      if s.inReset then s
      else if (s.channel k).waiting && s.edgeOwed.any (·.1 = p) && !s.lags p then s.followBut p
      else if !(s.channel k).waiting && s.edgeComes p e then (s.endEdge.followBut p).beginEdge p
      else s.settle

/-- A channel takes what waits at it: its trigger, or one clock input. -/
def State.takeOne (s : State) (k : Chan) : State :=
  if (s.channel k).state = .armed && (s.channel k).triggerDue then s.startChans [k] none
  else if (s.channel k).state = .running && 0 < (s.channel k).inputsDue then s.takeInput k
  else s

/-- A channel takes all that waits at it now, every edge this makes at filter length 0 being taken between. -/
def State.takeWaiting (s : State) (k : Chan) : State :=
  if (s.channel k).waiting then
    Nat.repeat (fun t : State => (t.takeOne k).settle) (max 1 (s.channel k).inputsDue) s
  else s

/-- All channels take what waits at them, in ascending order. -/
def State.takeAllWaiting (s : State) : State := allChans.foldl State.takeWaiting s

/-- What the last base tick and the edges since have handed on is taken, and so on along the CHAIN sources, which lead
over five channels at most (R59): a base tick finds no channel with an input of the one before (R56). Any other
order of these events is had by commands that take them (log entry 7). -/
def State.catchUp (s : State) : State := Nat.repeat State.takeAllWaiting 6 s

/-- The state in which channel `k` has a clock input to take: one handed to it, or, for a channel on BASE,
one of the base tick that comes now, once the inputs of the last one are taken. None where it has none, or is
not RUNNING (R50, R56 to R58). -/
def State.inputReady (s : State) (k : Chan) : Option State :=
  if (s.channel k).state ≠ .running then none
  else if 0 < (s.channel k).inputsDue then some s
  else if (s.channel k).settings.clock = .base && (s.catchUp.channel k).state = .running then some s.catchUp.baseTick
  else none

/-! ## The events -/

/-- The next clock input of a channel is taken, where it has one and the input is of a kind asked for. -/
def State.clocked (s : State) (k : Chan) (asked : InputKind → Bool) : State :=
  match (s.ready k).inputReady k with
  | some t => if asked (t.channel k).nextInput then t.takeInput k else s.settle
  | none => s.settle

/-- A clock input is taken whole (R51): a channel that is not RUNNING ignores it (R50). -/
def execClockInput (k : Chan) (s : State) : Out := .next (s.clocked k fun _ => true)

/-- A clock input that is a channel tick with the count above 0 (R52). -/
def execChannelTick (k : Chan) (s : State) : Out := .next (s.clocked k fun i => i = .tick)

/-- A clock input that is a period boundary (R80). -/
def execPeriodBoundary (k : Chan) (s : State) : Out := .next (s.clocked k fun i => i = .boundary)

/-- The trigger edge handed to an ARMED channel starts it, and every client that relies on it is told (R64). -/
def State.triggered (s : State) (k : Chan) : State :=
  let t := s.ready k
  if (t.channel k).state = .armed && (t.channel k).triggerDue then t.startChans [k] none else s.settle

/-- The trigger edge of a channel is taken (R64). -/
def execTriggerEdge (k : Chan) (s : State) : Out := .next (s.triggered k)

/-- The board changes what it does at a pin; the raw level of a released pad follows (R41). -/
def State.boardChange (s : State) (p : Pin) (b : BoardLevel) : State :=
  let pad := s.pad p
  s.setPad p { pad with board := b, raw := rawLevel pad.driven pad.pull b }

/-- The board changes the level at a pin (R41). -/
def execPinLevelChange (p : Pin) (b : BoardLevel) (s : State) : Out := .next (s.settle.boardChange p b)

end Sys2Proof.Machine
end

