-- ==== Sys2Proof/Machine/Ownership.lean ====
section
/-! DEFINITION. The ownership requests BIND, RELEASE CHANNEL and ADOPT ("Channel Ownership and References"). -/

namespace Sys2Proof.Machine

open Sys2Proof

/-- A channel bound to a client: a FREE channel's values, STOPPED and owned (R92). -/
def State.bindTo (s : State) (k : Chan) (c : Client) : State :=
  (s.setChannel k { s.channel k with state := .stopped, owner := some c }).recount

/-- The lowest-numbered FREE channel (R93). -/
def State.lowestFree (s : State) : Option Chan :=
  allChans.find? fun k => (s.channel k).state = .free

/-- BIND at the channels, of a named channel or of "any" (R92, R93). -/
def bindAct (c : Client) (bs : List Byte) (s : State) : Result :=
  if byteAt bs 0 = 0xFF then
    match s.lowestFree with
    | none => refuse s .noChannel
    | some k => { state := s.bindTo k c, status := .ok, payload := [byteOf k.val] }
  else
    match chanOf? (byteAt bs 0) with
    | none => refuse s .badArg
    | some k =>
        if (s.channel k).state ≠ .free then refuse s .inUse
        else { state := s.bindTo k c, status := .ok, payload := [byteOf k.val] }

def execBind (c : Client) (s : State) : Out := .next (s.take c .bind (bindAct c))

/-- The RELEASE CHANNEL reply: FREED or ORPHANED, the state and the reference count (R98). DEDUCED: the count is one
byte (log entry 9). -/
def releaseReply (ch : Channel) : List Byte :=
  [flagByte (ch.state ≠ .free), chanStateByte ch.state, byteOf ch.refs]

/-- RELEASE CHANNEL at the channel (R98, R99). -/
def releaseChannelAct (c : Client) (bs : List Byte) (s : State) : Result :=
  match chanOf? (byteAt bs 0) with
  | none => refuse s .badArg
  | some k =>
      if (s.channel k).owner ≠ some c then refuse s .notOwner
      else
        let t := s.letGo k c
        { state := t, status := .ok, payload := releaseReply (t.channel k) }

def execReleaseChannel (c : Client) (s : State) : Out :=
  .next (s.take c .releaseChannel (releaseChannelAct c))

/-- A channel adopted by a client (R101). -/
def State.adopt (s : State) (k : Chan) (c : Client) : State :=
  ((s.setChannel k { s.channel k with owner := some c }).recount).noteSource k (some c)

/-- ADOPT at the channel (R101). DEDUCED: the reference count in the reply is one byte (log entry 9). -/
def adoptAct (c : Client) (bs : List Byte) (s : State) : Result :=
  match chanOf? (byteAt bs 0) with
  | none => refuse s .badArg
  | some k =>
      if (s.channel k).state = .free then refuse s .state
      else if (s.channel k).owner.isSome then refuse s .notOrphan
      else
        let t := s.adopt k c
        { state := t, status := .ok,
          payload := [chanStateByte (t.channel k).state, byteOf (t.channel k).refs] }

def execAdopt (c : Client) (s : State) : Out := .next (s.take c .adopt (adoptAct c))

end Sys2Proof.Machine
end

