-- ==== Sys2Proof/Machine/PolicyTable.lean ====
section
/-! DEFINITION. The policy requests GET POLICY and SET POLICY ("Pin Policy and Pad Behaviour"). -/

namespace Sys2Proof.Machine

open Sys2Proof

/-- GET POLICY at the policy table (R34). -/
def getPolicyAct (bs : List Byte) (s : State) : Result :=
  match pinOf? (byteAt bs 0) with
  | none => refuse s .badArg
  | some p => { state := s, status := .ok, payload := policyBytes p (s.policy p) }

def execGetPolicy (c : Client) (s : State) : Out := .next (s.take c .getPolicy getPolicyAct)

/-- A clock source that names a pin, with either edge (R35 check 5). -/
def ClockSource.usesPin (src : ClockSource) (p : Pin) : Bool :=
  match src with
  | .pin n _ => n = p
  | .base | .chain _ => false

/-- A channel that holds a pin against SET POLICY: by its clock source in any state other than FREE, or by
its trigger while ARMED (R35 checks 5 and 6). -/
def Channel.holdsPin (ch : Channel) (p : Pin) : Bool :=
  (ch.state ≠ .free && ch.settings.clock.usesPin p) ||
    (ch.state = .armed && ch.trigger.any fun t => t.1 = p)

/-- A pin in use: it holds a claim, is watched, clocks a channel or is a trigger (R35 checks 3 to 6). -/
def State.pinInUse (s : State) (p : Pin) : Bool :=
  s.claims.any (fun q => q.pin = p) || s.watches.any (fun w => w.pin = p) ||
    allChans.any fun k => (s.channel k).holdsPin p

/-- A policy entry replaced: the filter run starts anew and the pad takes its new setting (R36). An edge that
a new filter length of 0 or the new drive brings about follows at once, as every edge of that length. An edge
that the last millisecond tick brought about came with that tick, before the request, and is taken first (R42). -/
def State.writePolicy (s : State) (p : Pin) (e : Policy) : State :=
  let u := if (s.pad p).tickDue then s.takeEdge p else s
  let t := (u.setPolicy p e).setPad p { u.pad p with run := 0, tickDue := false }
  t.resolvePads

/-- SET POLICY at the policy table (R35, R36). DEDUCED: the reply has the nine bytes of GET POLICY (log entry 10). -/
def setPolicyAct (c : Client) (bs : List Byte) (s : State) : Result :=
  match decodePolicy bs with
  | none => refuse s .badArg
  | some (p, e) =>
      if !s.quiescentFor c then refuse s .notQuiescent
      else if s.pinInUse p then refuse s .inUse
      else { state := s.writePolicy p e, status := .ok, payload := policyBytes p e }

def execSetPolicy (c : Client) (s : State) : Out := .next (s.take c .setPolicy (setPolicyAct c))

end Sys2Proof.Machine
end

