-- ==== Sys2Proof/Machine/Reset.lean ====
section
/-! DEFINITION. The device reset events POWER_ON, POWER_ON_RESET_END, NRST and RESET_END (R134, R135, R138, R172). -/

namespace Sys2Proof.Machine

open Sys2Proof

/-- The supply comes up: a device reset with cause POWER_ON, which lasts until the power-on reset ends (R134). -/
def execPowerOn (s : State) : Out :=
  .next { s.deviceReset .powerOn with por := true }

/-- The end of a reset: every pad takes its first sample (R45); the ports are at their reset values. -/
def State.leaveReset (s : State) : State := s.firstSamples

/-- The power-on reset ends by itself. Where NRST is low, the part stays in reset until NRST returns high (R134). -/
def execPowerOnResetEnd (s : State) : Out :=
  if s.por then
    (if s.nrstLow then .next { s with por := false } else .next ({ s with por := false }).leaveReset)
  else .next s

/-- NRST goes low: a device reset with cause RESET_PIN, but for a low taken before the power-on reset has ended,
which leaves POWER_ON recorded (R134). A second low without a return high is no new event. -/
def execNrst (s : State) : Out :=
  if s.nrstLow then .next s
  else if s.por then .next { s with nrstLow := true }
  else .next { s.deviceReset .resetPin with nrstLow := true }

/-- NRST returns high: the reset ends, but for a power-on reset still in progress (R45, R134). -/
def execResetEnd (s : State) : Out :=
  if s.nrstLow then
    (if s.por then .next { s with nrstLow := false } else .next ({ s with nrstLow := false }).leaveReset)
  else .next s

end Sys2Proof.Machine
end

