-- ==== Sys2Proof/Machine/Staging.lean ====
section
/-! DEFINITION. The staging requests STAGE, COMMIT and CANCEL ("Staged Updates and Period Boundaries"). -/

namespace Sys2Proof.Machine

open Sys2Proof

/-- The fields given merged into the record held, if one is held (R74). -/
def Staged.merge (given : Staged) (held : Option Staged) : Staged :=
  { reload := given.reload.or (held.bind (·.reload))
    compare := given.compare.or (held.bind (·.compare))
    prescaleExp := given.prescaleExp.or (held.bind (·.prescaleExp))
    mode := given.mode.or (held.bind (·.mode)) }

/-- STAGE at the channel (R74). -/
def stageAct (c : Client) (bs : List Byte) (s : State) : Result :=
  match chanOf? (byteAt bs 0) with
  | none => refuse s .badArg
  | some k =>
      if (s.channel k).owner ≠ some c then refuse s .notOwner
      else
        match decodeStage bs with
        | none => refuse s .badArg
        | some given =>
            let r := given.merge (s.channel k).staging
            { state := s.setChannel k { s.channel k with staging := some r }, status := .ok,
              payload := stagedBytes r }

def execStage (c : Client) (s : State) : Out := .next (s.take c .stage (stageAct c))

/-- The COMMIT reply: the channel's state, and whether a staging record and a pending commit are held (R77). -/
def commitReply (ch : Channel) : List Byte :=
  [chanStateByte ch.state, flagByte ch.staging.isSome, flagByte ch.commit.isSome]

/-- What a COMMIT that holds a staging record makes of its channel, and its status (R77, R78). -/
def Channel.commitStaged (ch : Channel) (st : Staged) : Channel × Status :=
  if ch.state ≠ .running then
    ({ ch with settings := ch.settings.apply st, staging := none }, .ok)
  else if ch.commit.isSome then (ch, .pending)
  else ({ ch with staging := none, commit := some st }, .accepted)

/-- COMMIT at the channel (R76, R77, R78). -/
def commitAct (c : Client) (bs : List Byte) (s : State) : Result :=
  match chanOf? (byteAt bs 0) with
  | none => refuse s .badArg
  | some k =>
      if (s.channel k).owner ≠ some c then refuse s .notOwner
      else
        match (s.channel k).staging with
        | none => refuse s .badArg
        | some st =>
            let r := (s.channel k).commitStaged st
            { state := s.setChannel k r.1, status := r.2, payload := commitReply r.1 }

def execCommit (c : Client) (s : State) : Out := .next (s.take c .commit (commitAct c))

/-- CANCEL at the channel (R79). -/
def cancelAct (c : Client) (bs : List Byte) (s : State) : Result :=
  match chanOf? (byteAt bs 0) with
  | none => refuse s .badArg
  | some k =>
      if (s.channel k).owner ≠ some c then refuse s .notOwner
      else if (s.channel k).commit.isNone then refuse s .nonePending
      else
        { state := s.setChannel k { s.channel k with commit := none }, status := .ok, payload := [] }

def execCancel (c : Client) (s : State) : Out := .next (s.take c .cancel (cancelAct c))

end Sys2Proof.Machine
end

