-- ==== Sys2Proof/Machine/Timers.lean ====
section
/-! DEFINITION. The millisecond tick and the events it brings about: MILLISECOND_TICK, HOLD_EXPIRY, LEASE_EXPIRY,
GRACE_EXPIRY and FILTERED_EDGE. A tick counts every running timer and filter down; an expiry or an edge that
it brings about is marked due, and is taken by its own command, in the order of the commands (R28, R128,
R166), and at the latest before the next tick. -/

namespace Sys2Proof.Machine

open Sys2Proof

/-! ## The tick as it comes (R26, R42, R125, R127) -/

/-- A timer counted down: none where this tick brings it to 0. -/
def countDown (n : Nat) : Option Nat := if n ≤ 1 then none else some (n - 1)

/-- A claim at a tick: the hold of a LIVE claim counts (R26). -/
def Claim.tick (q : Claim) : Claim :=
  match q.state, q.holdLeft with
  | .live, some h =>
      match countDown h.toNat with
      | some n => { q with holdLeft := some (BitVec.ofNat 16 n) }
      | none => { q with tickDue := true }
  | _, _ => q

/-- A session at a tick: the lease of an OPEN session or the grace of a GRACE session counts (R125, R127). -/
def Session.tick (e : Session) : Session :=
  match e.state with
  | .closed => e
  | .opened =>
      match countDown (e.leaseRemaining.getD 0) with
      | some n => { e with leaseRemaining := some n }
      | none => { e with tickDue := true }
  | .grace =>
      match countDown (e.graceRemaining.getD 0) with
      | some n => { e with graceRemaining := some n }
      | none => { e with tickDue := true }

/-- A pad of filter length 1 to 15 at a tick (R42); length 0 counts no ticks (R43). -/
def Pad.tick (pad : Pad) (len : Nat) : Pad :=
  if len = 0 then pad
  else if pad.raw = pad.filtered then { pad with run := 0 }
  else if pad.run + 1 < len then { pad with run := pad.run + 1 }
  else { pad with tickDue := true }

/-- A millisecond tick comes: timers and filters count, and what it brings about is marked due. DESIGN CHOICE (log
entry 6): the filters sample the raw levels here, before a hold or grace expiry of the same tick changes a pin's drive;
the spec orders neither before the other (R26, R42, R127). -/
def State.tickComes (s : State) : State :=
  if s.inReset then s
  else
    let t := { s with claims := s.claims.map Claim.tick }
    (t.mapSessions fun _ e => e.tick).mapPads fun p pad => pad.tick (s.policy p).filterLen.val

/-! ## The events (R27, R125, R127, R44) -/

/-- A hold expiry that is due at a client's claim on a pin. -/
def State.holdDue (s : State) (c : Client) (p : Pin) : Bool :=
  (s.claimAt c p).any fun q => q.state = .live && q.tickDue

/-- A hold expiry (R27): the claim is removed, its client is told, and the new top's client. -/
def State.expireHold (s : State) (c : Client) (p : Pin) : State :=
  ((s.dropClaim c p none).settleRefs.resolvePads).place c (.claimExpired p)

def State.leaseDue (s : State) (c : Client) : Bool :=
  (s.session c).state = .opened && (s.session c).tickDue

/-- The session entry at a lease expiry (R125). -/
def Session.toGrace (e : Session) : Session :=
  { e with
    state := .grace
    leaseRemaining := none
    graceRemaining := some ((e.lease.getD 0).toNat * Config.leaseUnit)
    tickDue := false }

/-- A lease expiry (R125). -/
def State.expireLease (s : State) (c : Client) : State :=
  (s.setSession c (s.session c).toGrace).place c .leaseWarning

def State.graceDue (s : State) (c : Client) : Bool :=
  (s.session c).state = .grace && (s.session c).tickDue

/-- A grace expiry (R127). -/
def State.expireGrace (s : State) (c : Client) : State := s.teardown c .lapsed

/-- A filtered edge that a millisecond tick made due (R42). -/
def State.edgeDue (s : State) (p : Pin) : Bool := (s.pad p).tickDue

/-! ## What is left of the last tick -/

/-- The events of the last tick that no command has taken: hold expiries, then session expiries, then edges,
each in ascending order. Any other order is had by commands that take them (log entry 6). -/
def State.takeDue (s : State) : State :=
  let holds := allPins.foldl (fun t p => allClients.foldl (fun u c =>
    if u.holdDue c p then (u.expireHold c p).settle else u) t) s
  let leases := allClients.foldl (fun u c =>
    if u.leaseDue c then u.expireLease c
    else if u.graceDue c then (u.expireGrace c).settle
    else u) holds
  allPins.foldl (fun u p => if u.edgeDue p then u.takeEdge p else u) leases

/-- The next millisecond tick: what is left of the last one is taken first. -/
def State.nextTick (s : State) : State := if s.inReset then s else s.takeDue.tickComes

/-- An event of a tick: taken where it is due; else, where the next tick makes it due, that tick comes with
this event as the first taken of it. -/
def State.ofTick (s : State) (due : State → Bool) (event : State → State) : State :=
  if due s then event s else if due s.nextTick then event s.nextTick else s

/-- A millisecond tick (R26, R42, R125, R127). -/
def execMillisecondTick (s : State) : Out := .next s.settle.nextTick

/-- The hold of a client's claim on a pin runs out (R27). -/
def execHoldExpiry (c : Client) (p : Pin) (s : State) : Out :=
  .next (s.settle.ofTick (fun t => t.holdDue c p) fun t => t.expireHold c p)

/-- The lease of a session runs out (R125). -/
def execLeaseExpiry (c : Client) (s : State) : Out :=
  .next (s.settle.ofTick (fun t => t.leaseDue c) fun t => t.expireLease c)

/-- The grace period of a session runs out (R127). -/
def execGraceExpiry (c : Client) (s : State) : Out :=
  .next (s.settle.ofTick (fun t => t.graceDue c) fun t => t.expireGrace c)

/-- The filter of a pad takes a change of its filtered level: at length 0 where it lags, at length 1 to 15 at a
millisecond tick (R42, R43, R44). Edges of other pads that are due stay due: their order is the commands'. Where the
pad's edge is one that a channel took ahead of its EDGE notices, those are placed, and that ends it (log entry 17). -/
def execFilteredEdge (p : Pin) (s : State) : Out :=
  if s.inReset then .next s
  else if s.edgeOwed.any (·.1 = p) then .next s.endEdge
  else if s.lags p || s.edgeDue p then .next (s.endEdge.takeEdge p)
  else .next (s.settle.ofTick (fun t => t.edgeDue p) fun t => t.takeEdge p)

end Sys2Proof.Machine
end

