-- ==== Sys2Proof/Machine/Watches.lean ====
section
/-! DEFINITION. The watch requests WATCH, UNWATCH and READ PINS ("Input Watches"), and FETCH ("Notice Queues"). -/

namespace Sys2Proof.Machine

open Sys2Proof

/-- A client's watch on a pin. -/
def State.watchAt (s : State) (c : Client) (p : Pin) : Option Watch :=
  s.watches.find? fun w => w.client = c && w.pin = p

/-- The WATCH reply; the selection that was replaced is there for REPLACED only (R110, R111).
DEDUCED: it follows the outcome byte without a presence byte (log entry 13). -/
def watchReply (s : State) (p : Pin) (e : EdgeSel) (was : Option EdgeSel) : List Byte :=
  [byteOf p.val, flagByte was.isSome, edgeSelByte e] ++ (was.map fun w => [edgeSelByte w]).getD [] ++
    [levelByte (s.pad p).filtered]

/-- A new watch in the pool (R110). -/
def State.addWatch (s : State) (w : Watch) : State :=
  State.recount { s with watches := s.watches ++ [w] }

/-- A watch changed in place (R111). -/
def State.setWatch (s : State) (w : Watch) : State :=
  { s with watches := s.watches.map fun v => if v.client = w.client && v.pin = w.pin then w else v }

/-- WATCH at the watch table (R110, R111). -/
def watchAct (c : Client) (bs : List Byte) (s : State) : Result :=
  match decodeWatch bs with
  | none => refuse s .badArg
  | some (p, e) =>
      match s.watchAt c p with
      | some w =>
          { state := s.setWatch { client := c, pin := p, edges := e }, status := .ok,
            payload := watchReply s p e (some w.edges) }
      | none =>
          if Config.watchPool ≤ s.watches.length then refuse s .poolFull
          else
            { state := s.addWatch { client := c, pin := p, edges := e }, status := .ok,
              payload := watchReply s p e none }

def execWatch (c : Client) (s : State) : Out := .next (s.take c .watch (watchAct c))

/-- A watch returned to the pool (R112). -/
def State.dropWatch (s : State) (c : Client) (p : Pin) : State :=
  State.recount { s with watches := s.watches.filter fun w => !(w.client = c && w.pin = p) }

/-- UNWATCH at the watch table (R112). -/
def unwatchAct (c : Client) (bs : List Byte) (s : State) : Result :=
  match pinOf? (byteAt bs 0) with
  | none => refuse s .badArg
  | some p =>
      match s.watchAt c p with
      | none => refuse s .noWatch
      | some w =>
          { state := s.dropWatch c p, status := .ok, payload := [byteOf p.val, edgeSelByte w.edges] }

def execUnwatch (c : Client) (s : State) : Out := .next (s.take c .unwatch (unwatchAct c))

/-- The sixteen filtered levels as one quantity, Pn in bit n (R116, R182). -/
def State.pinLevels (s : State) : Word :=
  allPins.foldr
    (fun p acc => if (s.pad p).filtered = .high then acc ||| ((1 : Word) <<< p.val) else acc) 0

/-- READ PINS at the watch table (R116). -/
def readPinsAct (_ : List Byte) (s : State) : Result :=
  { state := s, status := .ok, payload := wordBytes s.pinLevels }

def execReadPins (c : Client) (s : State) : Out := .next (s.take c .readPins readPinsAct)

/-- The FETCH reply: how many notices, then the notices from head to tail (R146, R182). -/
def fetchReply (taken : List Entry) : List Byte :=
  byteOf taken.length :: (taken.map entryBytes).flatten

/-- FETCH at the caller's queue (R146, R147). -/
def fetchAct (c : Client) (bs : List Byte) (s : State) : Result :=
  let n := (byteAt bs 0).toNat
  if 1 ≤ n && n ≤ 6 then
    { state := (s.setQueue c ((s.queue c).fetch n)).syncAttention c, status := .ok,
      payload := fetchReply ((s.queue c).entries.take n) }
  else refuse s .badArg

def execFetch (c : Client) (s : State) : Out := .next (s.take c .fetch (fetchAct c))

end Sys2Proof.Machine
end

