-- ==== Sys2Proof/Machine/Dispatch.lean ====
section
/-! DEFINITION. One arm per command: each calls its meaning. -/

namespace Sys2Proof.Machine

open Sys2Proof

def exec (i : Instr) (s : State) : Host.Outcome State Fault Refusal :=
  match i with
  | .openSession c => Sys2Proof.Machine.execOpen c s
  | .closeSession c => Sys2Proof.Machine.execClose c s
  | .ping c => Sys2Proof.Machine.execPing c s
  | .resetAll c => Sys2Proof.Machine.execResetAll c s
  | .getPolicy c => Sys2Proof.Machine.execGetPolicy c s
  | .setPolicy c => Sys2Proof.Machine.execSetPolicy c s
  | .claim c => Sys2Proof.Machine.execClaim c s
  | .modify c => Sys2Proof.Machine.execModify c s
  | .release c => Sys2Proof.Machine.execRelease c s
  | .queryPin c => Sys2Proof.Machine.execQueryPin c s
  | .bind c => Sys2Proof.Machine.execBind c s
  | .configure c => Sys2Proof.Machine.execConfigure c s
  | .stage c => Sys2Proof.Machine.execStage c s
  | .commit c => Sys2Proof.Machine.execCommit c s
  | .cancel c => Sys2Proof.Machine.execCancel c s
  | .start c => Sys2Proof.Machine.execStart c s
  | .arm c => Sys2Proof.Machine.execArm c s
  | .stop c => Sys2Proof.Machine.execStop c s
  | .startGroup c => Sys2Proof.Machine.execStartGroup c s
  | .releaseChannel c => Sys2Proof.Machine.execReleaseChannel c s
  | .adopt c => Sys2Proof.Machine.execAdopt c s
  | .readChannel c => Sys2Proof.Machine.execReadChannel c s
  | .watch c => Sys2Proof.Machine.execWatch c s
  | .unwatch c => Sys2Proof.Machine.execUnwatch c s
  | .readPins c => Sys2Proof.Machine.execReadPins c s
  | .fetch c => Sys2Proof.Machine.execFetch c s
  | .unknownCommand c => Sys2Proof.Machine.execUnknown c s
  | .write c part => Sys2Proof.Machine.execWrite c part s
  | .read c part => Sys2Proof.Machine.execRead c part s
  | .ignoredTransaction c kind part => Sys2Proof.Machine.execIgnored c kind part s
  | .clockInput k => Sys2Proof.Machine.execClockInput k s
  | .channelTick k => Sys2Proof.Machine.execChannelTick k s
  | .periodBoundary k => Sys2Proof.Machine.execPeriodBoundary k s
  | .triggerEdge k => Sys2Proof.Machine.execTriggerEdge k s
  | .pinLevelChange p b => Sys2Proof.Machine.execPinLevelChange p b s
  | .filteredEdge p => Sys2Proof.Machine.execFilteredEdge p s
  | .holdExpiry c p => Sys2Proof.Machine.execHoldExpiry c p s
  | .leaseExpiry c => Sys2Proof.Machine.execLeaseExpiry c s
  | .graceExpiry c => Sys2Proof.Machine.execGraceExpiry c s
  | .powerOn => Sys2Proof.Machine.execPowerOn s
  | .nrst => Sys2Proof.Machine.execNrst s
  | .resetEnd => Sys2Proof.Machine.execResetEnd s
  | .millisecondTick => Sys2Proof.Machine.execMillisecondTick s
  | .powerOnResetEnd => Sys2Proof.Machine.execPowerOnResetEnd s

end Sys2Proof.Machine
end

