-- ==== Sys2Proof/Safety.lean ====
section
/-! DEFINITION. What the spec's laws say of every state: the conditions a safe state meets, one per block. Each is
decidable, holds of the reset state, and is meant to be kept by every step. -/

namespace Sys2Proof.Machine

open Sys2Proof

/-- A notice queue: at most 12 entries, no two of one kind and object, counts in range, and a dropped count
above 0 only beside 12 entries (R140, R142, R145). -/
abbrev Queue.Ok (q : Queue) : Prop :=
  q.entries.length ≤ Config.queueSize ∧ (q.entries.map fun e => e.notice.key).Nodup ∧
    (∀ e ∈ q.entries, 1 ≤ e.repeats ∧ e.repeats ≤ Config.countMax) ∧ q.dropped ≤ Config.countMax ∧
    (0 < q.dropped → q.entries.length = Config.queueSize)

abbrev State.QueuesOk (s : State) : Prop := ∀ c : Client, (s.queue c).Ok

/-- The attention line is asserted exactly when the slot is ANSWERED or the queue is non-empty (R165). -/
abbrev State.AttentionOk (s : State) : Prop :=
  ∀ c : Client, (s.port c).attention = ((s.port c).state = .answered || !(s.queue c).entries.isEmpty)

/-- A port: a frame is held exactly in HELD, a reply exactly in ANSWERED (R155), and a transaction in progress
is one its port state admits (R157). -/
abbrev Port.Ok (q : Port) : Prop :=
  (q.held.isSome ↔ q.state = .held) ∧ (q.reply.isSome ↔ q.state = .answered) ∧
    (q.transaction = .receive → q.state = .ready) ∧
    (q.txReply → q.transaction = .send ∧ q.state = .answered)

abbrev State.PortsOk (s : State) : Prop := ∀ c : Client, (s.port c).Ok

/-- A session entry: each optional item present exactly in the states R120 gives, and the timers in range. -/
abbrev Session.Ok (e : Session) : Prop :=
  (e.lease.isSome ↔ e.state ≠ .closed) ∧
    (e.leaseRemaining.isSome ↔ e.state = .opened) ∧
    (e.graceRemaining.isSome ↔ e.state = .grace) ∧
    (∀ n ∈ e.leaseRemaining, 1 ≤ n ∧ n ≤ (e.lease.getD 0).toNat * Config.leaseUnit) ∧
    (∀ n ∈ e.graceRemaining, 1 ≤ n ∧ n ≤ (e.lease.getD 0).toNat * Config.leaseUnit) ∧
    (e.tickDue → e.leaseRemaining = some 1 ∨ e.graceRemaining = some 1)

abbrev State.SessionsOk (s : State) : Prop := ∀ c : Client, (s.session c).Ok

/-- A claim record (R1, R16, R31): its rank and a rank that is to come, its optional fields, and its hold. -/
abbrev Claim.Ok (q : Claim) : Prop :=
  1 ≤ q.rank.val ∧
    (q.state = .pending → q.wait.isSome ∧ q.change = none) ∧
    (q.state = .live → (q.wait.isSome ↔ q.change.isSome)) ∧
    (q.change.all fun g => (g.rank.isSome || g.source.isSome) && g.rank.all fun r => 1 ≤ r.val) ∧
    (q.hold.isSome ↔ q.holdLeft.isSome) ∧
    (q.holdLeft.all fun h => 1 ≤ h.toNat && h.toNat ≤ (q.hold.getD 0).toNat) ∧
    (q.tickDue → q.state = .live ∧ q.holdLeft = some 1)

/-- The claim pool: at most 40 records and at most one per pin and client (R2). -/
abbrev State.PoolOk (s : State) : Prop :=
  s.claims.length ≤ Config.claimPool ∧ (s.claims.map fun q => (q.client, q.pin)).Nodup ∧
    ∀ q ∈ s.claims, q.Ok

/-- Every claim belongs to a session that is not CLOSED and stands within its pin's policy (R3). -/
abbrev State.ClaimsLawful (s : State) : Prop :=
  ∀ q ∈ s.claims,
    (s.session q.client).state ≠ .closed ∧ (s.policy q.pin).role = .io ∧
      q.rank ≤ (s.policy q.pin).ceilings[q.client.val] ∧
      (q.change.bind (·.rank)).all fun r => 1 ≤ r.val && r ≤ (s.policy q.pin).ceilings[q.client.val]

/-- A claim list holds exactly its pin's LIVE claims, once each, in order of rank from highest down (R4). -/
abbrev State.ListsOk (s : State) : Prop :=
  ∀ p : Pin, (s.claimList p).Nodup ∧
    (∀ c : Client, c ∈ s.claimList p ↔ ∃ q ∈ s.claims, q.client = c ∧ q.pin = p ∧ q.state = .live) ∧
    (s.claimList p).Pairwise fun a b => s.rankAt b p ≤ s.rankAt a p

/-- A waiting list holds exactly the claims that wait on its channel, once each (R5), and is empty unless the
channel is RUNNING (R50). -/
abbrev State.WaitsOk (s : State) : Prop :=
  ∀ k : Chan, (s.waitList k).Nodup ∧
    (∀ c : Client, ∀ p : Pin,
      (c, p) ∈ s.waitList k ↔ ∃ q ∈ s.claims, q.client = c ∧ q.pin = p ∧ q.wait = some k) ∧
    (s.waitList k ≠ [] → (s.channel k).state = .running)

/-- Every reference count and every session count equals its definition (R95, R120). -/
abbrev State.CountsOk (s : State) : Prop :=
  (∀ k : Chan, (s.channel k).refs = s.refsOf k) ∧
    ∀ c : Client,
      (s.session c).claimsHeld = (s.claims.countP fun q => q.client = c) ∧
      (s.session c).watchesHeld = (s.watches.countP fun w => w.client = c) ∧
      (s.session c).channelsOwned = allChans.countP fun k => (s.channel k).owner = some c

/-- A channel by its state (R46, R49, R50, R53, R72, R73, R96). At most one base tick's input waits at it (R56). -/
abbrev Channel.Ok (ch : Channel) : Prop :=
  (ch.state = .free ↔ ch.owner = none ∧ ch.refs = 0) ∧
    (ch.state = .free → ch = Channel.cleared) ∧
    (ch.trigger.isSome ↔ ch.state = .armed) ∧
    (ch.state = .armed → ch.owner.isSome) ∧
    (ch.staging.isSome → ch.owner.isSome) ∧
    (ch.commit.isSome → ch.owner.isSome ∧ ch.state = .running) ∧
    (ch.output = (ch.state = .running && ch.outputNow)) ∧
    (ch.state = .running → ch.phase.toNat < ch.settings.prescale ∧ ch.count ≤ ch.startValue) ∧
    (ch.state = .done → ch.count = 0 ∧ ch.phase = 0) ∧
    (0 < ch.inputsDue → ch.state = .running) ∧
    (ch.settings.clock = .base → ch.inputsDue ≤ 1) ∧
    (ch.triggerDue → ch.state = .armed)

abbrev State.ChannelsOk (s : State) : Prop := ∀ k : Chan, (s.channel k).Ok

/-- Following CHAIN sources from any channel never returns to it (R59), and a CHAIN source is not FREE. -/
abbrev State.ChainsOk (s : State) : Prop :=
  ∀ k j : Chan, (s.channel k).settings.clock = .chain j →
    s.chainReaches k 6 j = false ∧ (s.channel j).state ≠ .free

/-- Every pad carries out its pin's resolution, and its raw level is the level at the pin (R8, R39 to R41);
every entry is one the policy table admits (R31). -/
abbrev State.PadsOk (s : State) : Prop :=
  ∀ p : Pin, ((s.pad p).driven, (s.pad p).pull) = s.resolve p ∧
    (s.pad p).raw = rawLevel (s.pad p).driven (s.pad p).pull (s.pad p).board ∧
    policyOk (s.policy p) = true

/-- A pad's filter run (R42, R43). -/
abbrev State.FiltersOk (s : State) : Prop :=
  ∀ p : Pin, (s.pad p).run ≤ (s.policy p).filterLen.val - 1 ∧
    ((s.pad p).tickDue → (s.policy p).filterLen ≠ 0)

/-- EDGE notices are owed for the edge that gave their pad its filtered level, and only out of reset (R113, log
entry 17). -/
abbrev State.EdgeOk (s : State) : Prop :=
  s.edgeOwed.all fun o => (s.pad o.1).filtered = o.2 && !s.inReset

/-- The watch pool: at most 24 records, at most one per client and pin, each of a session not CLOSED (R107,
R109). -/
abbrev State.WatchesOk (s : State) : Prop :=
  s.watches.length ≤ Config.watchPool ∧ (s.watches.map fun w => (w.client, w.pin)).Nodup ∧
    ∀ w ∈ s.watches, (s.session w.client).state ≠ .closed

/-- A CLOSED session holds no claim, watch, channel or notice (R131). -/
abbrev State.ClosedOk (s : State) : Prop :=
  ∀ c : Client, (s.session c).state = .closed →
    (s.queue c).entries = [] ∧ (s.queue c).dropped = 0 ∧ ∀ k : Chan, (s.channel k).owner ≠ some c

/-- The laws of all the blocks together. -/
structure State.Lawful (s : State) : Prop where
  queues : s.QueuesOk
  attention : s.AttentionOk
  ports : s.PortsOk
  sessions : s.SessionsOk
  pool : s.PoolOk
  claims : s.ClaimsLawful
  lists : s.ListsOk
  waits : s.WaitsOk
  counts : s.CountsOk
  channels : s.ChannelsOk
  chains : s.ChainsOk
  pads : s.PadsOk
  filters : s.FiltersOk
  edge : s.EdgeOk
  watches : s.WatchesOk
  closed : s.ClosedOk

/-- No CHAIN loop (R59): the part of `ChainsOk` that says so. -/
abbrev State.NoLoops (s : State) : Prop :=
  ∀ k j : Chan, (s.channel k).settings.clock = .chain j → s.chainReaches k 6 j = false

/-- Every reply in a slot is one R182 allows: its payload has at most 25 bytes, and every held request is a
frame of at most 56 payload bytes (R158). -/
abbrev State.FramesFit (s : State) : Prop :=
  ∀ c : Client, ((s.port c).reply.all fun r => r.payload.length ≤ 25) ∧
    ((s.port c).held.all fun f => f.payload.length ≤ Config.maxPayload)

/-! ## Requests at a port -/

/-- The command that takes a request of a port. -/
def requestAt (c : Client) : Command → Instr
  | .openSession => .openSession c
  | .closeSession => .closeSession c
  | .ping => .ping c
  | .resetAll => .resetAll c
  | .getPolicy => .getPolicy c
  | .setPolicy => .setPolicy c
  | .claim => .claim c
  | .modify => .modify c
  | .release => .release c
  | .queryPin => .queryPin c
  | .bind => .bind c
  | .configure => .configure c
  | .stage => .stage c
  | .commit => .commit c
  | .cancel => .cancel c
  | .start => .start c
  | .arm => .arm c
  | .stop => .stop c
  | .startGroup => .startGroup c
  | .releaseChannel => .releaseChannel c
  | .adopt => .adopt c
  | .readChannel => .readChannel c
  | .watch => .watch c
  | .unwatch => .unwatch c
  | .readPins => .readPins c
  | .fetch => .fetch c

/-- A good frame of a request. -/
def frameOf (cmd : Command) (tag : Byte) (payload : List Byte) : Frame :=
  { command := commandCode cmd, tag := tag, payload := payload }

/-- The part is out of reset, every filter of length 0 has followed its pin, and no EDGE notice is owed. -/
abbrev State.Calm (s : State) : Prop :=
  s.inReset = false ∧ (∀ p : Pin, s.lags p = false) ∧ s.edgeOwed = none

/-- No clock input and no trigger edge waits at any channel. -/
abbrev State.Quiet (s : State) : Prop :=
  ∀ k : Chan, (s.channel k).inputsDue = 0 ∧ (s.channel k).triggerDue = false

/-- Port `c` holds the frame `f`, and the dispatcher may take it now. -/
abbrev State.Asks (s : State) (c : Client) (f : Frame) : Prop :=
  s.Calm ∧ (s.port c).state = .held ∧ (s.port c).held = some f ∧ s.mayTake c = true

/-- The session of a client is OPEN or GRACE. -/
abbrev State.InSession (s : State) (c : Client) : Prop := (s.session c).state ≠ .closed

/-! ## Payloads by their layouts ("Frame and Record Formats, Pins") -/

/-- A CLAIM payload. -/
def claimPayload (p : Pin) (r : Rank) (src : Source) (hold : Option Word) (wait : Option Chan) : List Byte :=
  [byteOf p.val, byteOf r.val] ++ sourceBytes src ++ [presenceByte [hold.isSome, wait.isSome]] ++
    (hold.map wordBytes).getD [] ++ (wait.map fun k => [byteOf k.val]).getD []

/-- A MODIFY payload. -/
def modifyPayload (p : Pin) (r : Option Rank) (src : Option Source) (hold : Option Word)
    (wait : Option Chan) : List Byte :=
  [byteOf p.val, presenceByte [r.isSome, src.isSome, hold.isSome, wait.isSome]] ++
    (r.map fun x => [byteOf x.val]).getD [] ++ (src.map sourceBytes).getD [] ++
    (hold.map wordBytes).getD [] ++ (wait.map fun k => [byteOf k.val]).getD []

/-- A source that names two different channels where it is a GATE (R1, R13). -/
def Source.formed : Source → Bool
  | .gate k m => k ≠ m
  | .high | .low | .float | .ch _ | .chn _ => true

/-- The payload lengths of the table of commands (R170), and for the optional fields those that the presence byte
marks (R181). -/
abbrev lengthPermitted (cmd : Command) (pl : List Byte) : Prop :=
  match cmd with
  | .closeSession | .ping | .resetAll | .readPins => pl = []
  | .openSession | .getPolicy | .release | .queryPin | .bind | .commit | .cancel | .start | .stop
  | .releaseChannel | .adopt | .readChannel | .unwatch | .fetch => pl.length = 1
  | .watch => pl.length = 2
  | .arm => pl.length = 3
  | .setPolicy | .configure => pl.length = 9
  | .startGroup => 0 < pl.length ∧ pl.length < 7
  | .claim =>
      4 < pl.length ∧ (pl.getD 4 0).toNat ≤ 3 ∧
        pl.length = 5 + (if (pl.getD 4 0).getLsbD 0 then 2 else 0) + (if (pl.getD 4 0).getLsbD 1 then 1 else 0)
  | .modify =>
      1 < pl.length ∧ (pl.getD 1 0).toNat ≤ 15 ∧
        pl.length = 2 + (if (pl.getD 1 0).getLsbD 0 then 1 else 0) + (if (pl.getD 1 0).getLsbD 1 then 2 else 0) +
          (if (pl.getD 1 0).getLsbD 2 then 2 else 0) + (if (pl.getD 1 0).getLsbD 3 then 1 else 0)
  | .stage =>
      1 < pl.length ∧ (pl.getD 1 0).toNat ≤ 15 ∧
        pl.length = 2 + (if (pl.getD 1 0).getLsbD 0 then 2 else 0) + (if (pl.getD 1 0).getLsbD 1 then 2 else 0) +
          (if (pl.getD 1 0).getLsbD 2 then 1 else 0) + (if (pl.getD 1 0).getLsbD 3 then 1 else 0)

/-- A walk along CHAIN clock sources from channel `j` to channel `k` (R59): it visits each channel at most once, so
six at most. -/
abbrev State.ChainWalk (s : State) (j k : Chan) (path : List Chan) : Prop :=
  path.head? = some j ∧ path.getLast? = some k ∧ path.length ≤ 6 ∧
    path.IsChain fun a b => (s.channel a).settings.clock = .chain b

/-! ## What stays as it was -/

/-- The claim pool and the arbiter's lists. -/
abbrev SamePool (s t : State) : Prop :=
  t.claims = s.claims ∧ t.claimLists = s.claimLists ∧ t.waitLists = s.waitLists

/-- The policy table and the pads. -/
abbrev SamePins (s t : State) : Prop := t.policies = s.policies ∧ t.pads = s.pads

/-- What no request and no internal event reaches: the command queue, the reset cause and the resets; and no EDGE
notice comes to be owed. -/
abbrev SameDevice (s t : State) : Prop :=
  t.pending = s.pending ∧ t.resetCause = s.resetCause ∧ t.por = s.por ∧ t.nrstLow = s.nrstLow ∧
    t.edgeOwed = s.edgeOwed

/-- A port, but for its attention line and the record of the requests that passed it by. -/
abbrev SamePort (s t : State) (c : Client) : Prop :=
  { t.port c with attention := (s.port c).attention, passedBy := (s.port c).passedBy } = s.port c

/-- Every port, at an event that is no request: only attention lines may change. -/
abbrev SamePorts (s t : State) : Prop :=
  ∀ c : Client, { t.port c with attention := (s.port c).attention } = s.port c

/-- The sessions of all other clients, and the caller's, renewed (R126). -/
abbrev OnlyRenewed (s t : State) (c : Client) : Prop :=
  t.session c = (s.session c).renewed ∧ ∀ d : Client, d ≠ c → t.session d = s.session d

/-- The reply of a taken request stands in its slot, with the session state and the queue depth in force once
the owning block has finished (R164, R171); the other ports are as they were. -/
abbrev Answered (s t : State) (c : Client) (tag : Byte) (st : Status) (payload : List Byte) : Prop :=
  t.port c = { s.port c with
    state := .answered, held := none, attention := true, passedBy := [],
    reply := some { status := st, tag := tag, session := (t.session c).state,
                    depth := (t.queue c).entries.length, payload := payload } } ∧
  ∀ d : Client, d ≠ c → SamePort s t d

/-- A request that changed nothing but its port and its session's lease. -/
abbrev OnlyAnswered (s t : State) (c : Client) (tag : Byte) (st : Status) (payload : List Byte) : Prop :=
  Answered s t c tag st payload ∧ OnlyRenewed s t c ∧ SamePool s t ∧ SamePins s t ∧
    t.channels = s.channels ∧ t.watches = s.watches ∧ t.queues = s.queues ∧ SameDevice s t

/-- The same, for a request that may also change the channels. -/
abbrev ChannelsAnswered (s t : State) (c : Client) (tag : Byte) (st : Status) (payload : List Byte) : Prop :=
  Answered s t c tag st payload ∧ OnlyRenewed s t c ∧ SamePool s t ∧ SamePins s t ∧
    t.watches = s.watches ∧ t.queues = s.queues ∧ SameDevice s t

/-! ## What an event leaves behind -/

/-- A claim stands in its list immediately after the last claim of equal or higher rank (R4). -/
abbrev Inserted (before after : List Client) (rk : Client → Rank) (c : Client) (r : Rank) : Prop :=
  ∃ i, i < before.length + 1 ∧ after = before.take i ++ c :: before.drop i ∧
    (∀ y ∈ before.drop i, rk y < r) ∧ (before.take i).getLast?.all fun y => r ≤ rk y

/-- What R10 places in client `d`'s queue for one pin of an event that leads from `s` to `t`, where `excl` is
the client whose own request the event is (R11). -/
def topNotice (s t : State) (excl : Option Client) (d : Client) (q : Queue) (p : Pin) : Queue :=
  match t.top p with
  | none => q
  | some y =>
      if s.top p ≠ some y ∧ excl ≠ some d ∧ (y = d ∨ (s.top p = some d ∧ d ∈ t.claimList p)) then
        q.place (.topChange p (y = d) y (t.rankAt y p))
      else q

/-- The same for all pins, in ascending order (R144). -/
def topNotices (s t : State) (excl : Option Client) (d : Client) (q : Queue) : Queue :=
  allPins.foldl (topNotice s t excl d) q

/-- A channel once the references of an event are settled: FREE where it has neither owner nor reference, else
as it was with the count of its references (R95 to R97). -/
def Channel.settled (ch : Channel) (refs : Nat) : Channel :=
  if ch.owner = none ∧ refs = 0 then Channel.cleared else { ch with refs := refs }

/-- A channel that starts (R62): the count from its reload, position 0 of its first period. -/
def Channel.fresh (ch : Channel) : Channel :=
  { ch with
    state := .running, count := ch.settings.reload, startValue := ch.settings.reload, phase := 0,
    trigger := none, output := ch.settings.compare ≠ 0, inputsDue := 0, triggerDue := false }

/-- The claims once the waiting list of `k` has been activated (R22). -/
def activatedClaims (claims : List Claim) (k : Chan) : List Claim :=
  claims.map fun q =>
    if q.wait = some k then
      { q with
        state := .live, wait := none, change := none
        rank := (q.change.bind (·.rank)).getD q.rank
        source := (q.change.bind (·.source)).getD q.source }
    else q

/-- A claim list with `c` standing immediately after the last client whose rank is `r` or higher (R4). -/
def placedByRank (l : List Client) (rk : Client → Rank) (c : Client) (r : Rank) : List Client :=
  (l.reverse.dropWhile fun y => rk y < r).reverse ++ c :: (l.reverse.takeWhile fun y => rk y < r).reverse

/-- The claim list of a pin once the waiting list of `k` has been activated from head to tail (R22): a PENDING claim
enters it, and a LIVE one whose rank changes moves in it. -/
def activatedList (s : State) (k : Chan) (p : Pin) : List Client :=
  ((s.waitList k).foldl
    (fun (acc : List Client × (Client → Rank)) w =>
      match s.claimAt w.1 p with
      | none => acc
      | some q =>
          let r := (q.change.bind (·.rank)).getD q.rank
          if w.2 = p ∧ (q.state = .pending ∨ r ≠ q.rank) then
            (placedByRank (acc.1.filter (· ≠ w.1)) acc.2 w.1 r, fun y => if y = w.1 then r else acc.2 y)
          else acc)
    (s.claimList p, fun y => s.rankAt y p)).1

/-- Every pad carries out its pin's resolution in `t`, and is otherwise as in `s` (R9, R39, R41). -/
abbrev PadsResolved (s t : State) : Prop :=
  t.policies = s.policies ∧ ∀ p : Pin, t.pad p = (s.pad p).take (t.resolve p)

/-- Every block but the ports and the pads is at its reset values, with the cause recorded (R121, R135). -/
abbrev State.BlocksReset (t : State) (cause : ResetCause) : Prop :=
  t.resetCause = cause ∧ (∀ c : Client, t.session c = Session.atReset) ∧ t.claims = [] ∧
    (∀ p : Pin, t.claimList p = [] ∧ t.policy p = Policy.atReset) ∧
    (∀ k : Chan, t.waitList k = [] ∧ t.channel k = Channel.cleared) ∧ t.watches = [] ∧
    (∀ c : Client, t.queue c = Queue.empty) ∧ t.edgeOwed = none

/-- A port at its reset values; a transaction in progress is cut (R155, R172). -/
abbrev PortReset (s t : State) (c : Client) : Prop :=
  (t.port c).state = .ready ∧ (t.port c).held = none ∧ (t.port c).reply = none ∧
    (t.port c).overrun = false ∧ (t.port c).attention = false ∧
    (t.port c).transaction = (if (s.port c).transaction = .none then .none else .ignore)

/-- A pad RELEASED with the pull-down, its filter run abandoned (R38). -/
abbrev PadReset (s t : State) (p : Pin) : Prop :=
  (t.pad p).driven = .released ∧ (t.pad p).pull = .down ∧ (t.pad p).run = 0 ∧
    (t.pad p).raw = (if (s.pad p).board.drives then (s.pad p).board.level else .low)

/-- Runs commands one after another. -/
def runAll : List Instr → State → Host.Outcome State Fault Refusal
  | [], s => .next s
  | i :: rest, s =>
      match exec i s with
      | .next t => runAll rest t
      | .fault f => .fault f
      | .refused r => .refused r

end Sys2Proof.Machine
end

