-- ==== Sys2Proof/Certificates/Slice0/Obligations.lean ====
section
/-! DEFINITION. The statements about the model, one `def Obligations.<Name> : Prop` each, in the order of
OBLIGATIONS.json. The terms they use are those of Sys2Proof/Safety.lean. -/

open Sys2Proof Sys2Proof.Machine

/-- A step is `exec` of the front command on the state with the queue's rest. -/
def Obligations.StepTakesTheFrontCommand : Prop :=
  ∀ (c : Instr) (rest : List Instr) (s : State),
    step { s with pending := c :: rest } = exec c { s with pending := rest }

/-- The reset values (R2, R32, R38, R48, R108, R121, R141, R155). The board at the pins and the moment the state stands at are the model's choices (log entries 2 and 3), and so are the fields of its own (log entries 4 to 7 and 17). -/
def Obligations.ResetLeavesTheResetValues : Prop :=
  State.reset.BlocksReset .powerOn ∧ State.reset.pending = [] ∧
    (∀ c : Client, State.reset.port c = Port.atReset) ∧
    (∀ p : Pin, PadReset State.reset State.reset p ∧ (State.reset.pad p).filtered = .low) ∧
    Port.atReset = {
      state := .ready, held := none, reply := none, overrun := false, transaction := .none,
      attention := false, rx := [], tx := [], txReply := false, out := [], passedBy := [] } ∧
    Session.atReset = {
      state := .closed, lease := none, leaseRemaining := none, graceRemaining := none,
      priorEnd := .deviceReset, claimsHeld := 0, watchesHeld := 0, channelsOwned := 0, tickDue := false } ∧
    Policy.atReset = {
      role := .io, dflt := .pullDown, drive := .pushPull, filterLen := 0, ceilings := #v[7, 7, 7, 7] } ∧
    Channel.cleared = {
      state := .free, owner := none, count := 0, phase := 0, startValue := 0, output := false,
      settings := { mode := .oneShot, reload := 0, compare := 0, prescaleExp := 0, clock := .base,
                    notify := false },
      trigger := none, staging := none, commit := none, refs := 0, inputsDue := 0, triggerDue := false }

/-- The laws hold at reset. -/
def Obligations.LawfulAtReset : Prop :=
  State.reset.Lawful ∧ State.reset.FramesFit

/-- The levels of R7 and the table of R8. -/
def Obligations.SourcesGiveLevelsAndPinsResolve : Prop :=
  (∀ (s : State) (k m : Chan), s.Lawful →
      ((s.channel k).state ≠ .running → (s.channel k).output = false) ∧
      s.levelOf .high = some .high ∧ s.levelOf .low = some .low ∧ s.levelOf .float = none ∧
      s.levelOf (.ch k) = some (if (s.channel k).output then .high else .low) ∧
      s.levelOf (.chn k) = some (if (s.channel k).output then .low else .high) ∧
      s.levelOf (.gate k m) =
        some (if (s.channel k).output = true ∧ (s.channel m).output = true then .high else .low)) ∧
  ∀ (s : State) (p : Pin), s.Lawful →
    let e := s.policy p
    let pull : Pull := match e.dflt with
      | .pullUp => .up | .pullDown => .down | .float | .driveLow | .driveHigh => .none
    (e.role = .inputOnly → s.claimList p = [] ∧ s.resolve p = (.released, pull)) ∧
    (e.role = .io → s.claimList p = [] → s.resolve p = match e.dflt, e.drive with
      | .float, _ => (.released, .none)
      | .pullUp, _ => (.released, .up)
      | .pullDown, _ => (.released, .down)
      | .driveLow, _ => (.low, .none)
      | .driveHigh, .pushPull => (.high, .none)
      | .driveHigh, .openDrain => (.released, .none)) ∧
    ∀ (c : Client) (rest : List Client) (q : Claim), s.claimList p = c :: rest → s.claimAt c p = some q →
      s.resolve p = match s.levelOf q.source, e.drive with
        | some .high, .pushPull => (.high, .none)
        | some .high, .openDrain => (.released, pull)
        | some .low, _ => (.low, .none)
        | none, _ => (.released, pull)

/-- The three cases of R142, with R143 for a coalescing placement and R145 for a drop. -/
def Obligations.NoticesCoalesceJoinOrDrop : Prop :=
  ∀ (q : Queue) (n : Notice), q.Ok → (q.place n).Ok ∧
    (∀ i e, q.entries[i]? = some e → e.notice.key = n.key →
      (q.place n).entries =
        q.entries.set i { notice := n, repeats := if e.repeats < 255 then e.repeats + 1 else 255 } ∧
      (q.place n).dropped = q.dropped) ∧
    ((∀ e ∈ q.entries, e.notice.key ≠ n.key) → q.entries.length < 12 →
      (q.place n).entries = q.entries ++ [{ notice := n, repeats := 1 }] ∧
      (q.place n).dropped = q.dropped) ∧
    ((∀ e ∈ q.entries, e.notice.key ≠ n.key) → q.entries.length = 12 →
      (q.place n).entries = q.entries ∧
      (q.place n).dropped = if q.dropped < 255 then q.dropped + 1 else 255)

/-- The law of R142, and that of R145 on the dropped count, over every step. -/
def Obligations.EveryStepKeepsTheQueues : Prop :=
  ∀ s t : State, s.QueuesOk → step s = .next t → t.QueuesOk

/-- The law of R165 over every step. The ports' consistency (R155, R157) shuts out a port that is ANSWERED while it receives a frame, which no run reaches. -/
def Obligations.EveryStepKeepsTheAttentionLines : Prop :=
  ∀ s t : State, (s.AttentionOk ∧ s.PortsOk) → step s = .next t → (t.AttentionOk ∧ t.PortsOk)

/-- The presence conditions of R155, and the payload bounds of R158 and R182, over every step. -/
def Obligations.EveryStepKeepsThePorts : Prop :=
  ∀ s t : State, (s.PortsOk ∧ s.FramesFit) → step s = .next t → (t.PortsOk ∧ t.FramesFit)

/-- The presence conditions and ranges of R120 over every step. -/
def Obligations.EveryStepKeepsTheSessions : Prop :=
  ∀ s t : State, s.SessionsOk → step s = .next t → t.SessionsOk

/-- The count laws of R95 and R120 over every step. -/
def Obligations.EveryStepKeepsTheCounts : Prop :=
  ∀ s t : State, s.CountsOk → step s = .next t → t.CountsOk

/-- The laws of R1, R2, R4, R5 and R50 over every step. A pending change's rank is 1 to 7 by R16. -/
def Obligations.EveryStepKeepsTheClaimPool : Prop :=
  ∀ s t : State, (s.PoolOk ∧ s.ListsOk ∧ s.WaitsOk) → step s = .next t → (t.PoolOk ∧ t.ListsOk ∧ t.WaitsOk)

/-- The law of R59 over every step. -/
def Obligations.EveryStepKeepsChainsLoopFree : Prop :=
  ∀ s t : State, s.NoLoops → step s = .next t → t.NoLoops

/-- The laws of R46, R49 to R53, R56, R72, R73 and R96 over every step. That inputs wait at a channel until their command is log entry 7. -/
def Obligations.EveryStepKeepsTheChannels : Prop :=
  ∀ s t : State, (s.ChannelsOk ∧ s.CountsOk) → step s = .next t → (t.ChannelsOk ∧ t.CountsOk)

/-- What R9, R39, R40 and R41 keep: every pad is at its resolution after every step. -/
def Obligations.EveryStepKeepsThePadsResolved : Prop :=
  ∀ s t : State, (s.PadsOk ∧ s.ListsOk ∧ s.PoolOk) → step s = .next t → (t.PadsOk ∧ t.ListsOk ∧ t.PoolOk)

/-- All the laws over every step: with those above, R3, R109 and R131. -/
def Obligations.EveryStepKeepsTheLaws : Prop :=
  ∀ s t : State, s.Lawful → step s = .next t → t.Lawful

/-- A taking ends with its reply in the slot (R164, R166, R171). -/
def Obligations.EveryTakenRequestIsAnswered : Prop :=
  ∀ (s : State) (c : Client) (cmd : Command) (tag : Byte) (pl : List Byte),
    s.Asks c (frameOf cmd tag pl) →
    ∃ t, exec (requestAt c cmd) s = .next t ∧
      (t.port c).state = .answered ∧ (t.port c).held = none ∧ (t.port c).attention = true ∧
      ((t.port c).reply.any fun r => r.tag = tag ∧ r.session = (t.session c).state ∧
          r.depth = (t.queue c).entries.length) = true ∧
      (cmd ≠ .resetAll → ∀ d : Client, d ≠ c → SamePort s t d) ∧
      t.pending = s.pending

/-- Checks 1 to 3 of R167, with R169, R170 and the presence marks of R181. -/
def Obligations.CommonChecksRefuse : Prop :=
  (∀ (s : State) (c : Client) (tag : Byte) (b : Byte) (pl : List Byte),
     (∀ cmd ∈ allCommands, commandCode cmd ≠ b) →
     s.Asks c { command := b, tag := tag, payload := pl } →
     ∃ t, exec (Instr.unknownCommand c) s = .next t ∧
       OnlyAnswered s t c tag .unknown []) ∧
  (∀ (s : State) (c : Client) (cmd : Command) (tag : Byte) (pl : List Byte),
     s.Asks c (frameOf cmd tag pl) →
     cmd ≠ .openSession →
     cmd ≠ .ping →
     (s.session c).state = .closed →
     ∃ t, exec (requestAt c cmd) s = .next t ∧
       OnlyAnswered s t c tag .noSession []) ∧
  (∀ (s : State) (c : Client) (cmd : Command) (tag : Byte) (pl : List Byte),
     s.Asks c (frameOf cmd tag pl) →
     (cmd = .openSession ∨ cmd = .ping ∨ s.InSession c) →
     ¬ lengthPermitted cmd pl →
     ∃ t, exec (requestAt c cmd) s = .next t ∧
       OnlyAnswered s t c tag .badArg []) ∧
  (∀ (cmd : Command) (pl : List Byte), lengthOk cmd pl = true ↔ lengthPermitted cmd pl) ∧
  (∀ x ∈ ([(.openSession, 0x01), (.closeSession, 0x02), (.ping, 0x03), (.resetAll, 0x04), (.getPolicy, 0x10),
       (.setPolicy, 0x11), (.claim, 0x20), (.modify, 0x21), (.release, 0x22), (.queryPin, 0x23), (.bind, 0x30),
       (.configure, 0x31), (.stage, 0x32), (.commit, 0x33), (.cancel, 0x34), (.start, 0x35), (.arm, 0x36),
       (.stop, 0x37), (.startGroup, 0x38), (.releaseChannel, 0x39), (.adopt, 0x3A), (.readChannel, 0x3B),
       (.watch, 0x40), (.unwatch, 0x41), (.readPins, 0x42), (.fetch, 0x50)] : List (Command × Byte)),
     x.1 ∈ allCommands ∧ commandCode x.1 = x.2)

/-- The lease renewal of R126 and R168, whatever the status. -/
def Obligations.EveryTakenRequestRenewsTheLease : Prop :=
  ∀ (s : State) (c : Client) (cmd : Command) (tag : Byte) (pl : List Byte),
    s.Asks c (frameOf cmd tag pl) →
    s.InSession c →
    ∃ t, exec (requestAt c cmd) s = .next t ∧
      (((t.session c).state = .opened ∧ (t.session c).lease = (s.session c).lease ∧
          (t.session c).leaseRemaining = some (10 * ((s.session c).lease.getD 0).toNat) ∧
          (t.session c).graceRemaining = none) ∨
        ((t.session c).state = .closed ∧ (cmd = .closeSession ∨ cmd = .resetAll)))

/-- "Refused with X" means that no state of the owning block changes; PENDING moves nothing either (R77). -/
def Obligations.RefusalsChangeNothing : Prop :=
  ∀ (s : State) (c : Client) (cmd : Command) (tag : Byte) (pl : List Byte),
    s.Asks c (frameOf cmd tag pl) →
    ∃ t, exec (requestAt c cmd) s = .next t ∧
      (((t.port c).reply.any fun r => r.status = .ok ∨ r.status = .accepted) = true ∨
        (OnlyRenewed s t c ∧ SamePool s t ∧ SamePins s t ∧ t.channels = s.channels ∧
          t.watches = s.watches ∧ t.queues = s.queues ∧ SameDevice s t))

/-- The owner column of R90, after the BAD_ARG of a channel above 5 (R62, R74 to R79, R98). -/
def Obligations.OwnerOnlyRequestsNeedTheOwner : Prop :=
  (∀ (s : State) (c : Client) (tag : Byte) (cmd : Command) (k : Chan),
     cmd ∈ [Command.commit, .cancel, .start, .stop, .releaseChannel] →
     s.Asks c (frameOf cmd tag [byteOf k.val]) →
     s.InSession c →
     (s.channel k).owner ≠ some c →
     ∃ t, exec (requestAt c cmd) s = .next t ∧
       OnlyAnswered s t c tag .notOwner []) ∧
  (∀ (s : State) (c : Client) (tag : Byte) (k : Chan) (pl : List Byte),
     s.Asks c (frameOf .stage tag (byteOf k.val :: pl)) →
     lengthOk .stage (byteOf k.val :: pl) = true →
     s.InSession c →
     (s.channel k).owner ≠ some c →
     ∃ t, exec (Instr.stage c) s = .next t ∧
       OnlyAnswered s t c tag .notOwner []) ∧
  (∀ (s : State) (c : Client) (tag : Byte) (k : Chan) (r : Settings),
     s.Asks c (frameOf .configure tag (byteOf k.val :: settingsBytes r)) →
     s.InSession c →
     (s.channel k).owner ≠ some c →
     ∃ t, exec (Instr.configure c) s = .next t ∧
       OnlyAnswered s t c tag .notOwner []) ∧
  (∀ (s : State) (c : Client) (tag : Byte) (k : Chan) (p : Pin) (e : Edge),
     s.Asks c (frameOf .arm tag [byteOf k.val, byteOf p.val, edgeByte e]) →
     s.InSession c →
     (s.channel k).owner ≠ some c →
     ∃ t, exec (Instr.arm c) s = .next t ∧
       OnlyAnswered s t c tag .notOwner []) ∧
  (∀ (s : State) (c : Client) (tag : Byte) (cmd : Command) (b : Byte),
     cmd ∈ [Command.commit, .cancel, .start, .stop, .releaseChannel] →
     s.Asks c (frameOf cmd tag [b]) →
     s.InSession c →
     6 ≤ b.toNat →
     ∃ t, exec (requestAt c cmd) s = .next t ∧
       OnlyAnswered s t c tag .badArg []) ∧
  (∀ (s : State) (c : Client) (tag : Byte) (b : Byte) (pl : List Byte),
     s.Asks c (frameOf .stage tag (b :: pl)) →
     lengthOk .stage (b :: pl) = true →
     s.InSession c →
     6 ≤ b.toNat →
     ∃ t, exec (Instr.stage c) s = .next t ∧
       OnlyAnswered s t c tag .badArg [])

/-- OPEN (R123). That the revision is one byte is log entry 9. -/
def Obligations.OpenOpensASession : Prop :=
  (∀ (s : State) (c : Client) (tag : Byte) (l : Byte),
     s.Asks c (frameOf .openSession tag [l]) →
     l ≠ 0 →
     (s.session c).state = .closed →
     ∃ t, exec (Instr.openSession c) s = .next t ∧
       t.session c = { s.session c with
          state := .opened, lease := some l, leaseRemaining := some (10 * l.toNat),
          graceRemaining := none, tickDue := false } ∧
       (∀ d : Client, d ≠ c → t.session d = s.session d) ∧
       Answered s t c tag .ok [byteOf c.val, 0x10, 0x40, 1, resetCauseByte s.resetCause,
        endCauseByte (s.session c).priorEnd, l] ∧
       SamePool s t ∧ SamePins s t ∧ t.channels = s.channels ∧
       t.watches = s.watches ∧ t.queues = s.queues ∧ SameDevice s t) ∧
  (∀ (s : State) (c : Client) (tag : Byte) (l : Byte),
     s.Asks c (frameOf .openSession tag [l]) →
     (l = 0 ∨ s.InSession c) →
     ∃ t, exec (Instr.openSession c) s = .next t ∧
       OnlyAnswered s t c tag (if l = 0 then .badArg else .state) [])

/-- Teardown (R131), by CLOSE (R130) and by a grace expiry (R127). A grace expiry is due once a millisecond tick has brought the grace remaining to its end (log entry 6). That the counts in the CLOSE reply are one byte each is log entry 9, and that a filter of length 0 follows its pin by an event of its own is log entry 16. -/
def Obligations.TeardownWithdrawsEverything : Prop :=
  (∀ (s : State) (c : Client) (tag : Byte),
     s.Lawful →
     s.Asks c (frameOf .closeSession tag []) →
     s.InSession c →
     ∃ t, exec (Instr.closeSession c) s = .next t ∧
       t.session c = { Session.atReset with priorEnd := .closed } ∧
       Answered s t c tag .ok [byteOf (s.session c).claimsHeld, byteOf (s.session c).watchesHeld,
        byteOf (s.session c).channelsOwned] ∧
       t.claims = s.claims.filter (fun q => q.client ≠ c) ∧
       (∀ p : Pin, t.claimList p = (s.claimList p).filter (· ≠ c)) ∧
       (∀ k : Chan, t.waitList k = (s.waitList k).filter (·.1 ≠ c)) ∧
       t.watches = s.watches.filter (fun w => w.client ≠ c) ∧
       (∀ k : Chan, t.channel k =
        if (s.channel k).owner = some c then
          { s.channel k with
            owner := none, staging := none, commit := none, trigger := none, triggerDue := false
            state := if (s.channel k).state = .armed then .stopped else (s.channel k).state :
            Channel }.settled (t.refsOf k)
        else (s.channel k).settled (t.refsOf k)) ∧
       t.queue c = Queue.empty ∧
       (∀ d : Client, d ≠ c → t.queue d = allChans.foldl (fun q k =>
        if (s.channel k).owner = some c ∧ s.relies d k = true then
          q.place (.sourceChange k
            (if (s.channel k).state = .armed then .stopped else (s.channel k).state) false)
        else q) (topNotices s t none d (s.queue d))) ∧
       (∀ d : Client, d ≠ c → t.session d = s.session d) ∧
       PadsResolved s t ∧ SameDevice s t) ∧
  (∀ (s : State) (c : Client),
     s.Lawful →
     s.Calm →
     (s.session c).state = .grace →
     (s.session c).tickDue = true →
     ∃ t, exec (Instr.graceExpiry c) s = .next t ∧
       t.session c = { Session.atReset with priorEnd := .lapsed } ∧
       SamePorts s t ∧
       t.claims = s.claims.filter (fun q => q.client ≠ c) ∧
       (∀ p : Pin, t.claimList p = (s.claimList p).filter (· ≠ c)) ∧
       (∀ k : Chan, t.waitList k = (s.waitList k).filter (·.1 ≠ c)) ∧
       t.watches = s.watches.filter (fun w => w.client ≠ c) ∧
       (∀ k : Chan, t.channel k =
        if (s.channel k).owner = some c then
          { s.channel k with
            owner := none, staging := none, commit := none, trigger := none, triggerDue := false
            state := if (s.channel k).state = .armed then .stopped else (s.channel k).state :
            Channel }.settled (t.refsOf k)
        else (s.channel k).settled (t.refsOf k)) ∧
       t.queue c = Queue.empty ∧
       (∀ d : Client, d ≠ c → t.queue d = allChans.foldl (fun q k =>
        if (s.channel k).owner = some c ∧ s.relies d k = true then
          q.place (.sourceChange k
            (if (s.channel k).state = .armed then .stopped else (s.channel k).state) false)
        else q) (topNotices s t none d (s.queue d))) ∧
       (∀ d : Client, d ≠ c → t.session d = s.session d) ∧
       PadsResolved s t ∧ SameDevice s t)

/-- RESET ALL (R136) and the device reset it causes (R135, R45, R172). -/
def Obligations.ResetAllResetsTheDevice : Prop :=
  (∀ (s : State) (c : Client) (tag : Byte),
     s.Asks c (frameOf .resetAll tag []) →
     s.InSession c →
     (∀ d : Client, d ≠ c → (s.session d).state = .closed) →
     ∃ t, exec (Instr.resetAll c) s = .next t ∧
       t.BlocksReset .resetCommand ∧
       (∀ p : Pin, PadReset s t p ∧ (t.pad p).filtered = (t.pad p).raw) ∧
       ((t.port c).state = .answered ∧ (t.port c).held = none ∧ (t.port c).overrun = false ∧
          (t.port c).attention = true ∧
          (t.port c).transaction = (if (s.port c).transaction = .none then .none else .ignore) ∧
          (t.port c).reply =
            some { status := .ok, tag := tag, session := .closed, depth := 0, payload := [] }) ∧
       (∀ d : Client, d ≠ c → PortReset s t d) ∧
       t.pending = s.pending ∧ t.por = s.por ∧ t.nrstLow = s.nrstLow) ∧
  (∀ (s : State) (c : Client) (tag : Byte) (d : Client),
     s.Asks c (frameOf .resetAll tag []) →
     s.InSession c →
     d ≠ c →
     s.InSession d →
     ∃ t, exec (Instr.resetAll c) s = .next t ∧
       OnlyAnswered s t c tag .notQuiescent [])

/-- PING (R129), GET POLICY (R34), READ CHANNEL (R69), QUERY PIN (R29), READ PINS (R116). That the counts, the queue depth, the reference count and the prescaler phase are one byte each is log entry 9, and where the presence bytes stand is log entries 11, 12 and 14. That the bits a clock source does not name are 0 is log entry 18. -/
def Obligations.ReadingRequestsReport : Prop :=
  (∀ (s : State) (c : Client) (tag : Byte),
     s.Asks c (frameOf .ping tag []) →
     ∃ t, exec (Instr.ping c) s = .next t ∧
       OnlyAnswered s t c tag .ok
        ([if (s.session c).state = .closed then 0 else 1,
          if (s.session c).lease.isSome then 1 else 0] ++ (s.session c).lease.toList ++
         [byteOf (s.session c).claimsHeld, byteOf (s.session c).watchesHeld,
          byteOf (s.session c).channelsOwned, byteOf (s.queue c).entries.length,
          endCauseByte (s.session c).priorEnd])) ∧
  (∀ (s : State) (c : Client) (tag : Byte) (p : Pin),
     s.Asks c (frameOf .getPolicy tag [byteOf p.val]) →
     s.InSession c →
     ∃ t, exec (Instr.getPolicy c) s = .next t ∧
       OnlyAnswered s t c tag .ok
        [byteOf p.val, roleByte (s.policy p).role, defaultByte (s.policy p).dflt,
         driveByte (s.policy p).drive, byteOf (s.policy p).filterLen.val,
         byteOf (s.policy p).ceilings[0].val, byteOf (s.policy p).ceilings[1].val,
         byteOf (s.policy p).ceilings[2].val, byteOf (s.policy p).ceilings[3].val]) ∧
  (∀ (s : State) (c : Client) (tag : Byte) (k : Chan),
     s.Asks c (frameOf .readChannel tag [byteOf k.val]) →
     s.InSession c →
     ∃ t, exec (Instr.readChannel c) s = .next t ∧
       OnlyAnswered s t c tag .ok
        ([chanStateByte (s.channel k).state, clientByte (s.channel k).owner] ++
         settingsBytes (s.channel k).settings ++ wordBytes (s.channel k).count ++
         [(s.channel k).phase, flagByte (s.channel k).output] ++
         (match (s.channel k).trigger with
          | some x => [1, byteOf x.1.val, edgeByte x.2]
          | none => [0]) ++
         [flagByte (s.channel k).staging.isSome, flagByte (s.channel k).commit.isSome,
          byteOf (s.channel k).refs])) ∧
  (∀ (s : State) (c : Client) (tag : Byte) (p : Pin),
     s.Asks c (frameOf .queryPin tag [byteOf p.val]) →
     s.InSession c →
     ∃ t, exec (Instr.queryPin c) s = .next t ∧
       OnlyAnswered s t c tag .ok
        ([drivenByte (s.pad p).driven, pullByte (s.pad p).pull, clientByte (s.top p),
          (if (s.topClaim p).isSome then 3 else 0) + (if (s.claimAt c p).isSome then 12 else 0) +
          (if ((s.claimAt c p).bind (·.holdLeft)).isSome then 16 else 0) +
          (if ((s.claimAt c p).bind (·.wait)).isSome then 32 else 0)] ++
         (match s.topClaim p with
          | some q => byteOf q.rank.val :: sourceBytes q.source
          | none => []) ++
         [byteOf (s.claims.countP fun q => q.pin = p && q.state = .live),
          byteOf (s.claims.countP fun q => q.pin = p && q.state = .pending)] ++
         (match s.claimAt c p with
          | some q => [claimStateByte q.state, byteOf q.rank.val] ++ sourceBytes q.source ++
              (q.holdLeft.map wordBytes).getD [] ++ (q.wait.map fun k => [byteOf k.val]).getD [] ++
              [flagByte q.change.isSome]
          | none => [0, 0]) ++
         [levelByte (s.pad p).filtered])) ∧
  (∀ (s : State) (c : Client) (tag : Byte),
     s.Asks c (frameOf .readPins tag []) →
     s.InSession c →
     ∃ t, exec (Instr.readPins c) s = .next t ∧
       OnlyAnswered s t c tag .ok (wordBytes s.pinLevels) ∧
       (∀ p : Pin, s.pinLevels.getLsbD p.val = decide ((s.pad p).filtered = .high))) ∧
  (∀ (s : State) (c : Client) (tag : Byte) (cmd : Command) (b : Byte),
     cmd ∈ [Command.getPolicy, .queryPin, .readChannel] →
     s.Asks c (frameOf cmd tag [b]) →
     s.InSession c →
     (if cmd = .readChannel then 6 else 16) ≤ b.toNat →
     ∃ t, exec (requestAt c cmd) s = .next t ∧
       OnlyAnswered s t c tag .badArg [])

/-- SET POLICY (R35, R36). The nine bytes of the reply are log entry 10. That the filtered level follows at length 0 by an event of its own is log entry 16, and that the edge of a completed run (R42) waits for the next command that reaches it is log entry 6. -/
def Obligations.SetPolicyReplacesTheEntry : Prop :=
  (∀ (s : State) (c : Client) (tag : Byte) (p : Pin) (e : Policy),
     s.Lawful →
     s.Asks c (frameOf .setPolicy tag (policyBytes p e)) →
     s.InSession c →
     policyOk e = true →
     (∀ d : Client, d ≠ c → (s.session d).state = .closed) →
     (∀ q ∈ s.claims, q.pin ≠ p) →
     (∀ w ∈ s.watches, w.pin ≠ p) →
     (∀ k : Chan, (s.channel k).settings.clock ≠ .pin p .rise ∧ (s.channel k).settings.clock ≠ .pin p .fall ∧
        ((s.channel k).trigger.map (·.1)) ≠ some p) →
     ∃ t, exec (Instr.setPolicy c) s = .next t ∧
       t.policy p = e ∧
       (∀ q : Pin, q ≠ p → t.policy q = s.policy q ∧ t.pad q = s.pad q) ∧
       t.pad p = { s.pad p with
          run := 0, tickDue := false
          filtered := (if (s.pad p).tickDue then
            (match (s.pad p).filtered with | .low => Level.high | .high => .low) else (s.pad p).filtered)
          driven := (if e.role = .io then e.idle else (.released, e.pull)).1
          pull := (if e.role = .io then e.idle else (.released, e.pull)).2
          raw := rawLevel (if e.role = .io then e.idle else (.released, e.pull)).1
            (if e.role = .io then e.idle else (.released, e.pull)).2 (s.pad p).board } ∧
       Answered s t c tag .ok (policyBytes p e) ∧
       OnlyRenewed s t c ∧ SamePool s t ∧ t.channels = s.channels ∧
       t.watches = s.watches ∧ t.queues = s.queues ∧ SameDevice s t) ∧
  (∀ (s : State) (c : Client) (tag : Byte) (p : Pin) (e : Policy) (d : Client),
     s.Asks c (frameOf .setPolicy tag (policyBytes p e)) →
     s.InSession c →
     policyOk e = true →
     ((d ≠ c ∧ s.InSession d) ∨ (s.claims.any fun q => q.pin = p) ∨ (s.watches.any fun w => w.pin = p) ∨
        ∃ k : Chan, ((s.channel k).state ≠ .free ∧
            ((s.channel k).settings.clock = .pin p .rise ∨ (s.channel k).settings.clock = .pin p .fall)) ∨
          ((s.channel k).state = .armed ∧ ((s.channel k).trigger.map (·.1)) = some p)) →
     ∃ t, exec (Instr.setPolicy c) s = .next t ∧
       OnlyAnswered s t c tag
        (if ∀ d : Client, d ≠ c → (s.session d).state = .closed then .inUse else .notQuiescent) []) ∧
  (∀ (s : State) (c : Client) (tag : Byte) (pl : List Byte),
     s.Asks c (frameOf .setPolicy tag pl) →
     s.InSession c →
     pl.length = 9 →
     (15 < (pl.getD 0 0).toNat ∨ 1 < (pl.getD 1 0).toNat ∨ 4 < (pl.getD 2 0).toNat ∨ 1 < (pl.getD 3 0).toNat ∨
        15 < (pl.getD 4 0).toNat ∨ 7 < (pl.getD 5 0).toNat ∨ 7 < (pl.getD 6 0).toNat ∨
        7 < (pl.getD 7 0).toNat ∨ 7 < (pl.getD 8 0).toNat ∨
        (pl.getD 1 0 = 1 ∧ 3 ≤ (pl.getD 2 0).toNat)) →
     ∃ t, exec (Instr.setPolicy c) s = .next t ∧
       OnlyAnswered s t c tag .badArg [])

/-- CLAIM that enters LIVE (R13, R14). That a filter of length 0 follows its pin by an event of its own is log entry 16. -/
def Obligations.ClaimEntersLive : Prop :=
  ∀ (s : State) (c : Client) (tag : Byte) (p : Pin) (r : Rank) (src : Source) (hold : Option Word) (wait : Option Chan),
    s.Lawful →
    s.Asks c (frameOf .claim tag (claimPayload p r src hold wait)) →
    s.InSession c →
    r ≠ 0 →
    src.formed = true →
    hold ≠ some 0 →
    (s.policy p).role = .io →
    r ≤ (s.policy p).ceilings[c.val] →
    s.claimAt c p = none →
    (∀ k : Chan, src.names k = true ∨ wait = some k → (s.channel k).state ≠ .free) →
    s.claims.length < 40 →
    (∀ k : Chan, wait = some k → (s.channel k).state ≠ .running) →
    ∃ t, exec (Instr.claim c) s = .next t ∧
      t.claims = s.claims ++ [{
          client := c, pin := p, rank := r, source := src, state := .live, wait := none,
          hold := hold, holdLeft := hold, change := none, tickDue := false }] ∧
      Inserted (s.claimList p) (t.claimList p) (fun d => s.rankAt d p) c r ∧
      (∀ q : Pin, q ≠ p → t.claimList q = s.claimList q ∧ t.pad q = s.pad q) ∧
      t.waitLists = s.waitLists ∧
      t.policies = s.policies ∧ t.pad p = (s.pad p).take (t.resolve p) ∧
      (∀ k : Chan, t.channel k =
        { s.channel k with refs := (s.channel k).refs + (if src.names k then 1 else 0) }) ∧
      (∀ d : Client, t.queue d =
        if d ≠ c ∧ s.top p = some d ∧ t.top p = some c then
          (s.queue d).place (.topChange p false c r)
        else s.queue d) ∧
      t.session c = { (s.session c).renewed with claimsHeld := (s.session c).claimsHeld + 1 } ∧
      (∀ d : Client, d ≠ c → t.session d = s.session d) ∧
      Answered s t c tag .ok [2, if t.top p = some c then 1 else 0] ∧
      t.watches = s.watches ∧ SameDevice s t

/-- CLAIM that enters PENDING (R13, R15). -/
def Obligations.ClaimWaitsOnARunningChannel : Prop :=
  ∀ (s : State) (c : Client) (tag : Byte) (p : Pin) (r : Rank) (src : Source) (hold : Option Word) (k : Chan),
    s.Lawful →
    s.Asks c (frameOf .claim tag (claimPayload p r src hold (some k))) →
    s.InSession c →
    r ≠ 0 →
    src.formed = true →
    hold ≠ some 0 →
    (s.policy p).role = .io →
    r ≤ (s.policy p).ceilings[c.val] →
    s.claimAt c p = none →
    (∀ j : Chan, src.names j = true → (s.channel j).state ≠ .free) →
    s.claims.length < 40 →
    (s.channel k).state = .running →
    ∃ t, exec (Instr.claim c) s = .next t ∧
      t.claims = s.claims ++ [{
          client := c, pin := p, rank := r, source := src, state := .pending, wait := some k,
          hold := hold, holdLeft := hold, change := none, tickDue := false }] ∧
      t.waitList k = s.waitList k ++ [(c, p)] ∧
      (∀ j : Chan, j ≠ k → t.waitList j = s.waitList j) ∧
      t.claimLists = s.claimLists ∧ SamePins s t ∧ t.queues = s.queues ∧
      (∀ j : Chan, t.channel j = { s.channel j with
          refs := (s.channel j).refs + (if src.names j = true ∨ j = k then 1 else 0) }) ∧
      t.session c = { (s.session c).renewed with claimsHeld := (s.session c).claimsHeld + 1 } ∧
      (∀ d : Client, d ≠ c → t.session d = s.session d) ∧
      Answered s t c tag .ok [1, 0] ∧
      t.watches = s.watches ∧ SameDevice s t

/-- The checks of R13 in order. -/
def Obligations.ClaimChecksInOrder : Prop :=
  (∀ (s : State) (c : Client) (tag : Byte) (p : Pin) (r : Rank) (src : Source) (hold : Option Word) (wait : Option Chan),
     s.Asks c (frameOf .claim tag (claimPayload p r src hold wait)) →
     s.InSession c →
     r ≠ 0 →
     src.formed = true →
     hold ≠ some 0 →
     ((s.policy p).role ≠ .io ∨ (s.policy p).ceilings[c.val] < r ∨ (s.claimAt c p).isSome ∨
        (∃ k : Chan, (src.names k = true ∨ wait = some k) ∧ (s.channel k).state = .free) ∨
        40 ≤ s.claims.length) →
     ∃ t, exec (Instr.claim c) s = .next t ∧
       OnlyAnswered s t c tag
        (if (s.policy p).role ≠ .io then .role
         else if (s.policy p).ceilings[c.val] < r then .denied
         else if (s.claimAt c p).isSome then .exists_
         else if ∃ k : Chan, (src.names k = true ∨ wait = some k) ∧ (s.channel k).state = .free then
           .sourceFree
         else .poolFull) []) ∧
  (∀ (s : State) (c : Client) (tag : Byte) (p : Pin) (r : Rank) (src : Source) (hold : Option Word) (wait : Option Chan),
     s.Asks c (frameOf .claim tag (claimPayload p r src hold wait)) →
     s.InSession c →
     (r = 0 ∨ src.formed = false ∨ hold = some 0) →
     ∃ t, exec (Instr.claim c) s = .next t ∧
       OnlyAnswered s t c tag .badArg []) ∧
  (∀ (s : State) (c : Client) (tag : Byte) (bp : Byte) (br : Byte) (f : Byte) (g : Byte) (hold : Option Word) (wait : Option Byte),
     s.Asks c (frameOf .claim tag ([bp, br, f, g, presenceByte [hold.isSome, wait.isSome]] ++
        (hold.map wordBytes).getD [] ++ wait.toList)) →
     s.InSession c →
     (15 < bp.toNat ∨ br = 0 ∨ 7 < br.toNat ∨ (∀ src : Source, sourceBytes src = [f, g] → src.formed = false) ∨
        hold = some 0 ∨ (wait.any fun b => 5 < b.toNat)) →
     ∃ t, exec (Instr.claim c) s = .next t ∧
       OnlyAnswered s t c tag .badArg [])

/-- MODIFY applied at once (R16, R17, R19). That a filter of length 0 follows its pin by an event of its own is log entry 16. -/
def Obligations.ModifyIsAppliedAtOnce : Prop :=
  ∀ (s : State) (c : Client) (tag : Byte) (p : Pin) (r : Option Rank) (src : Option Source) (hold : Option Word) (wait : Option Chan) (q : Claim),
    s.Lawful →
    s.Asks c (frameOf .modify tag (modifyPayload p r src hold wait)) →
    s.InSession c →
    (r.isSome ∨ src.isSome) →
    r ≠ some 0 →
    (src.all Source.formed) = true →
    hold ≠ some 0 →
    s.claimAt c p = some q →
    q.state = .live →
    (r.all fun x => x ≤ (s.policy p).ceilings[c.val]) = true →
    (∀ k : Chan, src.any (·.names k) = true ∨ wait = some k → (s.channel k).state ≠ .free) →
    (∀ k : Chan, wait = some k → (s.channel k).state ≠ .running) →
    ∃ t, exec (Instr.modify c) s = .next t ∧
      t.claimAt c p = some { q with
          rank := r.getD q.rank, source := src.getD q.source, wait := none, change := none
          hold := hold.or q.hold, holdLeft := hold.or q.holdLeft, tickDue := hold.isNone && q.tickDue } ∧
      (∀ (d : Client) (x : Pin), (d, x) ≠ (c, p) → t.claimAt d x = s.claimAt d x) ∧
      (if r.getD q.rank = q.rank then t.claimList p = s.claimList p
        else Inserted ((s.claimList p).filter (· ≠ c)) (t.claimList p) (fun d => s.rankAt d p) c
          (r.getD q.rank)) ∧
      (∀ x : Pin, x ≠ p → t.claimList x = s.claimList x ∧ t.pad x = s.pad x) ∧
      (∀ k : Chan, t.waitList k = (s.waitList k).filter (· ≠ (c, p))) ∧
      t.policies = s.policies ∧ t.pad p = (s.pad p).take (t.resolve p) ∧
      (∀ k : Chan, t.channel k = (s.channel k).settled (t.refsOf k)) ∧
      (∀ d : Client, t.queue d = topNotice s t (some c) d (s.queue d) p) ∧
      OnlyRenewed s t c ∧
      Answered s t c tag .ok [0, byteOf (r.getD q.rank).val, if t.top p = some c then 1 else 0] ∧
      t.watches = s.watches ∧ SameDevice s t

/-- MODIFY stored until a boundary (R16, R18, R19). -/
def Obligations.ModifyIsStoredForABoundary : Prop :=
  ∀ (s : State) (c : Client) (tag : Byte) (p : Pin) (r : Option Rank) (src : Option Source) (hold : Option Word) (k : Chan) (q : Claim),
    s.Lawful →
    s.Asks c (frameOf .modify tag (modifyPayload p r src hold (some k))) →
    s.InSession c →
    (r.isSome ∨ src.isSome) →
    r ≠ some 0 →
    (src.all Source.formed) = true →
    hold ≠ some 0 →
    s.claimAt c p = some q →
    q.state = .live →
    (r.all fun x => x ≤ (s.policy p).ceilings[c.val]) = true →
    (∀ j : Chan, src.any (·.names j) = true → (s.channel j).state ≠ .free) →
    (s.channel k).state = .running →
    ∃ t, exec (Instr.modify c) s = .next t ∧
      t.claimAt c p = some { q with
          wait := some k, change := some { rank := r, source := src }
          hold := hold.or q.hold, holdLeft := hold.or q.holdLeft, tickDue := hold.isNone && q.tickDue } ∧
      (∀ (d : Client) (x : Pin), (d, x) ≠ (c, p) → t.claimAt d x = s.claimAt d x) ∧
      t.waitList k = (s.waitList k).filter (· ≠ (c, p)) ++ [(c, p)] ∧
      (∀ j : Chan, j ≠ k → t.waitList j = (s.waitList j).filter (· ≠ (c, p))) ∧
      t.claimLists = s.claimLists ∧ SamePins s t ∧ t.queues = s.queues ∧
      (∀ j : Chan, t.channel j = (s.channel j).settled (t.refsOf j)) ∧
      OnlyRenewed s t c ∧
      Answered s t c tag .ok [1, byteOf q.rank.val, if s.top p = some c then 1 else 0] ∧
      t.watches = s.watches ∧ SameDevice s t

/-- RELEASE (R20), with the notices of R10, the references of R12 and R95 to R97 and the count of R120. That a filter of length 0 follows its pin by an event of its own is log entry 16. -/
def Obligations.ReleaseRemovesTheClaim : Prop :=
  (∀ (s : State) (c : Client) (tag : Byte) (p : Pin) (q : Claim),
     s.Lawful →
     s.Asks c (frameOf .release tag [byteOf p.val]) →
     s.InSession c →
     s.claimAt c p = some q →
     ∃ t, exec (Instr.release c) s = .next t ∧
       t.claims = s.claims.filter (fun x => !(x.client = c && x.pin = p)) ∧
       t.claimList p = (s.claimList p).filter (· ≠ c) ∧
       (∀ x : Pin, x ≠ p → t.claimList x = s.claimList x ∧ t.pad x = s.pad x) ∧
       (∀ k : Chan, t.waitList k = (s.waitList k).filter (· ≠ (c, p))) ∧
       t.policies = s.policies ∧ t.pad p = (s.pad p).take (t.resolve p) ∧
       (∀ k : Chan, t.channel k = (s.channel k).settled (t.refsOf k)) ∧
       (∀ d : Client, d ≠ c → t.session d = s.session d) ∧
       t.watches = s.watches ∧ SameDevice s t ∧
       (∀ d : Client, t.queue d = topNotice s t (some c) d (s.queue d) p) ∧
       t.session c = { (s.session c).renewed with claimsHeld := (s.session c).claimsHeld - 1 } ∧
       Answered s t c tag .ok [if q.state = .live then 2 else 1, if s.top p = some c then 1 else 0]) ∧
  (∀ (s : State) (c : Client) (tag : Byte) (b : Byte),
     s.Asks c (frameOf .release tag [b]) →
     s.InSession c →
     (∀ p : Pin, b = byteOf p.val → s.claimAt c p = none) →
     ∃ t, exec (Instr.release c) s = .next t ∧
       OnlyAnswered s t c tag (if b.toNat < 16 then .noClaim else .badArg) [])

/-- BIND (R92, R93). -/
def Obligations.BindTakesAFreeChannel : Prop :=
  (∀ (s : State) (c : Client) (tag : Byte) (k : Chan) (b : Byte),
     s.Lawful →
     s.Asks c (frameOf .bind tag [b]) →
     s.InSession c →
     (s.channel k).state = .free →
     (b = byteOf k.val ∨ (b = 0xFF ∧ ∀ j : Chan, j < k → (s.channel j).state ≠ .free)) →
     ∃ t, exec (Instr.bind c) s = .next t ∧
       t.channel k = { Channel.cleared with state := .stopped, owner := some c } ∧
       (∀ j : Chan, j ≠ k → t.channel j = s.channel j) ∧
       t.session c = { (s.session c).renewed with channelsOwned := (s.session c).channelsOwned + 1 } ∧
       (∀ d : Client, d ≠ c → t.session d = s.session d) ∧
       Answered s t c tag .ok [byteOf k.val] ∧
       SamePool s t ∧ SamePins s t ∧ t.watches = s.watches ∧
       t.queues = s.queues ∧ SameDevice s t) ∧
  (∀ (s : State) (c : Client) (tag : Byte) (b : Byte),
     s.Asks c (frameOf .bind tag [b]) →
     s.InSession c →
     (if b = 0xFF then ∀ k : Chan, (s.channel k).state ≠ .free
        else ∀ k : Chan, b = byteOf k.val → (s.channel k).state ≠ .free) →
     ∃ t, exec (Instr.bind c) s = .next t ∧
       OnlyAnswered s t c tag
        (if b = 0xFF then .noChannel else if b.toNat < 6 then .inUse else .badArg) [])

/-- CONFIGURE (R60, R61) with the walk of R59. That a clock source with a bit set that its layout does not name is outside its encoding is log entry 18. -/
def Obligations.ConfigureReplacesTheSettings : Prop :=
  (∀ (s : State) (c : Client) (tag : Byte) (k : Chan) (r : Settings),
     s.Lawful →
     s.Asks c (frameOf .configure tag (byteOf k.val :: settingsBytes r)) →
     s.InSession c →
     (s.channel k).owner = some c →
     ((s.channel k).state = .stopped ∨ (s.channel k).state = .done) →
     (∀ j : Chan, r.clock = .chain j → (s.channel j).state ≠ .free ∧
        ∀ path : List Chan, ¬ s.ChainWalk j k path) →
     ∃ t, exec (Instr.configure c) s = .next t ∧
       t.channel k = { s.channel k with settings := r, staging := none, refs := t.refsOf k } ∧
       (∀ j : Chan, j ≠ k → t.channel j = (s.channel j).settled (t.refsOf j)) ∧
       ChannelsAnswered s t c tag .ok []) ∧
  (∀ (s : State) (c : Client) (tag : Byte) (k : Chan) (r : Settings),
     s.Asks c (frameOf .configure tag (byteOf k.val :: settingsBytes r)) →
     s.InSession c →
     (s.channel k).owner = some c →
     (s.channel k).state ≠ .stopped →
     (s.channel k).state ≠ .done →
     ∃ t, exec (Instr.configure c) s = .next t ∧
       OnlyAnswered s t c tag .state []) ∧
  (∀ (s : State) (c : Client) (tag : Byte) (k : Chan) (r : Settings) (j : Chan) (path : List Chan),
     s.Asks c (frameOf .configure tag (byteOf k.val :: settingsBytes r)) →
     s.InSession c →
     (s.channel k).owner = some c →
     ((s.channel k).state = .stopped ∨ (s.channel k).state = .done) →
     r.clock = .chain j →
     ((s.channel j).state = .free ∨ s.ChainWalk j k path) →
     ∃ t, exec (Instr.configure c) s = .next t ∧
       OnlyAnswered s t c tag (if (s.channel j).state = .free then .sourceFree else .loop) []) ∧
  (∀ (s : State) (c : Client) (tag : Byte) (pl : List Byte),
     s.Asks c (frameOf .configure tag pl) →
     s.InSession c →
     pl.length = 9 →
     (5 < (pl.getD 0 0).toNat ∨ 2 < (pl.getD 1 0).toNat ∨ 8 < (pl.getD 6 0).toNat ∨
        (∀ src : ClockSource, clockByte src ≠ pl.getD 7 0) ∨ 1 < (pl.getD 8 0).toNat) →
     ∃ t, exec (Instr.configure c) s = .next t ∧
       OnlyAnswered s t c tag .badArg [])

/-- STAGE (R74). -/
def Obligations.StageMerges : Prop :=
  (∀ (s : State) (c : Client) (tag : Byte) (k : Chan) (r : Staged),
     s.Asks c (frameOf .stage tag (byteOf k.val :: stagedBytes r)) →
     s.InSession c →
     (s.channel k).owner = some c →
     (r.reload.isSome ∨ r.compare.isSome ∨ r.prescaleExp.isSome ∨ r.mode.isSome) →
     ∃ t, exec (Instr.stage c) s = .next t ∧
       t.channel k = { s.channel k with staging := some {
            reload := r.reload.or ((s.channel k).staging.bind (·.reload))
            compare := r.compare.or ((s.channel k).staging.bind (·.compare))
            prescaleExp := r.prescaleExp.or ((s.channel k).staging.bind (·.prescaleExp))
            mode := r.mode.or ((s.channel k).staging.bind (·.mode)) } } ∧
       (∀ j : Chan, j ≠ k → t.channel j = s.channel j) ∧
       ChannelsAnswered s t c tag .ok (stagedBytes {
            reload := r.reload.or ((s.channel k).staging.bind (·.reload))
            compare := r.compare.or ((s.channel k).staging.bind (·.compare))
            prescaleExp := r.prescaleExp.or ((s.channel k).staging.bind (·.prescaleExp))
            mode := r.mode.or ((s.channel k).staging.bind (·.mode)) })) ∧
  (∀ (s : State) (c : Client) (tag : Byte) (k : Chan),
     s.Asks c (frameOf .stage tag [byteOf k.val, 0]) →
     s.InSession c →
     (s.channel k).owner = some c →
     ∃ t, exec (Instr.stage c) s = .next t ∧
       OnlyAnswered s t c tag .badArg []) ∧
  (∀ (s : State) (c : Client) (tag : Byte) (k : Chan) (rl : Option Word) (cm : Option Word) (ex : Option Byte) (md : Option Byte),
     s.Asks c (frameOf .stage tag ([byteOf k.val, presenceByte [rl.isSome, cm.isSome, ex.isSome, md.isSome]] ++
        (rl.map wordBytes).getD [] ++ (cm.map wordBytes).getD [] ++ ex.toList ++ md.toList)) →
     s.InSession c →
     (s.channel k).owner = some c →
     ((ex.any fun b => 8 < b.toNat) ∨ (md.any fun b => 2 < b.toNat)) →
     ∃ t, exec (Instr.stage c) s = .next t ∧
       OnlyAnswered s t c tag .badArg [])

/-- COMMIT (R75 to R78). -/
def Obligations.CommitAppliesWaitsOrStays : Prop :=
  (∀ (s : State) (c : Client) (tag : Byte) (k : Chan) (x : Staged),
     s.Asks c (frameOf .commit tag [byteOf k.val]) →
     s.InSession c →
     (s.channel k).owner = some c →
     (s.channel k).staging = some x →
     ∃ t, exec (Instr.commit c) s = .next t ∧
       t.channel k =
        (if (s.channel k).state ≠ .running then
          { s.channel k with
            staging := none
            settings := { (s.channel k).settings with
              reload := x.reload.getD (s.channel k).settings.reload
              compare := x.compare.getD (s.channel k).settings.compare
              prescaleExp := x.prescaleExp.getD (s.channel k).settings.prescaleExp
              mode := x.mode.getD (s.channel k).settings.mode } }
        else if (s.channel k).commit = none then
          { s.channel k with staging := none, commit := some x }
        else s.channel k) ∧
       (∀ j : Chan, j ≠ k → t.channel j = s.channel j) ∧
       ChannelsAnswered s t c tag
        (if (s.channel k).state ≠ .running then .ok
         else if (s.channel k).commit = none then .accepted else .pending)
        [chanStateByte (s.channel k).state, flagByte (t.channel k).staging.isSome,
         flagByte (t.channel k).commit.isSome]) ∧
  (∀ (s : State) (c : Client) (tag : Byte) (k : Chan),
     s.Asks c (frameOf .commit tag [byteOf k.val]) →
     s.InSession c →
     (s.channel k).owner = some c →
     (s.channel k).staging = none →
     ∃ t, exec (Instr.commit c) s = .next t ∧
       OnlyAnswered s t c tag .badArg [])

/-- CANCEL (R79). -/
def Obligations.CancelWithdrawsTheCommit : Prop :=
  (∀ (s : State) (c : Client) (tag : Byte) (k : Chan),
     s.Asks c (frameOf .cancel tag [byteOf k.val]) →
     s.InSession c →
     (s.channel k).owner = some c →
     (s.channel k).commit ≠ none →
     ∃ t, exec (Instr.cancel c) s = .next t ∧
       t.channel k = { s.channel k with commit := none } ∧
       (∀ j : Chan, j ≠ k → t.channel j = s.channel j) ∧
       ChannelsAnswered s t c tag .ok []) ∧
  (∀ (s : State) (c : Client) (tag : Byte) (b : Byte),
     s.Asks c (frameOf .cancel tag [b]) →
     s.InSession c →
     (∀ k : Chan, b = byteOf k.val → (s.channel k).owner = some c → (s.channel k).commit = none) →
     ∃ t, exec (Instr.cancel c) s = .next t ∧
       OnlyAnswered s t c tag
        (if b.toNat < 6 then
          (if ∃ k : Chan, b = byteOf k.val ∧ (s.channel k).owner = some c then .nonePending else .notOwner)
         else .badArg) [])

/-- START (R62), START GROUP (R68) and the trigger edge (R64). A trigger edge is due once the pad stage has handed it on (log entry 7). That a filter of length 0 follows its pin by an event of its own is log entry 16. -/
def Obligations.StartsRunFromReload : Prop :=
  (∀ (s : State) (c : Client) (tag : Byte) (k : Chan),
     s.Lawful →
     s.Asks c (frameOf .start tag [byteOf k.val]) →
     s.InSession c →
     (s.channel k).owner = some c →
     (s.channel k).state ≠ .running →
     ∃ t, exec (Instr.start c) s = .next t ∧
       (∀ j : Chan, t.channel j = if j = k then (s.channel j).fresh else s.channel j) ∧
       (∀ d : Client, t.queue d =
        if d ≠ c ∧ s.relies d k = true then (s.queue d).place (.sourceChange k .running true)
        else s.queue d) ∧
       PadsResolved s t ∧ SamePool s t ∧ t.watches = s.watches ∧ SameDevice s t ∧
       OnlyRenewed s t c ∧ Answered s t c tag .ok [3]) ∧
  (∀ (s : State) (c : Client) (tag : Byte) (ks : List Chan),
     s.Lawful →
     s.Asks c (frameOf .startGroup tag (ks.map fun k => byteOf k.val)) →
     s.InSession c →
     ks ≠ [] →
     ks.Nodup →
     (∀ k ∈ ks, (s.channel k).owner = some c ∧ (s.channel k).state ≠ .running) →
     ∃ t, exec (Instr.startGroup c) s = .next t ∧
       (∀ j : Chan, t.channel j = if j ∈ ks then (s.channel j).fresh else s.channel j) ∧
       (∀ d : Client, t.queue d = allChans.foldl (fun q k =>
        if k ∈ ks ∧ d ≠ c ∧ s.relies d k = true then q.place (.sourceChange k .running true) else q)
        (s.queue d)) ∧
       PadsResolved s t ∧ SamePool s t ∧ t.watches = s.watches ∧ SameDevice s t ∧
       OnlyRenewed s t c ∧ Answered s t c tag .ok []) ∧
  (∀ (s : State) (k : Chan),
     s.Lawful →
     s.Calm →
     (s.channel k).state = .armed →
     (s.channel k).triggerDue = true →
     ∃ t, exec (Instr.triggerEdge k) s = .next t ∧
       (∀ j : Chan, t.channel j = if j = k then (s.channel j).fresh else s.channel j) ∧
       (∀ d : Client, t.queue d =
        if s.relies d k = true then (s.queue d).place (.sourceChange k .running true) else s.queue d) ∧
       PadsResolved s t ∧ SamePool s t ∧ t.watches = s.watches ∧ SameDevice s t ∧
       t.sessions = s.sessions ∧ SamePorts s t) ∧
  (∀ (s : State) (c : Client) (tag : Byte) (k : Chan),
     s.Asks c (frameOf .start tag [byteOf k.val]) →
     s.InSession c →
     (s.channel k).owner = some c →
     (s.channel k).state = .running →
     ∃ t, exec (Instr.start c) s = .next t ∧
       OnlyAnswered s t c tag .state [])

/-- The entry checks of R67. -/
def Obligations.StartGroupRefusesWhole : Prop :=
  ∀ (s : State) (c : Client) (tag : Byte) (ks : List Chan) (b : Byte) (rest : List Byte),
    s.Asks c (frameOf .startGroup tag ((ks.map fun k => byteOf k.val) ++ b :: rest)) →
    s.InSession c →
    ks.Nodup →
    ks.length + rest.length < 6 →
    (∀ k ∈ ks, (s.channel k).owner = some c ∧ (s.channel k).state ≠ .running) →
    (∀ k : Chan, b = byteOf k.val → k ∈ ks ∨ (s.channel k).owner ≠ some c ∨ (s.channel k).state = .running) →
    (∀ k : Chan, (s.channel k).state = .free → (s.channel k).owner = none) →
    ∃ t, exec (Instr.startGroup c) s = .next t ∧
      OnlyAnswered s t c tag
        (if ∃ k : Chan, b = byteOf k.val ∧ k ∉ ks then
          (if ∃ k : Chan, b = byteOf k.val ∧ (s.channel k).owner = some c then .state else .notOwner)
         else .badArg) [byteOf (ks.length + 1), b]

/-- ARM (R63). -/
def Obligations.ArmStoresTheTrigger : Prop :=
  (∀ (s : State) (c : Client) (tag : Byte) (k : Chan) (p : Pin) (e : Edge),
     s.Asks c (frameOf .arm tag [byteOf k.val, byteOf p.val, edgeByte e]) →
     s.InSession c →
     (s.channel k).owner = some c →
     ((s.channel k).state = .stopped ∨ (s.channel k).state = .done) →
     ∃ t, exec (Instr.arm c) s = .next t ∧
       t.channel k = { s.channel k with state := .armed, trigger := some (p, e), triggerDue := false } ∧
       (∀ j : Chan, j ≠ k → t.channel j = s.channel j) ∧
       ChannelsAnswered s t c tag .ok [2]) ∧
  (∀ (s : State) (c : Client) (tag : Byte) (k : Chan) (p : Pin) (e : Edge),
     s.Asks c (frameOf .arm tag [byteOf k.val, byteOf p.val, edgeByte e]) →
     s.InSession c →
     (s.channel k).owner = some c →
     ((s.channel k).state = .running ∨ (s.channel k).state = .armed) →
     ∃ t, exec (Instr.arm c) s = .next t ∧
       OnlyAnswered s t c tag .state []) ∧
  (∀ (s : State) (c : Client) (tag : Byte) (bk : Byte) (bp : Byte) (be : Byte),
     s.Asks c (frameOf .arm tag [bk, bp, be]) →
     s.InSession c →
     (5 < bk.toNat ∨ 15 < bp.toNat ∨ (be ≠ 1 ∧ be ≠ 2)) →
     ∃ t, exec (Instr.arm c) s = .next t ∧
       OnlyAnswered s t c tag .badArg [])

/-- STOP (R65), with the activation of R22 to R24. That a filter of length 0 follows its pin by an event of its own is log entry 16. -/
def Obligations.StopEndsTheRun : Prop :=
  (∀ (s : State) (c : Client) (tag : Byte) (k : Chan),
     s.Lawful →
     s.Asks c (frameOf .stop tag [byteOf k.val]) →
     s.InSession c →
     (s.channel k).owner = some c →
     (s.channel k).state = .running →
     ∃ t, exec (Instr.stop c) s = .next t ∧
       t.channel k = { s.channel k with
          state := .stopped, output := false, commit := none, inputsDue := 0, refs := t.refsOf k } ∧
       (∀ j : Chan, j ≠ k → t.channel j = (s.channel j).settled (t.refsOf j)) ∧
       t.claims = activatedClaims s.claims k ∧
       t.waitList k = [] ∧
       (∀ j : Chan, j ≠ k → t.waitList j = s.waitList j) ∧
       (∀ p : Pin, t.claimList p = activatedList s k p) ∧
       (∀ d : Client, t.queue d =
        (let q := if d = c ∧ (s.channel k).commit ≠ none then (s.queue d).place (.commitEnd k false)
          else s.queue d
         let q' := topNotices s t none d q
         if d ≠ c ∧ t.relies d k = true then q'.place (.sourceChange k .stopped true) else q')) ∧
       PadsResolved s t ∧ t.watches = s.watches ∧ SameDevice s t ∧
       OnlyRenewed s t c ∧ Answered s t c tag .ok [1]) ∧
  (∀ (s : State) (c : Client) (tag : Byte) (k : Chan),
     s.Asks c (frameOf .stop tag [byteOf k.val]) →
     s.InSession c →
     (s.channel k).owner = some c →
     (s.channel k).state = .armed →
     ∃ t, exec (Instr.stop c) s = .next t ∧
       t.channel k = { s.channel k with state := .stopped, trigger := none, triggerDue := false } ∧
       (∀ j : Chan, j ≠ k → t.channel j = s.channel j) ∧
       ChannelsAnswered s t c tag .ok [1]) ∧
  (∀ (s : State) (c : Client) (tag : Byte) (k : Chan),
     s.Asks c (frameOf .stop tag [byteOf k.val]) →
     s.InSession c →
     (s.channel k).owner = some c →
     ((s.channel k).state = .stopped ∨ (s.channel k).state = .done) →
     ∃ t, exec (Instr.stop c) s = .next t ∧
       OnlyAnswered s t c tag .state [])

/-- RELEASE CHANNEL (R97 to R99). That the reference count in the reply is one byte is log entry 9. -/
def Obligations.ReleaseChannelFreesOrOrphans : Prop :=
  ∀ (s : State) (c : Client) (tag : Byte) (k : Chan),
    s.Lawful →
    s.Asks c (frameOf .releaseChannel tag [byteOf k.val]) →
    s.InSession c →
    (s.channel k).owner = some c →
    ∃ t, exec (Instr.releaseChannel c) s = .next t ∧
      t.channel k =
        (if (s.channel k).refs = 0 then Channel.cleared
         else { s.channel k with
          owner := none, staging := none, commit := none, trigger := none, triggerDue := false
          state := if (s.channel k).state = .armed then .stopped else (s.channel k).state }) ∧
      (∀ j : Chan, j ≠ k → t.channel j = (s.channel j).settled (t.refsOf j)) ∧
      ((s.channel k).refs ≠ 0 → ∀ j : Chan, j ≠ k → t.channel j = s.channel j) ∧
      (∀ d : Client, t.queue d =
        if (s.channel k).refs ≠ 0 ∧ d ≠ c ∧ s.relies d k = true then
          (s.queue d).place (.sourceChange k (t.channel k).state false)
        else s.queue d) ∧
      t.session c = { (s.session c).renewed with channelsOwned := (s.session c).channelsOwned - 1 } ∧
      (∀ d : Client, d ≠ c → t.session d = s.session d) ∧
      Answered s t c tag .ok
        (if (s.channel k).refs = 0 then [0, 0, 0]
         else [1, chanStateByte (t.channel k).state, byteOf (s.channel k).refs]) ∧
      SamePool s t ∧ SamePins s t ∧ t.watches = s.watches ∧ SameDevice s t

/-- ADOPT (R101). That the reference count in the reply is one byte is log entry 9. -/
def Obligations.AdoptTakesAnOrphan : Prop :=
  (∀ (s : State) (c : Client) (tag : Byte) (k : Chan),
     s.Lawful →
     s.Asks c (frameOf .adopt tag [byteOf k.val]) →
     s.InSession c →
     (s.channel k).state ≠ .free →
     (s.channel k).owner = none →
     ∃ t, exec (Instr.adopt c) s = .next t ∧
       t.channel k = { s.channel k with owner := some c } ∧
       (∀ j : Chan, j ≠ k → t.channel j = s.channel j) ∧
       (∀ d : Client, t.queue d =
        if d ≠ c ∧ s.relies d k = true then (s.queue d).place (.sourceChange k (s.channel k).state true)
        else s.queue d) ∧
       t.session c = { (s.session c).renewed with channelsOwned := (s.session c).channelsOwned + 1 } ∧
       (∀ d : Client, d ≠ c → t.session d = s.session d) ∧
       Answered s t c tag .ok [chanStateByte (s.channel k).state, byteOf (s.channel k).refs] ∧
       SamePool s t ∧ SamePins s t ∧ t.watches = s.watches ∧ SameDevice s t) ∧
  (∀ (s : State) (c : Client) (tag : Byte) (b : Byte),
     s.Asks c (frameOf .adopt tag [b]) →
     s.InSession c →
     (∀ k : Chan, b = byteOf k.val → (s.channel k).state = .free ∨ (s.channel k).owner ≠ none) →
     ∃ t, exec (Instr.adopt c) s = .next t ∧
       OnlyAnswered s t c tag
        (if b.toNat < 6 then
          (if ∃ k : Chan, b = byteOf k.val ∧ (s.channel k).state = .free then .state else .notOrphan)
         else .badArg) [])

/-- WATCH (R110, R111) and UNWATCH (R112). How REPLACED carries the old selection is log entry 13. -/
def Obligations.WatchAndUnwatch : Prop :=
  (∀ (s : State) (c : Client) (tag : Byte) (p : Pin) (e : EdgeSel),
     s.Lawful →
     s.Asks c (frameOf .watch tag [byteOf p.val, edgeSelByte e]) →
     s.InSession c →
     (∀ w ∈ s.watches, (w.client, w.pin) ≠ (c, p)) →
     s.watches.length < 24 →
     ∃ t, exec (Instr.watch c) s = .next t ∧
       t.watches = s.watches ++ [{ client := c, pin := p, edges := e }] ∧
       t.session c = { (s.session c).renewed with watchesHeld := (s.session c).watchesHeld + 1 } ∧
       (∀ d : Client, d ≠ c → t.session d = s.session d) ∧
       Answered s t c tag .ok [byteOf p.val, 0, edgeSelByte e, levelByte (s.pad p).filtered] ∧
       SamePool s t ∧ SamePins s t ∧ t.channels = s.channels ∧ t.queues = s.queues ∧ SameDevice s t) ∧
  (∀ (s : State) (c : Client) (tag : Byte) (p : Pin) (e : EdgeSel) (w : Watch),
     s.Lawful →
     s.Asks c (frameOf .watch tag [byteOf p.val, edgeSelByte e]) →
     s.InSession c →
     w ∈ s.watches →
     w.client = c ∧ w.pin = p →
     ∃ t, exec (Instr.watch c) s = .next t ∧
       t.watches = s.watches.map (fun v => if v.client = c ∧ v.pin = p then { v with edges := e } else v) ∧
       Answered s t c tag .ok [byteOf p.val, 1, edgeSelByte e, edgeSelByte w.edges, levelByte (s.pad p).filtered] ∧
       OnlyRenewed s t c ∧ SamePool s t ∧ SamePins s t ∧
       t.channels = s.channels ∧ t.queues = s.queues ∧ SameDevice s t) ∧
  (∀ (s : State) (c : Client) (tag : Byte) (p : Pin) (e : EdgeSel),
     s.Asks c (frameOf .watch tag [byteOf p.val, edgeSelByte e]) →
     s.InSession c →
     (∀ w ∈ s.watches, (w.client, w.pin) ≠ (c, p)) →
     24 ≤ s.watches.length →
     ∃ t, exec (Instr.watch c) s = .next t ∧
       OnlyAnswered s t c tag .poolFull []) ∧
  (∀ (s : State) (c : Client) (tag : Byte) (p : Pin) (w : Watch),
     s.Lawful →
     s.Asks c (frameOf .unwatch tag [byteOf p.val]) →
     s.InSession c →
     w ∈ s.watches →
     w.client = c ∧ w.pin = p →
     ∃ t, exec (Instr.unwatch c) s = .next t ∧
       t.watches = s.watches.filter (fun v => !(v.client = c && v.pin = p)) ∧
       t.session c = { (s.session c).renewed with watchesHeld := (s.session c).watchesHeld - 1 } ∧
       (∀ d : Client, d ≠ c → t.session d = s.session d) ∧
       Answered s t c tag .ok [byteOf p.val, edgeSelByte w.edges] ∧
       SamePool s t ∧ SamePins s t ∧ t.channels = s.channels ∧ t.queues = s.queues ∧ SameDevice s t) ∧
  (∀ (s : State) (c : Client) (tag : Byte) (b : Byte),
     s.Asks c (frameOf .unwatch tag [b]) →
     s.InSession c →
     (∀ w ∈ s.watches, w.client = c → byteOf w.pin.val ≠ b) →
     ∃ t, exec (Instr.unwatch c) s = .next t ∧
       OnlyAnswered s t c tag (if b.toNat < 16 then .noWatch else .badArg) []) ∧
  (∀ (s : State) (c : Client) (tag : Byte) (bp : Byte) (be : Byte),
     s.Asks c (frameOf .watch tag [bp, be]) →
     s.InSession c →
     (15 < bp.toNat ∨ be = 0 ∨ 3 < be.toNat) →
     ∃ t, exec (Instr.watch c) s = .next t ∧
       OnlyAnswered s t c tag .badArg [])

/-- FETCH (R146, R147). That the bits of a notice's data byte which its table does not name are 0 is log entry 19. -/
def Obligations.FetchRemovesTheOldest : Prop :=
  (∀ (s : State) (c : Client) (tag : Byte) (n : Nat),
     s.Lawful →
     s.Asks c (frameOf .fetch tag [byteOf n]) →
     s.InSession c →
     1 ≤ n ∧ n ≤ 6 →
     ∃ t, exec (Instr.fetch c) s = .next t ∧
       (if (s.queue c).entries = [] ∨ (s.queue c).dropped = 0 then
          t.queue c = { s.queue c with entries := (s.queue c).entries.drop n }
        else
          (t.queue c).dropped = 0 ∧
          (t.queue c).entries = (({ s.queue c with entries := (s.queue c).entries.drop n } : Queue).place
            (.overflow (s.queue c).dropped)).entries ∧
          ((t.queue c).entries.any fun e => e.notice = .overflow (s.queue c).dropped) = true) ∧
       (∀ d : Client, d ≠ c → t.queue d = s.queue d) ∧
       Answered s t c tag .ok (byteOf (min n (s.queue c).entries.length) ::
        ((s.queue c).entries.take n).flatMap fun e => noticeBytes e.notice ++ [byteOf e.repeats]) ∧
       OnlyRenewed s t c ∧ SamePool s t ∧ SamePins s t ∧
       t.channels = s.channels ∧ t.watches = s.watches ∧ SameDevice s t) ∧
  (∀ (s : State) (c : Client) (tag : Byte) (b : Byte),
     s.Asks c (frameOf .fetch tag [b]) →
     s.InSession c →
     (b = 0 ∨ 6 < b.toNat) →
     ∃ t, exec (Instr.fetch c) s = .next t ∧
       OnlyAnswered s t c tag .badArg [])

/-- A good WRITE (R158, R159): the frame of R180's CRC. -/
def Obligations.WriteHoldsAGoodFrame : Prop :=
  ∀ (s : State) (c : Client) (f : Frame) (more : List Byte),
    s.Calm →
    (s.port c).transaction = .none →
    (s.port c).state = .ready →
    f.payload.length ≤ 56 →
    ∃ t, exec (Instr.write c (.whole ([f.command, f.tag, byteOf f.payload.length] ++ f.payload ++
        [crc8 ([f.command, f.tag, byteOf f.payload.length] ++ f.payload)] ++ more))) s = .next t ∧
      t = s.setPort c { s.port c with
          state := .held, held := some f, rx := [], tx := [], txReply := false, passedBy := []
          out := List.replicate (5 + f.payload.length + more.length) 0xFF }

/-- A bad WRITE (R159). -/
def Obligations.WriteAnswersABadFrame : Prop :=
  ∀ (s : State) (c : Client) (bs : List Byte),
    s.Calm →
    (s.port c).transaction = .none →
    (s.port c).state = .ready →
    (bs.length < 4 ∨ 56 < (bs.getD 2 0).toNat ∨ bs.length < 4 + (bs.getD 2 0).toNat ∨
        crc8 (bs.take (3 + (bs.getD 2 0).toNat)) ≠ bs.getD (3 + (bs.getD 2 0).toNat) 0) →
    ∃ t, exec (Instr.write c (.whole bs)) s = .next t ∧
      t = s.setPort c { s.port c with
          state := .answered, held := none, attention := true
          reply := some { status := .frameError, tag := bs.getD 1 0, session := (s.session c).state,
                          depth := (s.queue c).entries.length, payload := [] }
          rx := [], tx := [], txReply := false, passedBy := [], out := List.replicate (1 + bs.length) 0xFF }

/-- The discarded WRITE (R160) and the ignored transaction (R156). -/
def Obligations.DiscardedAndIgnoredTransactions : Prop :=
  (∀ (s : State) (c : Client) (bs : List Byte),
     s.Calm →
     (s.port c).transaction = .none →
     (s.port c).state ≠ .ready →
     ∃ t, exec (Instr.write c (.whole bs)) s = .next t ∧
       t = s.setPort c { s.port c with
          overrun := true, rx := [], tx := [], txReply := false, out := List.replicate (1 + bs.length) 0xFF }) ∧
  (∀ (s : State) (c : Client) (kd : Byte) (bs : List Byte),
     s.inReset = false →
     (s.port c).transaction = .none →
     kd ≠ 0xA5 ∧ kd ≠ 0x5A →
     ∃ t, exec (Instr.ignoredTransaction c kd (.whole bs)) s = .next t ∧
       t = s.setPort c { s.port c with
          rx := [], tx := [], txReply := false, out := List.replicate (1 + bs.length) 0xFF })

/-- READ (R161 to R164), with the bytes of a reply frame and the CRC of R180. -/
def Obligations.ReadShiftsTheReplyOut : Prop :=
  (∀ (s : State) (c : Client) (bs : List Byte) (r : Reply),
     s.Calm →
     (s.port c).transaction = .none →
     (s.port c).state = .answered →
     (s.port c).reply = some r →
     ∃ t, exec (Instr.read c (.whole bs)) s = .next t ∧
       (t.port c).out = 0xFF ::
        (replyBytes (s.port c).overrun r ++ List.replicate bs.length 0xFF).take bs.length ∧
       t = s.setPort c (if 5 + r.payload.length ≤ bs.length then
          { s.port c with
            state := .ready, reply := none, overrun := false, rx := [], tx := [], txReply := false
            attention := !(s.queue c).entries.isEmpty, out := (t.port c).out }
        else { s.port c with rx := [], tx := [], txReply := false, out := (t.port c).out })) ∧
  (∀ (s : State) (c : Client) (bs : List Byte),
     s.Calm →
     (s.port c).transaction = .none →
     (s.port c).state ≠ .answered →
     ∃ t, exec (Instr.read c (.whole bs)) s = .next t ∧
       t = s.setPort c { s.port c with
          rx := [], tx := [], txReply := false
          out := 0xFF ::
            (replyBytes (s.port c).overrun
              { status := .noReply, tag := 0, session := (s.session c).state,
                depth := (s.queue c).entries.length, payload := [] } ++
              List.replicate bs.length 0xFF).take bs.length }) ∧
  (∀ (o : Bool) (r : Reply), r.depth ≤ 12 → r.payload.length ≤ 56 →
     (replyBytes o r).length = 5 + r.payload.length ∧
     (replyBytes o r).getD 0 0 = statusByte r.status ∧ (replyBytes o r).getD 1 0 = r.tag ∧
     ((replyBytes o r).getD 2 0).getLsbD 7 = o ∧
     ((replyBytes o r).getD 2 0).toNat / 32 % 4 =
       (match r.session with | .closed => 0 | .opened => 1 | .grace => 2) ∧
     ((replyBytes o r).getD 2 0).getLsbD 4 = false ∧ ((replyBytes o r).getD 2 0).toNat % 16 = r.depth ∧
     ((replyBytes o r).getD 3 0).toNat = r.payload.length ∧
     ((replyBytes o r).drop 4).take r.payload.length = r.payload ∧
     (replyBytes o r).getLast? = some (crc8 (replyBytes o r).dropLast)) ∧
  (∀ bytes : List Byte, crc8 bytes = bytes.foldl (fun r b =>
     (List.range 8).foldl (fun x _ => if x.getLsbD 7 then (x <<< 1) ^^^ 0x07 else x <<< 1) (r ^^^ b)) 0xFF) ∧
  (∀ x ∈ ([(.ok, 0x00), (.accepted, 0x01), (.pending, 0x02), (.noReply, 0x10), (.frameError, 0x11),
       (.unknown, 0x20), (.badArg, 0x21), (.noSession, 0x22), (.state, 0x23), (.role, 0x30), (.denied, 0x31),
       (.exists_, 0x32), (.noClaim, 0x33), (.noWatch, 0x34), (.poolFull, 0x35), (.sourceFree, 0x36),
       (.notOwner, 0x40), (.notOrphan, 0x41), (.noChannel, 0x42), (.inUse, 0x43), (.loop, 0x44),
       (.nonePending, 0x45), (.notQuiescent, 0x46)] : List (Status × Byte)), statusByte x.1 = x.2)

/-- A transaction runs from select to deselect (R156), and none is taken while the part is held in reset (R134, R172). -/
def Obligations.TransactionsAreTheirParts : Prop :=
  (∀ (s : State) (c : Client) (bs : List Byte), s.Calm → (s.port c).transaction = .none →
    ∃ t u, exec (.write c (.whole bs)) s = .next t ∧
      runAll ([.write c .select, .write c .kind] ++ bs.map (fun b => Instr.write c (.byte b)) ++
        [.write c .deselect]) s = .next t ∧
      exec (.read c (.whole bs)) s = .next u ∧
      runAll ([.read c .select, .read c .kind] ++ bs.map (fun b => Instr.read c (.byte b)) ++
        [.read c .deselect]) s = .next u) ∧
  (∀ (s : State) (c : Client) (kd : Byte) (bs : List Byte), s.Calm → (s.port c).transaction = .none →
    ∃ t, exec (.ignoredTransaction c kd (.whole bs)) s = .next t ∧
      runAll ([.ignoredTransaction c kd .select, .ignoredTransaction c kd .kind] ++
        bs.map (fun b => Instr.ignoredTransaction c kd (.byte b)) ++
        [.ignoredTransaction c kd .deselect]) s = .next t) ∧
  ∀ (s : State) (c : Client), s.inReset = true →
    (∀ cmd : Command, exec (requestAt c cmd) s = .next s) ∧
    ((s.port c).transaction = .none → ∃ t, exec (.write c .select) s = .next t ∧
      (t.port c).transaction = .ignore ∧ (t.port c).state = (s.port c).state)

/-- Counting (R51 to R53, R56) and the inputs a channel ignores (R50). That inputs wait at a channel until their command, and that a base tick comes once those of the last are taken, is log entry 7; that a channel may take an edge ahead of its EDGE notices is log entry 17. That a filter of length 0 follows its pin by an event of its own is log entry 16. -/
def Obligations.ClockInputsCount : Prop :=
  (∀ (s : State) (k : Chan),
     s.Lawful →
     s.Calm →
     (s.channel k).state = .running →
     0 < (s.channel k).inputsDue →
     (s.channel k).phase.toNat + 1 ≠ 2 ^ (s.channel k).settings.prescaleExp.val →
     ∃ t, exec (Instr.clockInput k) s = .next t ∧
       t = s.setChannel k { s.channel k with
          phase := (s.channel k).phase + 1, inputsDue := (s.channel k).inputsDue - 1 }) ∧
  (∀ (s : State) (k : Chan) (com : Instr),
     (com = .clockInput k ∨ com = .channelTick k) →
     s.Lawful →
     s.Calm →
     (s.channel k).state = .running →
     0 < (s.channel k).inputsDue →
     (s.channel k).phase.toNat + 1 = 2 ^ (s.channel k).settings.prescaleExp.val →
     (s.channel k).count ≠ 0 →
     ∃ t, exec (com) s = .next t ∧
       t.channel k = { s.channel k with
          phase := 0, count := (s.channel k).count - 1, inputsDue := (s.channel k).inputsDue - 1
          output := if (s.channel k).settings.compare = 0 then false
            else if (s.channel k).settings.reload < (s.channel k).settings.compare then true
            else (s.channel k).startValue - ((s.channel k).count - 1) < (s.channel k).settings.compare } ∧
       (∀ j : Chan, j ≠ k → t.channel j = s.channel j) ∧
       PadsResolved s t ∧ SamePool s t ∧ t.watches = s.watches ∧ t.queues = s.queues ∧
       t.sessions = s.sessions ∧ t.ports = s.ports ∧ SameDevice s t) ∧
  (∀ (s : State) (k : Chan) (com : Instr),
     (com = .clockInput k ∨ ((s.channel k).phase.toNat + 1 = 2 ^ (s.channel k).settings.prescaleExp.val ∧
        com = if (s.channel k).count = 0 then Instr.periodBoundary k else .channelTick k)) →
     s.Calm →
     s.Quiet →
     (s.channel k).state = .running →
     (s.channel k).settings.clock = .base →
     ∃ t, exec (com) s = .next t ∧
       exec com { s with
        channels := Vector.ofFn fun j =>
          if (s.channel j).state = .running ∧ (s.channel j).settings.clock = .base then
            { s.channel j with inputsDue := (s.channel j).inputsDue + 1 }
          else s.channel j } = .next t) ∧
  (∀ (s : State) (k : Chan) (j : Chan),
     s.Lawful →
     s.Calm →
     (s.channel k).state = .running →
     (s.channel k).settings.clock = .base →
     j ≠ k →
     (∀ i : Chan, i ≠ j → (s.channel i).inputsDue = 0) →
     (∀ i : Chan, (s.channel i).triggerDue = false) →
     (s.channel j).inputsDue = 1 →
     ∃ t, exec (Instr.clockInput k) s = .next t ∧
       (match exec (.clockInput j) s with
        | .next m => m.Calm → m.Quiet → (m.channel k).state = .running → exec (.clockInput k) m = .next t
        | .fault _ | .refused _ => False)) ∧
  (∀ (s : State) (k : Chan) (p : Pin) (g : Edge),
     s.Lawful →
     s.inReset = false →
     s.edgeOwed = none →
     (∀ q : Pin, q ≠ p → s.lags q = false) →
     (s.lags p = true ∨ (s.pad p).tickDue = true) →
     (s.channel k).state = .running →
     (s.channel k).inputsDue = 0 →
     (s.channel k).settings.clock = .pin p g →
     (s.pad p).filtered = (if g = .rise then .low else .high) →
     ∃ t, exec (Instr.clockInput k) s = .next t ∧
       exec (.clockInput k) { (s.setPad p { s.pad p with
            filtered := (if g = .rise then .high else .low), run := 0, tickDue := false }) with
          channels := (Vector.ofFn fun j =>
            if (s.channel j).state = .armed ∧ (s.channel j).trigger = some (p, g) then
              { s.channel j with triggerDue := true }
            else if (s.channel j).state = .running ∧ (s.channel j).settings.clock = .pin p g then
              { s.channel j with inputsDue := (s.channel j).inputsDue + 1 }
            else s.channel j)
          edgeOwed := some (p, if g = .rise then .high else .low) } = .next t) ∧
  (∀ (s : State) (k : Chan),
     s.Calm →
     (s.channel k).state ≠ .running →
     ∃ t, exec (Instr.clockInput k) s = .next t ∧
       t = s ∧ exec (.channelTick k) s = .next s ∧ exec (.periodBoundary k) s = .next s)

/-- The boundary (R80 to R84). That an input is due at the channel until its command takes it, and that the inputs handed to the channels chained from it wait for theirs, is log entry 7. That a filter of length 0 follows its pin by an event of its own is log entry 16. -/
def Obligations.PeriodBoundaryInFourSteps : Prop :=
  ∀ (s : State) (k : Chan) (com : Instr),
    (com = .clockInput k ∨ com = .periodBoundary k) →
    s.Lawful →
    s.Calm →
    (s.channel k).state = .running →
    0 < (s.channel k).inputsDue →
    (s.channel k).phase.toNat + 1 = 2 ^ (s.channel k).settings.prescaleExp.val →
    (s.channel k).count = 0 →
    ∃ t, exec (com) s = .next t ∧
      (let r : Settings := match (s.channel k).commit with
          | none => (s.channel k).settings
          | some x => { (s.channel k).settings with
              reload := x.reload.getD (s.channel k).settings.reload
              compare := x.compare.getD (s.channel k).settings.compare
              prescaleExp := x.prescaleExp.getD (s.channel k).settings.prescaleExp
              mode := x.mode.getD (s.channel k).settings.mode }
        let n : Word := if r.mode = .wrap then 65535 else r.reload
        t.channel k = (if r.mode = .oneShot then
            { s.channel k with
              state := .done, settings := r, commit := none, count := 0, phase := 0, output := false
              inputsDue := 0 : Channel }
          else
            { s.channel k with
              settings := r, commit := none, count := n, startValue := n, phase := 0
              output := r.compare ≠ 0, inputsDue := (s.channel k).inputsDue - 1 }).settled (t.refsOf k)) ∧
      (∀ j : Chan, j ≠ k → t.channel j =
        { s.channel j with inputsDue := (s.channel j).inputsDue +
            (if (s.channel j).state = .running ∧ (s.channel j).settings.clock = .chain k then 1 else 0) :
          Channel }.settled (t.refsOf j)) ∧
      t.claims = activatedClaims s.claims k ∧
      t.waitList k = [] ∧
      (∀ j : Chan, j ≠ k → t.waitList j = s.waitList j) ∧
      (∀ p : Pin, t.claimList p = activatedList s k p) ∧
      (∀ d : Client, t.queue d =
        (let m : Mode := ((s.channel k).commit.bind (·.mode)).getD (s.channel k).settings.mode
         let q1 := if (s.channel k).owner = some d ∧ (s.channel k).commit ≠ none then
             (s.queue d).place (.commitEnd k true) else s.queue d
         let q2 := topNotices s t none d q1
         let q3 := if m = .oneShot ∧ t.relies d k = true then
             q2.place (.sourceChange k .done (s.channel k).owner.isSome) else q2
         if (s.channel k).owner = some d ∧ (s.channel k).settings.notify = true then
           q3.place (.terminal k) else q3)) ∧
      PadsResolved s t ∧ t.watches = s.watches ∧
      t.sessions = s.sessions ∧ SamePorts s t ∧ SameDevice s t

/-- The raw level (R41); the board is the model's input (log entry 2). That the filtered level of a pad of length 0 stays here and follows by an event of its own (R43) is log entry 16. -/
def Obligations.BoardLevelsReachThePad : Prop :=
  ∀ (s : State) (p : Pin) (b : BoardLevel),
    s.Calm →
    ∃ t, exec (Instr.pinLevelChange p b) s = .next t ∧
      t = s.setPad p { s.pad p with
          board := b
          raw := match (s.pad p).driven, b.drives, (s.pad p).pull with
            | .high, _, _ => .high
            | .low, _, _ => .low
            | .released, true, _ => b.level
            | .released, false, .up => .high
            | .released, false, .down => .low
            | .released, false, .none => b.level }

/-- Filtered edges (R42 to R44, R113), with both orders of EDGE and SOURCE_CHANGE (R115, R153). That the edge of a completed run waits for its command is log entry 6, that a pad of length 0 lags until its edge's command is log entry 16, that triggers and inputs wait at their channels is log entry 7, and how a channel comes to take an edge ahead of its EDGE notices is log entry 17. -/
def Obligations.FilteredEdgesReachTheirConsumers : Prop :=
  (∀ (s : State) (p : Pin),
     s.Lawful →
     s.inReset = false →
     s.edgeOwed = none →
     (s.policy p).filterLen = 0 →
     (s.pad p).raw ≠ (s.pad p).filtered →
     ∃ t, exec (Instr.filteredEdge p) s = .next t ∧
       t.pad p = { s.pad p with filtered := (s.pad p).raw, run := 0, tickDue := false } ∧
       (∀ q : Pin, q ≠ p → t.pad q = s.pad q) ∧
       (∀ d : Client, t.queue d =
        if ∃ w ∈ s.watches, w.client = d ∧ w.pin = p ∧ (w.edges = .both ∨
            w.edges = (if (s.pad p).raw = .high then EdgeSel.rise else .fall)) then
          (s.queue d).place (.edge p (s.pad p).raw)
        else s.queue d) ∧
       (∀ k : Chan, t.channel k =
        (let g : Edge := if (s.pad p).raw = .high then .rise else .fall
         if (s.channel k).state = .armed ∧ (s.channel k).trigger = some (p, g) then
           { s.channel k with triggerDue := true }
         else if (s.channel k).state = .running ∧ (s.channel k).settings.clock = .pin p g then
           { s.channel k with inputsDue := (s.channel k).inputsDue + 1 }
         else s.channel k)) ∧
       SamePool s t ∧ t.policies = s.policies ∧ t.watches = s.watches ∧
       t.sessions = s.sessions ∧ SamePorts s t ∧ SameDevice s t) ∧
  (∀ (s : State) (p : Pin) (l : Level),
     s.Lawful →
     s.inReset = false →
     s.edgeOwed = none →
     (s.pad p).tickDue = true →
     (s.pad p).filtered ≠ l →
     ∃ t, exec (Instr.filteredEdge p) s = .next t ∧
       t.pad p = { s.pad p with filtered := l, run := 0, tickDue := false } ∧
       (∀ q : Pin, q ≠ p → t.pad q = s.pad q) ∧
       (∀ d : Client, t.queue d =
        if ∃ w ∈ s.watches, w.client = d ∧ w.pin = p ∧ (w.edges = .both ∨
            w.edges = (if l = .high then EdgeSel.rise else .fall)) then
          (s.queue d).place (.edge p l)
        else s.queue d) ∧
       (∀ k : Chan, t.channel k =
        (let g : Edge := if l = .high then .rise else .fall
         if (s.channel k).state = .armed ∧ (s.channel k).trigger = some (p, g) then
           { s.channel k with triggerDue := true }
         else if (s.channel k).state = .running ∧ (s.channel k).settings.clock = .pin p g then
           { s.channel k with inputsDue := (s.channel k).inputsDue + 1 }
         else s.channel k)) ∧
       SamePool s t ∧ t.policies = s.policies ∧ t.watches = s.watches ∧
       t.sessions = s.sessions ∧ SamePorts s t ∧ SameDevice s t) ∧
  (∀ (s : State) (k : Chan) (p : Pin) (g : Edge) (l : Level),
     s.Lawful →
     s.inReset = false →
     s.edgeOwed = none →
     (∀ q : Pin, q ≠ p → s.lags q = false) →
     (s.lags p = true ∨ (s.pad p).tickDue = true) →
     (s.pad p).filtered ≠ l →
     g = (if l = .high then Edge.rise else .fall) →
     (s.channel k).state = .armed →
     (s.channel k).trigger = some (p, g) →
     (s.channel k).triggerDue = false →
     ∃ t, exec (Instr.triggerEdge k) s = .next t ∧
       t.edgeOwed = some (p, l) ∧
       (∀ j : Chan, t.channel j =
        if j = k then (s.channel j).fresh
        else if (s.channel j).state = .armed ∧ (s.channel j).trigger = some (p, g) then
          { s.channel j with triggerDue := true }
        else if (s.channel j).state = .running ∧ (s.channel j).settings.clock = .pin p g then
          { s.channel j with inputsDue := (s.channel j).inputsDue + 1 }
        else s.channel j) ∧
       (∀ d : Client, t.queue d =
        if s.relies d k = true then (s.queue d).place (.sourceChange k .running true) else s.queue d) ∧
       (∀ q : Pin, t.pad q = ((if q = p then
          { s.pad p with filtered := l, run := 0, tickDue := false } else s.pad q : Pad)).take (t.resolve q)) ∧
       SamePool s t ∧ t.policies = s.policies ∧ t.watches = s.watches ∧ t.sessions = s.sessions ∧ SamePorts s t ∧
       (∃ u, exec (.filteredEdge p) t = .next u ∧ u.edgeOwed = none ∧
        (∀ d : Client, u.queue d =
          if ∃ w ∈ s.watches, w.client = d ∧ w.pin = p ∧ (w.edges = .both ∨
              w.edges = (if l = .high then EdgeSel.rise else .fall)) then
            (t.queue d).place (.edge p l)
          else t.queue d) ∧
        u.channels = t.channels ∧ u.pads = t.pads ∧ SamePool t u ∧ u.policies = t.policies ∧
        u.watches = t.watches ∧ u.sessions = t.sessions ∧ SamePorts t u))

/-- The millisecond tick (R26, R42, R125, R127). That what a tick brings about is marked due and taken by its own command, and that the filters sample before any expiry of the tick is taken, is the model's choice (log entry 6). -/
def Obligations.MillisecondTickCounts : Prop :=
  ∀ (s : State) ,
    s.Lawful →
    s.Calm →
    (∀ q ∈ s.claims, q.tickDue = false) →
    (∀ c : Client, (s.session c).tickDue = false) →
    (∀ p : Pin, (s.pad p).tickDue = false) →
    ∃ t, exec (Instr.millisecondTick) s = .next t ∧
      t.claims = s.claims.map (fun q =>
          match q.state, q.holdLeft with
          | .live, some h => if h = 1 then { q with tickDue := true } else { q with holdLeft := some (h - 1) }
          | .live, none => q
          | .pending, _ => q) ∧
      (∀ c : Client, t.session c =
        match (s.session c).state, (s.session c).leaseRemaining, (s.session c).graceRemaining with
        | .opened, some n, _ => if n = 1 then { s.session c with tickDue := true }
            else { s.session c with leaseRemaining := some (n - 1) }
        | .grace, _, some n => if n = 1 then { s.session c with tickDue := true }
            else { s.session c with graceRemaining := some (n - 1) }
        | _, _, _ => s.session c) ∧
      (∀ p : Pin, t.pad p =
        if (s.policy p).filterLen = 0 then s.pad p
        else if (s.pad p).raw = (s.pad p).filtered then { s.pad p with run := 0 }
        else if (s.pad p).run + 1 < (s.policy p).filterLen.val then
          { s.pad p with run := (s.pad p).run + 1 }
        else { s.pad p with tickDue := true }) ∧
      t.claimLists = s.claimLists ∧ t.waitLists = s.waitLists ∧ t.policies = s.policies ∧
      t.channels = s.channels ∧ t.watches = s.watches ∧ t.queues = s.queues ∧
      t.ports = s.ports ∧ SameDevice s t

/-- The hold expiry (R27); it is due once a tick has brought the hold to its end (log entry 6). That a filter of length 0 follows its pin by an event of its own is log entry 16. -/
def Obligations.HoldExpiryRemovesTheClaim : Prop :=
  ∀ (s : State) (c : Client) (p : Pin) (q : Claim),
    s.Lawful →
    s.Calm →
    s.claimAt c p = some q →
    q.state = .live →
    q.tickDue = true →
    ∃ t, exec (Instr.holdExpiry c p) s = .next t ∧
      t.claims = s.claims.filter (fun x => !(x.client = c && x.pin = p)) ∧
      t.claimList p = (s.claimList p).filter (· ≠ c) ∧
      (∀ x : Pin, x ≠ p → t.claimList x = s.claimList x ∧ t.pad x = s.pad x) ∧
      (∀ k : Chan, t.waitList k = (s.waitList k).filter (· ≠ (c, p))) ∧
      t.policies = s.policies ∧ t.pad p = (s.pad p).take (t.resolve p) ∧
      (∀ k : Chan, t.channel k = (s.channel k).settled (t.refsOf k)) ∧
      (∀ d : Client, d ≠ c → t.session d = s.session d) ∧
      t.watches = s.watches ∧ SameDevice s t ∧
      (∀ d : Client, t.queue d =
        if d = c then (s.queue d).place (.claimExpired p) else topNotice s t none d (s.queue d) p) ∧
      t.session c = { s.session c with claimsHeld := (s.session c).claimsHeld - 1 } ∧
      SamePorts s t

/-- The lease expiry (R125); it is due once a tick has brought the lease to its end (log entry 6). -/
def Obligations.LeaseExpiryWarns : Prop :=
  ∀ (s : State) (c : Client),
    s.Calm →
    (s.session c).state = .opened →
    (s.session c).tickDue = true →
    ∃ t, exec (Instr.leaseExpiry c) s = .next t ∧
      t.session c = { s.session c with
          state := .grace, leaseRemaining := none
          graceRemaining := some (10 * ((s.session c).lease.getD 0).toNat), tickDue := false } ∧
      (∀ d : Client, d ≠ c → t.session d = s.session d ∧ t.queue d = s.queue d) ∧
      t.queue c = (s.queue c).place .leaseWarning ∧
      SamePool s t ∧ SamePins s t ∧ t.channels = s.channels ∧ t.watches = s.watches ∧
      SamePorts s t ∧ SameDevice s t

/-- The model's choice (log entry 6): an expiry command that comes before its tick is the tick with that expiry taken first of it. -/
def Obligations.ExpiriesBringTheirTick : Prop :=
  ∀ (s m : State), s.Calm → exec .millisecondTick s = .next m →
    (∀ (c : Client) (p : Pin), s.holdDue c p = false → m.holdDue c p = true → m.Calm →
      exec (.holdExpiry c p) s = exec (.holdExpiry c p) m) ∧
    (∀ c : Client, s.leaseDue c = false → m.leaseDue c = true → m.Calm →
      exec (.leaseExpiry c) s = exec (.leaseExpiry c) m) ∧
    (∀ c : Client, s.graceDue c = false → m.graceDue c = true → m.Calm →
      exec (.graceExpiry c) s = exec (.graceExpiry c) m) ∧
    ∀ p : Pin, (s.pad p).tickDue = false → (m.pad p).tickDue = true → m.Calm →
      exec (.filteredEdge p) s = exec (.filteredEdge p) m

/-- The device reset events (R134, R135, R38, R172) and the end of a reset (R45). What a power-on reset that ends under a low NRST does is log entry 8. -/
def Obligations.DeviceResetsAndTheirEnds : Prop :=
  (∀ (s : State) ,
     ∃ t, exec (Instr.powerOn) s = .next t ∧
       t.BlocksReset .powerOn ∧
       t.por = true ∧ t.nrstLow = s.nrstLow ∧
       (∀ p : Pin, PadReset s t p) ∧
       (∀ c : Client, PortReset s t c) ∧
       t.pending = s.pending) ∧
  (∀ (s : State) ,
     s.por = false →
     s.nrstLow = false →
     ∃ t, exec (Instr.nrst) s = .next t ∧
       t.BlocksReset .resetPin ∧
       t.por = false ∧ t.nrstLow = true ∧
       (∀ p : Pin, PadReset s t p) ∧
       (∀ c : Client, PortReset s t c) ∧
       t.pending = s.pending) ∧
  (∀ (s : State) ,
     s.por = true →
     ∃ t, exec (Instr.nrst) s = .next t ∧
       t = { s with nrstLow := true }) ∧
  (∀ (s : State) ,
     s.por = true →
     s.nrstLow = false →
     ∃ t, exec (Instr.powerOnResetEnd) s = .next t ∧
       (∀ p : Pin, t.pad p = { s.pad p with filtered := (s.pad p).raw, run := 0, tickDue := false }) ∧
       SamePool s t ∧ t.policies = s.policies ∧ t.channels = s.channels ∧ t.watches = s.watches ∧
       t.queues = s.queues ∧ t.sessions = s.sessions ∧ t.ports = s.ports ∧
       t.pending = s.pending ∧ t.resetCause = s.resetCause ∧ t.edgeOwed = s.edgeOwed ∧
       t.por = false ∧ t.nrstLow = false) ∧
  (∀ (s : State) ,
     s.por = false →
     s.nrstLow = true →
     ∃ t, exec (Instr.resetEnd) s = .next t ∧
       (∀ p : Pin, t.pad p = { s.pad p with filtered := (s.pad p).raw, run := 0, tickDue := false }) ∧
       SamePool s t ∧ t.policies = s.policies ∧ t.channels = s.channels ∧ t.watches = s.watches ∧
       t.queues = s.queues ∧ t.sessions = s.sessions ∧ t.ports = s.ports ∧
       t.pending = s.pending ∧ t.resetCause = s.resetCause ∧ t.edgeOwed = s.edgeOwed ∧
       t.por = false ∧ t.nrstLow = false) ∧
  (∀ (s : State) ,
     s.por = true →
     s.nrstLow = true →
     ∃ t, exec (Instr.resetEnd) s = .next t ∧
       t = { s with nrstLow := false } ∧ exec .powerOnResetEnd s = .next { s with por := false })

/-- The model's choice (log entries 1, 5, 6, 7 and 17): a command whose event is not due or not possible changes nothing. -/
def Obligations.CommandsWithoutTheirEventChangeNothing : Prop :=
  (∀ (s : State) (c : Client) (cmd : Command), s.Calm →
    ((s.port c).state ≠ .held ∨ s.mayTake c = false ∨
      ((s.port c).held.all fun f => f.command ≠ commandCode cmd) = true) →
    exec (requestAt c cmd) s = .next s) ∧
  (∀ (s : State) (c : Client), s.Calm →
    ((s.port c).state ≠ .held ∨ s.mayTake c = false ∨
      ((s.port c).held.all fun f => allCommands.any fun cmd => f.command = commandCode cmd) = true) →
    exec (.unknownCommand c) s = .next s) ∧
  (∀ (s : State) (k : Chan), s.Calm →
    ((s.channel k).state ≠ .armed ∨ ((s.channel k).triggerDue = false ∧
      ((s.channel k).trigger.all fun x => !(s.pad x.1).tickDue) = true)) →
    exec (.triggerEdge k) s = .next s) ∧
  (∀ (s : State) (k : Chan), s.Calm → (s.channel k).inputsDue = 0 →
    ((∃ j : Chan, (s.channel k).settings.clock = .chain j) ∨
      ∃ (p : Pin) (g : Edge), (s.channel k).settings.clock = .pin p g ∧ (s.pad p).tickDue = false) →
    exec (.clockInput k) s = .next s ∧ exec (.channelTick k) s = .next s ∧
      exec (.periodBoundary k) s = .next s) ∧
  (∀ (s m : State), s.Calm → exec .millisecondTick s = .next m →
    (∀ (c : Client) (p : Pin), s.holdDue c p = false → m.holdDue c p = false →
      exec (.holdExpiry c p) s = .next s) ∧
    (∀ c : Client, s.leaseDue c = false → m.leaseDue c = false → exec (.leaseExpiry c) s = .next s) ∧
    (∀ c : Client, s.graceDue c = false → m.graceDue c = false → exec (.graceExpiry c) s = .next s) ∧
    ∀ p : Pin, (s.pad p).tickDue = false → (m.pad p).tickDue = false → exec (.filteredEdge p) s = .next s) ∧
  (∀ (s : State) (c : Client) (b : Byte), s.Calm → (s.port c).transaction = .none →
    exec (.write c (.byte b)) s = .next s ∧ exec (.read c (.byte b)) s = .next s ∧
    exec (.write c .deselect) s = .next s ∧ exec (.read c .deselect) s = .next s) ∧
  (∀ (s : State) (c : Client) (bs : List Byte), s.Calm → (s.port c).transaction ≠ .none →
    exec (.write c .select) s = .next s ∧ exec (.read c .select) s = .next s ∧
    exec (.write c (.whole bs)) s = .next s ∧ exec (.read c (.whole bs)) s = .next s) ∧
  ∀ s : State, (s.nrstLow = true → exec .nrst s = .next s) ∧ (s.nrstLow = false → exec .resetEnd s = .next s) ∧
    (s.por = false → exec .powerOnResetEnd s = .next s)

/-- The checks of R16 in order. -/
def Obligations.ModifyChecksInOrder : Prop :=
  (∀ (s : State) (c : Client) (tag : Byte) (p : Pin) (r : Option Rank) (src : Option Source) (hold : Option Word) (wait : Option Chan),
     s.Asks c (frameOf .modify tag (modifyPayload p r src hold wait)) →
     s.InSession c →
     (r.isSome ∨ src.isSome) →
     r ≠ some 0 →
     (src.all Source.formed) = true →
     hold ≠ some 0 →
     ((s.claimAt c p).all fun q => q.state = .pending ∨ (r.any fun x => (s.policy p).ceilings[c.val] < x) ∨
        ∃ k : Chan, (src.any (·.names k) = true ∨ wait = some k) ∧ (s.channel k).state = .free) = true →
     ∃ t, exec (Instr.modify c) s = .next t ∧
       OnlyAnswered s t c tag
        (if s.claimAt c p = none then .noClaim
         else if ((s.claimAt c p).any fun q => q.state = .pending) = true then .state
         else if (r.any fun x => (s.policy p).ceilings[c.val] < x) = true then .denied
         else .sourceFree) []) ∧
  (∀ (s : State) (c : Client) (tag : Byte) (bp : Byte) (br : Option Byte) (src : Option (Byte × Byte)) (hold : Option Word) (wait : Option Byte),
     s.Asks c (frameOf .modify tag ([bp, presenceByte [br.isSome, src.isSome, hold.isSome, wait.isSome]] ++ br.toList ++
        (src.map fun x => [x.1, x.2]).getD [] ++ (hold.map wordBytes).getD [] ++ wait.toList)) →
     s.InSession c →
     (15 < bp.toNat ∨ (br = none ∧ src = none) ∨ (br.any fun b => b = 0 ∨ 7 < b.toNat) ∨
        (∃ x : Byte × Byte, src = some x ∧
          ∀ y : Source, sourceBytes y = [x.1, x.2] → y.formed = false) ∨
        hold = some 0 ∨ (wait.any fun b => 5 < b.toNat)) →
     ∃ t, exec (Instr.modify c) s = .next t ∧
       OnlyAnswered s t c tag .badArg [])
end

