-- ==== Sys2Proof/Laws/State.lean ====
section
/-! SUPPORT. The small lemmas of the state's tables: what each setter and each rewriting of a table leaves in
every field and at every entry. Later proofs cite these and never unfold a setter. -/

namespace Sys2Proof.Machine

open Sys2Proof

/-! ## setPort -/

theorem State.port_setPort (s : State) (a b : Client) (v : Port) :
    (s.setPort a v).port b = if a = b then v else s.port b := by
  simp [State.port, State.setPort, Vector.getElem_set, Fin.ext_iff]

@[simp] theorem State.port_setPort_self (s : State) (a : Client) (v : Port) : (s.setPort a v).port a = v := by
  simp [State.port_setPort]

theorem State.port_setPort_ne (s : State) {a b : Client} (v : Port) (h : b ≠ a) :
    (s.setPort a v).port b = s.port b := by
  simp [State.port_setPort, Ne.symm h]

@[simp] theorem State.setPort_port (s : State) (a : Client) : s.setPort a (s.port a) = s := by
  simp [State.setPort, State.port]

@[simp] theorem State.setPort_setPort (s : State) (a : Client) (v w : Port) :
    (s.setPort a v).setPort a w = s.setPort a w := by
  simp [State.setPort, Vector.set_set]

@[simp] theorem State.setPort_pending (s : State) (a : Client) (v : Port) : (s.setPort a v).pending = s.pending := rfl
@[simp] theorem State.setPort_sessions (s : State) (a : Client) (v : Port) : (s.setPort a v).sessions = s.sessions := rfl
@[simp] theorem State.setPort_resetCause (s : State) (a : Client) (v : Port) : (s.setPort a v).resetCause = s.resetCause := rfl
@[simp] theorem State.setPort_por (s : State) (a : Client) (v : Port) : (s.setPort a v).por = s.por := rfl
@[simp] theorem State.setPort_nrstLow (s : State) (a : Client) (v : Port) : (s.setPort a v).nrstLow = s.nrstLow := rfl
@[simp] theorem State.setPort_claims (s : State) (a : Client) (v : Port) : (s.setPort a v).claims = s.claims := rfl
@[simp] theorem State.setPort_claimLists (s : State) (a : Client) (v : Port) : (s.setPort a v).claimLists = s.claimLists := rfl
@[simp] theorem State.setPort_waitLists (s : State) (a : Client) (v : Port) : (s.setPort a v).waitLists = s.waitLists := rfl
@[simp] theorem State.setPort_policies (s : State) (a : Client) (v : Port) : (s.setPort a v).policies = s.policies := rfl
@[simp] theorem State.setPort_pads (s : State) (a : Client) (v : Port) : (s.setPort a v).pads = s.pads := rfl
@[simp] theorem State.setPort_channels (s : State) (a : Client) (v : Port) : (s.setPort a v).channels = s.channels := rfl
@[simp] theorem State.setPort_watches (s : State) (a : Client) (v : Port) : (s.setPort a v).watches = s.watches := rfl
@[simp] theorem State.setPort_queues (s : State) (a : Client) (v : Port) : (s.setPort a v).queues = s.queues := rfl
@[simp] theorem State.setPort_edgeOwed (s : State) (a : Client) (v : Port) : (s.setPort a v).edgeOwed = s.edgeOwed := rfl
@[simp] theorem State.session_setPort (s : State) (a : Client) (v : Port) (b : Client) :
    (s.setPort a v).session b = s.session b := rfl
@[simp] theorem State.claimList_setPort (s : State) (a : Client) (v : Port) (b : Pin) :
    (s.setPort a v).claimList b = s.claimList b := rfl
@[simp] theorem State.waitList_setPort (s : State) (a : Client) (v : Port) (b : Chan) :
    (s.setPort a v).waitList b = s.waitList b := rfl
@[simp] theorem State.policy_setPort (s : State) (a : Client) (v : Port) (b : Pin) :
    (s.setPort a v).policy b = s.policy b := rfl
@[simp] theorem State.pad_setPort (s : State) (a : Client) (v : Port) (b : Pin) :
    (s.setPort a v).pad b = s.pad b := rfl
@[simp] theorem State.channel_setPort (s : State) (a : Client) (v : Port) (b : Chan) :
    (s.setPort a v).channel b = s.channel b := rfl
@[simp] theorem State.queue_setPort (s : State) (a : Client) (v : Port) (b : Client) :
    (s.setPort a v).queue b = s.queue b := rfl

/-! ## setSession -/

theorem State.session_setSession (s : State) (a b : Client) (v : Session) :
    (s.setSession a v).session b = if a = b then v else s.session b := by
  simp [State.session, State.setSession, Vector.getElem_set, Fin.ext_iff]

@[simp] theorem State.session_setSession_self (s : State) (a : Client) (v : Session) : (s.setSession a v).session a = v := by
  simp [State.session_setSession]

theorem State.session_setSession_ne (s : State) {a b : Client} (v : Session) (h : b ≠ a) :
    (s.setSession a v).session b = s.session b := by
  simp [State.session_setSession, Ne.symm h]

@[simp] theorem State.setSession_session (s : State) (a : Client) : s.setSession a (s.session a) = s := by
  simp [State.setSession, State.session]

@[simp] theorem State.setSession_setSession (s : State) (a : Client) (v w : Session) :
    (s.setSession a v).setSession a w = s.setSession a w := by
  simp [State.setSession, Vector.set_set]

@[simp] theorem State.setSession_pending (s : State) (a : Client) (v : Session) : (s.setSession a v).pending = s.pending := rfl
@[simp] theorem State.setSession_ports (s : State) (a : Client) (v : Session) : (s.setSession a v).ports = s.ports := rfl
@[simp] theorem State.setSession_resetCause (s : State) (a : Client) (v : Session) : (s.setSession a v).resetCause = s.resetCause := rfl
@[simp] theorem State.setSession_por (s : State) (a : Client) (v : Session) : (s.setSession a v).por = s.por := rfl
@[simp] theorem State.setSession_nrstLow (s : State) (a : Client) (v : Session) : (s.setSession a v).nrstLow = s.nrstLow := rfl
@[simp] theorem State.setSession_claims (s : State) (a : Client) (v : Session) : (s.setSession a v).claims = s.claims := rfl
@[simp] theorem State.setSession_claimLists (s : State) (a : Client) (v : Session) : (s.setSession a v).claimLists = s.claimLists := rfl
@[simp] theorem State.setSession_waitLists (s : State) (a : Client) (v : Session) : (s.setSession a v).waitLists = s.waitLists := rfl
@[simp] theorem State.setSession_policies (s : State) (a : Client) (v : Session) : (s.setSession a v).policies = s.policies := rfl
@[simp] theorem State.setSession_pads (s : State) (a : Client) (v : Session) : (s.setSession a v).pads = s.pads := rfl
@[simp] theorem State.setSession_channels (s : State) (a : Client) (v : Session) : (s.setSession a v).channels = s.channels := rfl
@[simp] theorem State.setSession_watches (s : State) (a : Client) (v : Session) : (s.setSession a v).watches = s.watches := rfl
@[simp] theorem State.setSession_queues (s : State) (a : Client) (v : Session) : (s.setSession a v).queues = s.queues := rfl
@[simp] theorem State.setSession_edgeOwed (s : State) (a : Client) (v : Session) : (s.setSession a v).edgeOwed = s.edgeOwed := rfl
@[simp] theorem State.port_setSession (s : State) (a : Client) (v : Session) (b : Client) :
    (s.setSession a v).port b = s.port b := rfl
@[simp] theorem State.claimList_setSession (s : State) (a : Client) (v : Session) (b : Pin) :
    (s.setSession a v).claimList b = s.claimList b := rfl
@[simp] theorem State.waitList_setSession (s : State) (a : Client) (v : Session) (b : Chan) :
    (s.setSession a v).waitList b = s.waitList b := rfl
@[simp] theorem State.policy_setSession (s : State) (a : Client) (v : Session) (b : Pin) :
    (s.setSession a v).policy b = s.policy b := rfl
@[simp] theorem State.pad_setSession (s : State) (a : Client) (v : Session) (b : Pin) :
    (s.setSession a v).pad b = s.pad b := rfl
@[simp] theorem State.channel_setSession (s : State) (a : Client) (v : Session) (b : Chan) :
    (s.setSession a v).channel b = s.channel b := rfl
@[simp] theorem State.queue_setSession (s : State) (a : Client) (v : Session) (b : Client) :
    (s.setSession a v).queue b = s.queue b := rfl

/-! ## setClaimList -/

theorem State.claimList_setClaimList (s : State) (a b : Pin) (v : List Client) :
    (s.setClaimList a v).claimList b = if a = b then v else s.claimList b := by
  simp [State.claimList, State.setClaimList, Vector.getElem_set, Fin.ext_iff]

@[simp] theorem State.claimList_setClaimList_self (s : State) (a : Pin) (v : List Client) : (s.setClaimList a v).claimList a = v := by
  simp [State.claimList_setClaimList]

theorem State.claimList_setClaimList_ne (s : State) {a b : Pin} (v : List Client) (h : b ≠ a) :
    (s.setClaimList a v).claimList b = s.claimList b := by
  simp [State.claimList_setClaimList, Ne.symm h]

@[simp] theorem State.setClaimList_claimList (s : State) (a : Pin) : s.setClaimList a (s.claimList a) = s := by
  simp [State.setClaimList, State.claimList]

@[simp] theorem State.setClaimList_setClaimList (s : State) (a : Pin) (v w : List Client) :
    (s.setClaimList a v).setClaimList a w = s.setClaimList a w := by
  simp [State.setClaimList, Vector.set_set]

@[simp] theorem State.setClaimList_pending (s : State) (a : Pin) (v : List Client) : (s.setClaimList a v).pending = s.pending := rfl
@[simp] theorem State.setClaimList_ports (s : State) (a : Pin) (v : List Client) : (s.setClaimList a v).ports = s.ports := rfl
@[simp] theorem State.setClaimList_sessions (s : State) (a : Pin) (v : List Client) : (s.setClaimList a v).sessions = s.sessions := rfl
@[simp] theorem State.setClaimList_resetCause (s : State) (a : Pin) (v : List Client) : (s.setClaimList a v).resetCause = s.resetCause := rfl
@[simp] theorem State.setClaimList_por (s : State) (a : Pin) (v : List Client) : (s.setClaimList a v).por = s.por := rfl
@[simp] theorem State.setClaimList_nrstLow (s : State) (a : Pin) (v : List Client) : (s.setClaimList a v).nrstLow = s.nrstLow := rfl
@[simp] theorem State.setClaimList_claims (s : State) (a : Pin) (v : List Client) : (s.setClaimList a v).claims = s.claims := rfl
@[simp] theorem State.setClaimList_waitLists (s : State) (a : Pin) (v : List Client) : (s.setClaimList a v).waitLists = s.waitLists := rfl
@[simp] theorem State.setClaimList_policies (s : State) (a : Pin) (v : List Client) : (s.setClaimList a v).policies = s.policies := rfl
@[simp] theorem State.setClaimList_pads (s : State) (a : Pin) (v : List Client) : (s.setClaimList a v).pads = s.pads := rfl
@[simp] theorem State.setClaimList_channels (s : State) (a : Pin) (v : List Client) : (s.setClaimList a v).channels = s.channels := rfl
@[simp] theorem State.setClaimList_watches (s : State) (a : Pin) (v : List Client) : (s.setClaimList a v).watches = s.watches := rfl
@[simp] theorem State.setClaimList_queues (s : State) (a : Pin) (v : List Client) : (s.setClaimList a v).queues = s.queues := rfl
@[simp] theorem State.setClaimList_edgeOwed (s : State) (a : Pin) (v : List Client) : (s.setClaimList a v).edgeOwed = s.edgeOwed := rfl
@[simp] theorem State.port_setClaimList (s : State) (a : Pin) (v : List Client) (b : Client) :
    (s.setClaimList a v).port b = s.port b := rfl
@[simp] theorem State.session_setClaimList (s : State) (a : Pin) (v : List Client) (b : Client) :
    (s.setClaimList a v).session b = s.session b := rfl
@[simp] theorem State.waitList_setClaimList (s : State) (a : Pin) (v : List Client) (b : Chan) :
    (s.setClaimList a v).waitList b = s.waitList b := rfl
@[simp] theorem State.policy_setClaimList (s : State) (a : Pin) (v : List Client) (b : Pin) :
    (s.setClaimList a v).policy b = s.policy b := rfl
@[simp] theorem State.pad_setClaimList (s : State) (a : Pin) (v : List Client) (b : Pin) :
    (s.setClaimList a v).pad b = s.pad b := rfl
@[simp] theorem State.channel_setClaimList (s : State) (a : Pin) (v : List Client) (b : Chan) :
    (s.setClaimList a v).channel b = s.channel b := rfl
@[simp] theorem State.queue_setClaimList (s : State) (a : Pin) (v : List Client) (b : Client) :
    (s.setClaimList a v).queue b = s.queue b := rfl

/-! ## setWaitList -/

theorem State.waitList_setWaitList (s : State) (a b : Chan) (v : List (Client × Pin)) :
    (s.setWaitList a v).waitList b = if a = b then v else s.waitList b := by
  simp [State.waitList, State.setWaitList, Vector.getElem_set, Fin.ext_iff]

@[simp] theorem State.waitList_setWaitList_self (s : State) (a : Chan) (v : List (Client × Pin)) : (s.setWaitList a v).waitList a = v := by
  simp [State.waitList_setWaitList]

theorem State.waitList_setWaitList_ne (s : State) {a b : Chan} (v : List (Client × Pin)) (h : b ≠ a) :
    (s.setWaitList a v).waitList b = s.waitList b := by
  simp [State.waitList_setWaitList, Ne.symm h]

@[simp] theorem State.setWaitList_waitList (s : State) (a : Chan) : s.setWaitList a (s.waitList a) = s := by
  simp [State.setWaitList, State.waitList]

@[simp] theorem State.setWaitList_setWaitList (s : State) (a : Chan) (v w : List (Client × Pin)) :
    (s.setWaitList a v).setWaitList a w = s.setWaitList a w := by
  simp [State.setWaitList, Vector.set_set]

@[simp] theorem State.setWaitList_pending (s : State) (a : Chan) (v : List (Client × Pin)) : (s.setWaitList a v).pending = s.pending := rfl
@[simp] theorem State.setWaitList_ports (s : State) (a : Chan) (v : List (Client × Pin)) : (s.setWaitList a v).ports = s.ports := rfl
@[simp] theorem State.setWaitList_sessions (s : State) (a : Chan) (v : List (Client × Pin)) : (s.setWaitList a v).sessions = s.sessions := rfl
@[simp] theorem State.setWaitList_resetCause (s : State) (a : Chan) (v : List (Client × Pin)) : (s.setWaitList a v).resetCause = s.resetCause := rfl
@[simp] theorem State.setWaitList_por (s : State) (a : Chan) (v : List (Client × Pin)) : (s.setWaitList a v).por = s.por := rfl
@[simp] theorem State.setWaitList_nrstLow (s : State) (a : Chan) (v : List (Client × Pin)) : (s.setWaitList a v).nrstLow = s.nrstLow := rfl
@[simp] theorem State.setWaitList_claims (s : State) (a : Chan) (v : List (Client × Pin)) : (s.setWaitList a v).claims = s.claims := rfl
@[simp] theorem State.setWaitList_claimLists (s : State) (a : Chan) (v : List (Client × Pin)) : (s.setWaitList a v).claimLists = s.claimLists := rfl
@[simp] theorem State.setWaitList_policies (s : State) (a : Chan) (v : List (Client × Pin)) : (s.setWaitList a v).policies = s.policies := rfl
@[simp] theorem State.setWaitList_pads (s : State) (a : Chan) (v : List (Client × Pin)) : (s.setWaitList a v).pads = s.pads := rfl
@[simp] theorem State.setWaitList_channels (s : State) (a : Chan) (v : List (Client × Pin)) : (s.setWaitList a v).channels = s.channels := rfl
@[simp] theorem State.setWaitList_watches (s : State) (a : Chan) (v : List (Client × Pin)) : (s.setWaitList a v).watches = s.watches := rfl
@[simp] theorem State.setWaitList_queues (s : State) (a : Chan) (v : List (Client × Pin)) : (s.setWaitList a v).queues = s.queues := rfl
@[simp] theorem State.setWaitList_edgeOwed (s : State) (a : Chan) (v : List (Client × Pin)) : (s.setWaitList a v).edgeOwed = s.edgeOwed := rfl
@[simp] theorem State.port_setWaitList (s : State) (a : Chan) (v : List (Client × Pin)) (b : Client) :
    (s.setWaitList a v).port b = s.port b := rfl
@[simp] theorem State.session_setWaitList (s : State) (a : Chan) (v : List (Client × Pin)) (b : Client) :
    (s.setWaitList a v).session b = s.session b := rfl
@[simp] theorem State.claimList_setWaitList (s : State) (a : Chan) (v : List (Client × Pin)) (b : Pin) :
    (s.setWaitList a v).claimList b = s.claimList b := rfl
@[simp] theorem State.policy_setWaitList (s : State) (a : Chan) (v : List (Client × Pin)) (b : Pin) :
    (s.setWaitList a v).policy b = s.policy b := rfl
@[simp] theorem State.pad_setWaitList (s : State) (a : Chan) (v : List (Client × Pin)) (b : Pin) :
    (s.setWaitList a v).pad b = s.pad b := rfl
@[simp] theorem State.channel_setWaitList (s : State) (a : Chan) (v : List (Client × Pin)) (b : Chan) :
    (s.setWaitList a v).channel b = s.channel b := rfl
@[simp] theorem State.queue_setWaitList (s : State) (a : Chan) (v : List (Client × Pin)) (b : Client) :
    (s.setWaitList a v).queue b = s.queue b := rfl

/-! ## setPolicy -/

theorem State.policy_setPolicy (s : State) (a b : Pin) (v : Policy) :
    (s.setPolicy a v).policy b = if a = b then v else s.policy b := by
  simp [State.policy, State.setPolicy, Vector.getElem_set, Fin.ext_iff]

@[simp] theorem State.policy_setPolicy_self (s : State) (a : Pin) (v : Policy) : (s.setPolicy a v).policy a = v := by
  simp [State.policy_setPolicy]

theorem State.policy_setPolicy_ne (s : State) {a b : Pin} (v : Policy) (h : b ≠ a) :
    (s.setPolicy a v).policy b = s.policy b := by
  simp [State.policy_setPolicy, Ne.symm h]

@[simp] theorem State.setPolicy_policy (s : State) (a : Pin) : s.setPolicy a (s.policy a) = s := by
  simp [State.setPolicy, State.policy]

@[simp] theorem State.setPolicy_setPolicy (s : State) (a : Pin) (v w : Policy) :
    (s.setPolicy a v).setPolicy a w = s.setPolicy a w := by
  simp [State.setPolicy, Vector.set_set]

@[simp] theorem State.setPolicy_pending (s : State) (a : Pin) (v : Policy) : (s.setPolicy a v).pending = s.pending := rfl
@[simp] theorem State.setPolicy_ports (s : State) (a : Pin) (v : Policy) : (s.setPolicy a v).ports = s.ports := rfl
@[simp] theorem State.setPolicy_sessions (s : State) (a : Pin) (v : Policy) : (s.setPolicy a v).sessions = s.sessions := rfl
@[simp] theorem State.setPolicy_resetCause (s : State) (a : Pin) (v : Policy) : (s.setPolicy a v).resetCause = s.resetCause := rfl
@[simp] theorem State.setPolicy_por (s : State) (a : Pin) (v : Policy) : (s.setPolicy a v).por = s.por := rfl
@[simp] theorem State.setPolicy_nrstLow (s : State) (a : Pin) (v : Policy) : (s.setPolicy a v).nrstLow = s.nrstLow := rfl
@[simp] theorem State.setPolicy_claims (s : State) (a : Pin) (v : Policy) : (s.setPolicy a v).claims = s.claims := rfl
@[simp] theorem State.setPolicy_claimLists (s : State) (a : Pin) (v : Policy) : (s.setPolicy a v).claimLists = s.claimLists := rfl
@[simp] theorem State.setPolicy_waitLists (s : State) (a : Pin) (v : Policy) : (s.setPolicy a v).waitLists = s.waitLists := rfl
@[simp] theorem State.setPolicy_pads (s : State) (a : Pin) (v : Policy) : (s.setPolicy a v).pads = s.pads := rfl
@[simp] theorem State.setPolicy_channels (s : State) (a : Pin) (v : Policy) : (s.setPolicy a v).channels = s.channels := rfl
@[simp] theorem State.setPolicy_watches (s : State) (a : Pin) (v : Policy) : (s.setPolicy a v).watches = s.watches := rfl
@[simp] theorem State.setPolicy_queues (s : State) (a : Pin) (v : Policy) : (s.setPolicy a v).queues = s.queues := rfl
@[simp] theorem State.setPolicy_edgeOwed (s : State) (a : Pin) (v : Policy) : (s.setPolicy a v).edgeOwed = s.edgeOwed := rfl
@[simp] theorem State.port_setPolicy (s : State) (a : Pin) (v : Policy) (b : Client) :
    (s.setPolicy a v).port b = s.port b := rfl
@[simp] theorem State.session_setPolicy (s : State) (a : Pin) (v : Policy) (b : Client) :
    (s.setPolicy a v).session b = s.session b := rfl
@[simp] theorem State.claimList_setPolicy (s : State) (a : Pin) (v : Policy) (b : Pin) :
    (s.setPolicy a v).claimList b = s.claimList b := rfl
@[simp] theorem State.waitList_setPolicy (s : State) (a : Pin) (v : Policy) (b : Chan) :
    (s.setPolicy a v).waitList b = s.waitList b := rfl
@[simp] theorem State.pad_setPolicy (s : State) (a : Pin) (v : Policy) (b : Pin) :
    (s.setPolicy a v).pad b = s.pad b := rfl
@[simp] theorem State.channel_setPolicy (s : State) (a : Pin) (v : Policy) (b : Chan) :
    (s.setPolicy a v).channel b = s.channel b := rfl
@[simp] theorem State.queue_setPolicy (s : State) (a : Pin) (v : Policy) (b : Client) :
    (s.setPolicy a v).queue b = s.queue b := rfl

/-! ## setPad -/

theorem State.pad_setPad (s : State) (a b : Pin) (v : Pad) :
    (s.setPad a v).pad b = if a = b then v else s.pad b := by
  simp [State.pad, State.setPad, Vector.getElem_set, Fin.ext_iff]

@[simp] theorem State.pad_setPad_self (s : State) (a : Pin) (v : Pad) : (s.setPad a v).pad a = v := by
  simp [State.pad_setPad]

theorem State.pad_setPad_ne (s : State) {a b : Pin} (v : Pad) (h : b ≠ a) :
    (s.setPad a v).pad b = s.pad b := by
  simp [State.pad_setPad, Ne.symm h]

@[simp] theorem State.setPad_pad (s : State) (a : Pin) : s.setPad a (s.pad a) = s := by
  simp [State.setPad, State.pad]

@[simp] theorem State.setPad_setPad (s : State) (a : Pin) (v w : Pad) :
    (s.setPad a v).setPad a w = s.setPad a w := by
  simp [State.setPad, Vector.set_set]

@[simp] theorem State.setPad_pending (s : State) (a : Pin) (v : Pad) : (s.setPad a v).pending = s.pending := rfl
@[simp] theorem State.setPad_ports (s : State) (a : Pin) (v : Pad) : (s.setPad a v).ports = s.ports := rfl
@[simp] theorem State.setPad_sessions (s : State) (a : Pin) (v : Pad) : (s.setPad a v).sessions = s.sessions := rfl
@[simp] theorem State.setPad_resetCause (s : State) (a : Pin) (v : Pad) : (s.setPad a v).resetCause = s.resetCause := rfl
@[simp] theorem State.setPad_por (s : State) (a : Pin) (v : Pad) : (s.setPad a v).por = s.por := rfl
@[simp] theorem State.setPad_nrstLow (s : State) (a : Pin) (v : Pad) : (s.setPad a v).nrstLow = s.nrstLow := rfl
@[simp] theorem State.setPad_claims (s : State) (a : Pin) (v : Pad) : (s.setPad a v).claims = s.claims := rfl
@[simp] theorem State.setPad_claimLists (s : State) (a : Pin) (v : Pad) : (s.setPad a v).claimLists = s.claimLists := rfl
@[simp] theorem State.setPad_waitLists (s : State) (a : Pin) (v : Pad) : (s.setPad a v).waitLists = s.waitLists := rfl
@[simp] theorem State.setPad_policies (s : State) (a : Pin) (v : Pad) : (s.setPad a v).policies = s.policies := rfl
@[simp] theorem State.setPad_channels (s : State) (a : Pin) (v : Pad) : (s.setPad a v).channels = s.channels := rfl
@[simp] theorem State.setPad_watches (s : State) (a : Pin) (v : Pad) : (s.setPad a v).watches = s.watches := rfl
@[simp] theorem State.setPad_queues (s : State) (a : Pin) (v : Pad) : (s.setPad a v).queues = s.queues := rfl
@[simp] theorem State.setPad_edgeOwed (s : State) (a : Pin) (v : Pad) : (s.setPad a v).edgeOwed = s.edgeOwed := rfl
@[simp] theorem State.port_setPad (s : State) (a : Pin) (v : Pad) (b : Client) :
    (s.setPad a v).port b = s.port b := rfl
@[simp] theorem State.session_setPad (s : State) (a : Pin) (v : Pad) (b : Client) :
    (s.setPad a v).session b = s.session b := rfl
@[simp] theorem State.claimList_setPad (s : State) (a : Pin) (v : Pad) (b : Pin) :
    (s.setPad a v).claimList b = s.claimList b := rfl
@[simp] theorem State.waitList_setPad (s : State) (a : Pin) (v : Pad) (b : Chan) :
    (s.setPad a v).waitList b = s.waitList b := rfl
@[simp] theorem State.policy_setPad (s : State) (a : Pin) (v : Pad) (b : Pin) :
    (s.setPad a v).policy b = s.policy b := rfl
@[simp] theorem State.channel_setPad (s : State) (a : Pin) (v : Pad) (b : Chan) :
    (s.setPad a v).channel b = s.channel b := rfl
@[simp] theorem State.queue_setPad (s : State) (a : Pin) (v : Pad) (b : Client) :
    (s.setPad a v).queue b = s.queue b := rfl

/-! ## setChannel -/

theorem State.channel_setChannel (s : State) (a b : Chan) (v : Channel) :
    (s.setChannel a v).channel b = if a = b then v else s.channel b := by
  simp [State.channel, State.setChannel, Vector.getElem_set, Fin.ext_iff]

@[simp] theorem State.channel_setChannel_self (s : State) (a : Chan) (v : Channel) : (s.setChannel a v).channel a = v := by
  simp [State.channel_setChannel]

theorem State.channel_setChannel_ne (s : State) {a b : Chan} (v : Channel) (h : b ≠ a) :
    (s.setChannel a v).channel b = s.channel b := by
  simp [State.channel_setChannel, Ne.symm h]

@[simp] theorem State.setChannel_channel (s : State) (a : Chan) : s.setChannel a (s.channel a) = s := by
  simp [State.setChannel, State.channel]

@[simp] theorem State.setChannel_setChannel (s : State) (a : Chan) (v w : Channel) :
    (s.setChannel a v).setChannel a w = s.setChannel a w := by
  simp [State.setChannel, Vector.set_set]

@[simp] theorem State.setChannel_pending (s : State) (a : Chan) (v : Channel) : (s.setChannel a v).pending = s.pending := rfl
@[simp] theorem State.setChannel_ports (s : State) (a : Chan) (v : Channel) : (s.setChannel a v).ports = s.ports := rfl
@[simp] theorem State.setChannel_sessions (s : State) (a : Chan) (v : Channel) : (s.setChannel a v).sessions = s.sessions := rfl
@[simp] theorem State.setChannel_resetCause (s : State) (a : Chan) (v : Channel) : (s.setChannel a v).resetCause = s.resetCause := rfl
@[simp] theorem State.setChannel_por (s : State) (a : Chan) (v : Channel) : (s.setChannel a v).por = s.por := rfl
@[simp] theorem State.setChannel_nrstLow (s : State) (a : Chan) (v : Channel) : (s.setChannel a v).nrstLow = s.nrstLow := rfl
@[simp] theorem State.setChannel_claims (s : State) (a : Chan) (v : Channel) : (s.setChannel a v).claims = s.claims := rfl
@[simp] theorem State.setChannel_claimLists (s : State) (a : Chan) (v : Channel) : (s.setChannel a v).claimLists = s.claimLists := rfl
@[simp] theorem State.setChannel_waitLists (s : State) (a : Chan) (v : Channel) : (s.setChannel a v).waitLists = s.waitLists := rfl
@[simp] theorem State.setChannel_policies (s : State) (a : Chan) (v : Channel) : (s.setChannel a v).policies = s.policies := rfl
@[simp] theorem State.setChannel_pads (s : State) (a : Chan) (v : Channel) : (s.setChannel a v).pads = s.pads := rfl
@[simp] theorem State.setChannel_watches (s : State) (a : Chan) (v : Channel) : (s.setChannel a v).watches = s.watches := rfl
@[simp] theorem State.setChannel_queues (s : State) (a : Chan) (v : Channel) : (s.setChannel a v).queues = s.queues := rfl
@[simp] theorem State.setChannel_edgeOwed (s : State) (a : Chan) (v : Channel) : (s.setChannel a v).edgeOwed = s.edgeOwed := rfl
@[simp] theorem State.port_setChannel (s : State) (a : Chan) (v : Channel) (b : Client) :
    (s.setChannel a v).port b = s.port b := rfl
@[simp] theorem State.session_setChannel (s : State) (a : Chan) (v : Channel) (b : Client) :
    (s.setChannel a v).session b = s.session b := rfl
@[simp] theorem State.claimList_setChannel (s : State) (a : Chan) (v : Channel) (b : Pin) :
    (s.setChannel a v).claimList b = s.claimList b := rfl
@[simp] theorem State.waitList_setChannel (s : State) (a : Chan) (v : Channel) (b : Chan) :
    (s.setChannel a v).waitList b = s.waitList b := rfl
@[simp] theorem State.policy_setChannel (s : State) (a : Chan) (v : Channel) (b : Pin) :
    (s.setChannel a v).policy b = s.policy b := rfl
@[simp] theorem State.pad_setChannel (s : State) (a : Chan) (v : Channel) (b : Pin) :
    (s.setChannel a v).pad b = s.pad b := rfl
@[simp] theorem State.queue_setChannel (s : State) (a : Chan) (v : Channel) (b : Client) :
    (s.setChannel a v).queue b = s.queue b := rfl

/-! ## setQueue -/

theorem State.queue_setQueue (s : State) (a b : Client) (v : Queue) :
    (s.setQueue a v).queue b = if a = b then v else s.queue b := by
  simp [State.queue, State.setQueue, Vector.getElem_set, Fin.ext_iff]

@[simp] theorem State.queue_setQueue_self (s : State) (a : Client) (v : Queue) : (s.setQueue a v).queue a = v := by
  simp [State.queue_setQueue]

theorem State.queue_setQueue_ne (s : State) {a b : Client} (v : Queue) (h : b ≠ a) :
    (s.setQueue a v).queue b = s.queue b := by
  simp [State.queue_setQueue, Ne.symm h]

@[simp] theorem State.setQueue_queue (s : State) (a : Client) : s.setQueue a (s.queue a) = s := by
  simp [State.setQueue, State.queue]

@[simp] theorem State.setQueue_setQueue (s : State) (a : Client) (v w : Queue) :
    (s.setQueue a v).setQueue a w = s.setQueue a w := by
  simp [State.setQueue, Vector.set_set]

@[simp] theorem State.setQueue_pending (s : State) (a : Client) (v : Queue) : (s.setQueue a v).pending = s.pending := rfl
@[simp] theorem State.setQueue_ports (s : State) (a : Client) (v : Queue) : (s.setQueue a v).ports = s.ports := rfl
@[simp] theorem State.setQueue_sessions (s : State) (a : Client) (v : Queue) : (s.setQueue a v).sessions = s.sessions := rfl
@[simp] theorem State.setQueue_resetCause (s : State) (a : Client) (v : Queue) : (s.setQueue a v).resetCause = s.resetCause := rfl
@[simp] theorem State.setQueue_por (s : State) (a : Client) (v : Queue) : (s.setQueue a v).por = s.por := rfl
@[simp] theorem State.setQueue_nrstLow (s : State) (a : Client) (v : Queue) : (s.setQueue a v).nrstLow = s.nrstLow := rfl
@[simp] theorem State.setQueue_claims (s : State) (a : Client) (v : Queue) : (s.setQueue a v).claims = s.claims := rfl
@[simp] theorem State.setQueue_claimLists (s : State) (a : Client) (v : Queue) : (s.setQueue a v).claimLists = s.claimLists := rfl
@[simp] theorem State.setQueue_waitLists (s : State) (a : Client) (v : Queue) : (s.setQueue a v).waitLists = s.waitLists := rfl
@[simp] theorem State.setQueue_policies (s : State) (a : Client) (v : Queue) : (s.setQueue a v).policies = s.policies := rfl
@[simp] theorem State.setQueue_pads (s : State) (a : Client) (v : Queue) : (s.setQueue a v).pads = s.pads := rfl
@[simp] theorem State.setQueue_channels (s : State) (a : Client) (v : Queue) : (s.setQueue a v).channels = s.channels := rfl
@[simp] theorem State.setQueue_watches (s : State) (a : Client) (v : Queue) : (s.setQueue a v).watches = s.watches := rfl
@[simp] theorem State.setQueue_edgeOwed (s : State) (a : Client) (v : Queue) : (s.setQueue a v).edgeOwed = s.edgeOwed := rfl
@[simp] theorem State.port_setQueue (s : State) (a : Client) (v : Queue) (b : Client) :
    (s.setQueue a v).port b = s.port b := rfl
@[simp] theorem State.session_setQueue (s : State) (a : Client) (v : Queue) (b : Client) :
    (s.setQueue a v).session b = s.session b := rfl
@[simp] theorem State.claimList_setQueue (s : State) (a : Client) (v : Queue) (b : Pin) :
    (s.setQueue a v).claimList b = s.claimList b := rfl
@[simp] theorem State.waitList_setQueue (s : State) (a : Client) (v : Queue) (b : Chan) :
    (s.setQueue a v).waitList b = s.waitList b := rfl
@[simp] theorem State.policy_setQueue (s : State) (a : Client) (v : Queue) (b : Pin) :
    (s.setQueue a v).policy b = s.policy b := rfl
@[simp] theorem State.pad_setQueue (s : State) (a : Client) (v : Queue) (b : Pin) :
    (s.setQueue a v).pad b = s.pad b := rfl
@[simp] theorem State.channel_setQueue (s : State) (a : Client) (v : Queue) (b : Chan) :
    (s.setQueue a v).channel b = s.channel b := rfl

/-! ## mapPorts -/

@[simp] theorem State.port_mapPorts (s : State) (f : Client → Port → Port) (a : Client) :
    (s.mapPorts f).port a = f a (s.port a) := by
  simp [State.mapPorts, State.port]

@[simp] theorem State.mapPorts_pending (s : State) (f : Client → Port → Port) : (s.mapPorts f).pending = s.pending := by
  dsimp only [State.mapPorts]
@[simp] theorem State.mapPorts_sessions (s : State) (f : Client → Port → Port) : (s.mapPorts f).sessions = s.sessions := by
  dsimp only [State.mapPorts]
@[simp] theorem State.mapPorts_resetCause (s : State) (f : Client → Port → Port) : (s.mapPorts f).resetCause = s.resetCause := by
  dsimp only [State.mapPorts]
@[simp] theorem State.mapPorts_por (s : State) (f : Client → Port → Port) : (s.mapPorts f).por = s.por := by
  dsimp only [State.mapPorts]
@[simp] theorem State.mapPorts_nrstLow (s : State) (f : Client → Port → Port) : (s.mapPorts f).nrstLow = s.nrstLow := by
  dsimp only [State.mapPorts]
@[simp] theorem State.mapPorts_claims (s : State) (f : Client → Port → Port) : (s.mapPorts f).claims = s.claims := by
  dsimp only [State.mapPorts]
@[simp] theorem State.mapPorts_claimLists (s : State) (f : Client → Port → Port) : (s.mapPorts f).claimLists = s.claimLists := by
  dsimp only [State.mapPorts]
@[simp] theorem State.mapPorts_waitLists (s : State) (f : Client → Port → Port) : (s.mapPorts f).waitLists = s.waitLists := by
  dsimp only [State.mapPorts]
@[simp] theorem State.mapPorts_policies (s : State) (f : Client → Port → Port) : (s.mapPorts f).policies = s.policies := by
  dsimp only [State.mapPorts]
@[simp] theorem State.mapPorts_pads (s : State) (f : Client → Port → Port) : (s.mapPorts f).pads = s.pads := by
  dsimp only [State.mapPorts]
@[simp] theorem State.mapPorts_channels (s : State) (f : Client → Port → Port) : (s.mapPorts f).channels = s.channels := by
  dsimp only [State.mapPorts]
@[simp] theorem State.mapPorts_watches (s : State) (f : Client → Port → Port) : (s.mapPorts f).watches = s.watches := by
  dsimp only [State.mapPorts]
@[simp] theorem State.mapPorts_queues (s : State) (f : Client → Port → Port) : (s.mapPorts f).queues = s.queues := by
  dsimp only [State.mapPorts]
@[simp] theorem State.mapPorts_edgeOwed (s : State) (f : Client → Port → Port) : (s.mapPorts f).edgeOwed = s.edgeOwed := by
  dsimp only [State.mapPorts]
@[simp] theorem State.session_mapPorts (s : State) (f : Client → Port → Port) (b : Client) :
    (s.mapPorts f).session b = s.session b := by
  dsimp only [State.mapPorts, State.session]
@[simp] theorem State.claimList_mapPorts (s : State) (f : Client → Port → Port) (b : Pin) :
    (s.mapPorts f).claimList b = s.claimList b := by
  dsimp only [State.mapPorts, State.claimList]
@[simp] theorem State.waitList_mapPorts (s : State) (f : Client → Port → Port) (b : Chan) :
    (s.mapPorts f).waitList b = s.waitList b := by
  dsimp only [State.mapPorts, State.waitList]
@[simp] theorem State.policy_mapPorts (s : State) (f : Client → Port → Port) (b : Pin) :
    (s.mapPorts f).policy b = s.policy b := by
  dsimp only [State.mapPorts, State.policy]
@[simp] theorem State.pad_mapPorts (s : State) (f : Client → Port → Port) (b : Pin) :
    (s.mapPorts f).pad b = s.pad b := by
  dsimp only [State.mapPorts, State.pad]
@[simp] theorem State.channel_mapPorts (s : State) (f : Client → Port → Port) (b : Chan) :
    (s.mapPorts f).channel b = s.channel b := by
  dsimp only [State.mapPorts, State.channel]
@[simp] theorem State.queue_mapPorts (s : State) (f : Client → Port → Port) (b : Client) :
    (s.mapPorts f).queue b = s.queue b := by
  dsimp only [State.mapPorts, State.queue]

/-! ## mapSessions -/

@[simp] theorem State.session_mapSessions (s : State) (f : Client → Session → Session) (a : Client) :
    (s.mapSessions f).session a = f a (s.session a) := by
  simp [State.mapSessions, State.session]

@[simp] theorem State.mapSessions_pending (s : State) (f : Client → Session → Session) : (s.mapSessions f).pending = s.pending := by
  dsimp only [State.mapSessions]
@[simp] theorem State.mapSessions_ports (s : State) (f : Client → Session → Session) : (s.mapSessions f).ports = s.ports := by
  dsimp only [State.mapSessions]
@[simp] theorem State.mapSessions_resetCause (s : State) (f : Client → Session → Session) : (s.mapSessions f).resetCause = s.resetCause := by
  dsimp only [State.mapSessions]
@[simp] theorem State.mapSessions_por (s : State) (f : Client → Session → Session) : (s.mapSessions f).por = s.por := by
  dsimp only [State.mapSessions]
@[simp] theorem State.mapSessions_nrstLow (s : State) (f : Client → Session → Session) : (s.mapSessions f).nrstLow = s.nrstLow := by
  dsimp only [State.mapSessions]
@[simp] theorem State.mapSessions_claims (s : State) (f : Client → Session → Session) : (s.mapSessions f).claims = s.claims := by
  dsimp only [State.mapSessions]
@[simp] theorem State.mapSessions_claimLists (s : State) (f : Client → Session → Session) : (s.mapSessions f).claimLists = s.claimLists := by
  dsimp only [State.mapSessions]
@[simp] theorem State.mapSessions_waitLists (s : State) (f : Client → Session → Session) : (s.mapSessions f).waitLists = s.waitLists := by
  dsimp only [State.mapSessions]
@[simp] theorem State.mapSessions_policies (s : State) (f : Client → Session → Session) : (s.mapSessions f).policies = s.policies := by
  dsimp only [State.mapSessions]
@[simp] theorem State.mapSessions_pads (s : State) (f : Client → Session → Session) : (s.mapSessions f).pads = s.pads := by
  dsimp only [State.mapSessions]
@[simp] theorem State.mapSessions_channels (s : State) (f : Client → Session → Session) : (s.mapSessions f).channels = s.channels := by
  dsimp only [State.mapSessions]
@[simp] theorem State.mapSessions_watches (s : State) (f : Client → Session → Session) : (s.mapSessions f).watches = s.watches := by
  dsimp only [State.mapSessions]
@[simp] theorem State.mapSessions_queues (s : State) (f : Client → Session → Session) : (s.mapSessions f).queues = s.queues := by
  dsimp only [State.mapSessions]
@[simp] theorem State.mapSessions_edgeOwed (s : State) (f : Client → Session → Session) : (s.mapSessions f).edgeOwed = s.edgeOwed := by
  dsimp only [State.mapSessions]
@[simp] theorem State.port_mapSessions (s : State) (f : Client → Session → Session) (b : Client) :
    (s.mapSessions f).port b = s.port b := by
  dsimp only [State.mapSessions, State.port]
@[simp] theorem State.claimList_mapSessions (s : State) (f : Client → Session → Session) (b : Pin) :
    (s.mapSessions f).claimList b = s.claimList b := by
  dsimp only [State.mapSessions, State.claimList]
@[simp] theorem State.waitList_mapSessions (s : State) (f : Client → Session → Session) (b : Chan) :
    (s.mapSessions f).waitList b = s.waitList b := by
  dsimp only [State.mapSessions, State.waitList]
@[simp] theorem State.policy_mapSessions (s : State) (f : Client → Session → Session) (b : Pin) :
    (s.mapSessions f).policy b = s.policy b := by
  dsimp only [State.mapSessions, State.policy]
@[simp] theorem State.pad_mapSessions (s : State) (f : Client → Session → Session) (b : Pin) :
    (s.mapSessions f).pad b = s.pad b := by
  dsimp only [State.mapSessions, State.pad]
@[simp] theorem State.channel_mapSessions (s : State) (f : Client → Session → Session) (b : Chan) :
    (s.mapSessions f).channel b = s.channel b := by
  dsimp only [State.mapSessions, State.channel]
@[simp] theorem State.queue_mapSessions (s : State) (f : Client → Session → Session) (b : Client) :
    (s.mapSessions f).queue b = s.queue b := by
  dsimp only [State.mapSessions, State.queue]

/-! ## mapPads -/

@[simp] theorem State.pad_mapPads (s : State) (f : Pin → Pad → Pad) (a : Pin) :
    (s.mapPads f).pad a = f a (s.pad a) := by
  simp [State.mapPads, State.pad]

@[simp] theorem State.mapPads_pending (s : State) (f : Pin → Pad → Pad) : (s.mapPads f).pending = s.pending := by
  dsimp only [State.mapPads]
@[simp] theorem State.mapPads_ports (s : State) (f : Pin → Pad → Pad) : (s.mapPads f).ports = s.ports := by
  dsimp only [State.mapPads]
@[simp] theorem State.mapPads_sessions (s : State) (f : Pin → Pad → Pad) : (s.mapPads f).sessions = s.sessions := by
  dsimp only [State.mapPads]
@[simp] theorem State.mapPads_resetCause (s : State) (f : Pin → Pad → Pad) : (s.mapPads f).resetCause = s.resetCause := by
  dsimp only [State.mapPads]
@[simp] theorem State.mapPads_por (s : State) (f : Pin → Pad → Pad) : (s.mapPads f).por = s.por := by
  dsimp only [State.mapPads]
@[simp] theorem State.mapPads_nrstLow (s : State) (f : Pin → Pad → Pad) : (s.mapPads f).nrstLow = s.nrstLow := by
  dsimp only [State.mapPads]
@[simp] theorem State.mapPads_claims (s : State) (f : Pin → Pad → Pad) : (s.mapPads f).claims = s.claims := by
  dsimp only [State.mapPads]
@[simp] theorem State.mapPads_claimLists (s : State) (f : Pin → Pad → Pad) : (s.mapPads f).claimLists = s.claimLists := by
  dsimp only [State.mapPads]
@[simp] theorem State.mapPads_waitLists (s : State) (f : Pin → Pad → Pad) : (s.mapPads f).waitLists = s.waitLists := by
  dsimp only [State.mapPads]
@[simp] theorem State.mapPads_policies (s : State) (f : Pin → Pad → Pad) : (s.mapPads f).policies = s.policies := by
  dsimp only [State.mapPads]
@[simp] theorem State.mapPads_channels (s : State) (f : Pin → Pad → Pad) : (s.mapPads f).channels = s.channels := by
  dsimp only [State.mapPads]
@[simp] theorem State.mapPads_watches (s : State) (f : Pin → Pad → Pad) : (s.mapPads f).watches = s.watches := by
  dsimp only [State.mapPads]
@[simp] theorem State.mapPads_queues (s : State) (f : Pin → Pad → Pad) : (s.mapPads f).queues = s.queues := by
  dsimp only [State.mapPads]
@[simp] theorem State.mapPads_edgeOwed (s : State) (f : Pin → Pad → Pad) : (s.mapPads f).edgeOwed = s.edgeOwed := by
  dsimp only [State.mapPads]
@[simp] theorem State.port_mapPads (s : State) (f : Pin → Pad → Pad) (b : Client) :
    (s.mapPads f).port b = s.port b := by
  dsimp only [State.mapPads, State.port]
@[simp] theorem State.session_mapPads (s : State) (f : Pin → Pad → Pad) (b : Client) :
    (s.mapPads f).session b = s.session b := by
  dsimp only [State.mapPads, State.session]
@[simp] theorem State.claimList_mapPads (s : State) (f : Pin → Pad → Pad) (b : Pin) :
    (s.mapPads f).claimList b = s.claimList b := by
  dsimp only [State.mapPads, State.claimList]
@[simp] theorem State.waitList_mapPads (s : State) (f : Pin → Pad → Pad) (b : Chan) :
    (s.mapPads f).waitList b = s.waitList b := by
  dsimp only [State.mapPads, State.waitList]
@[simp] theorem State.policy_mapPads (s : State) (f : Pin → Pad → Pad) (b : Pin) :
    (s.mapPads f).policy b = s.policy b := by
  dsimp only [State.mapPads, State.policy]
@[simp] theorem State.channel_mapPads (s : State) (f : Pin → Pad → Pad) (b : Chan) :
    (s.mapPads f).channel b = s.channel b := by
  dsimp only [State.mapPads, State.channel]
@[simp] theorem State.queue_mapPads (s : State) (f : Pin → Pad → Pad) (b : Client) :
    (s.mapPads f).queue b = s.queue b := by
  dsimp only [State.mapPads, State.queue]

/-! ## mapChannels -/

@[simp] theorem State.channel_mapChannels (s : State) (f : Chan → Channel → Channel) (a : Chan) :
    (s.mapChannels f).channel a = f a (s.channel a) := by
  simp [State.mapChannels, State.channel]

@[simp] theorem State.mapChannels_pending (s : State) (f : Chan → Channel → Channel) : (s.mapChannels f).pending = s.pending := by
  dsimp only [State.mapChannels]
@[simp] theorem State.mapChannels_ports (s : State) (f : Chan → Channel → Channel) : (s.mapChannels f).ports = s.ports := by
  dsimp only [State.mapChannels]
@[simp] theorem State.mapChannels_sessions (s : State) (f : Chan → Channel → Channel) : (s.mapChannels f).sessions = s.sessions := by
  dsimp only [State.mapChannels]
@[simp] theorem State.mapChannels_resetCause (s : State) (f : Chan → Channel → Channel) : (s.mapChannels f).resetCause = s.resetCause := by
  dsimp only [State.mapChannels]
@[simp] theorem State.mapChannels_por (s : State) (f : Chan → Channel → Channel) : (s.mapChannels f).por = s.por := by
  dsimp only [State.mapChannels]
@[simp] theorem State.mapChannels_nrstLow (s : State) (f : Chan → Channel → Channel) : (s.mapChannels f).nrstLow = s.nrstLow := by
  dsimp only [State.mapChannels]
@[simp] theorem State.mapChannels_claims (s : State) (f : Chan → Channel → Channel) : (s.mapChannels f).claims = s.claims := by
  dsimp only [State.mapChannels]
@[simp] theorem State.mapChannels_claimLists (s : State) (f : Chan → Channel → Channel) : (s.mapChannels f).claimLists = s.claimLists := by
  dsimp only [State.mapChannels]
@[simp] theorem State.mapChannels_waitLists (s : State) (f : Chan → Channel → Channel) : (s.mapChannels f).waitLists = s.waitLists := by
  dsimp only [State.mapChannels]
@[simp] theorem State.mapChannels_policies (s : State) (f : Chan → Channel → Channel) : (s.mapChannels f).policies = s.policies := by
  dsimp only [State.mapChannels]
@[simp] theorem State.mapChannels_pads (s : State) (f : Chan → Channel → Channel) : (s.mapChannels f).pads = s.pads := by
  dsimp only [State.mapChannels]
@[simp] theorem State.mapChannels_watches (s : State) (f : Chan → Channel → Channel) : (s.mapChannels f).watches = s.watches := by
  dsimp only [State.mapChannels]
@[simp] theorem State.mapChannels_queues (s : State) (f : Chan → Channel → Channel) : (s.mapChannels f).queues = s.queues := by
  dsimp only [State.mapChannels]
@[simp] theorem State.mapChannels_edgeOwed (s : State) (f : Chan → Channel → Channel) : (s.mapChannels f).edgeOwed = s.edgeOwed := by
  dsimp only [State.mapChannels]
@[simp] theorem State.port_mapChannels (s : State) (f : Chan → Channel → Channel) (b : Client) :
    (s.mapChannels f).port b = s.port b := by
  dsimp only [State.mapChannels, State.port]
@[simp] theorem State.session_mapChannels (s : State) (f : Chan → Channel → Channel) (b : Client) :
    (s.mapChannels f).session b = s.session b := by
  dsimp only [State.mapChannels, State.session]
@[simp] theorem State.claimList_mapChannels (s : State) (f : Chan → Channel → Channel) (b : Pin) :
    (s.mapChannels f).claimList b = s.claimList b := by
  dsimp only [State.mapChannels, State.claimList]
@[simp] theorem State.waitList_mapChannels (s : State) (f : Chan → Channel → Channel) (b : Chan) :
    (s.mapChannels f).waitList b = s.waitList b := by
  dsimp only [State.mapChannels, State.waitList]
@[simp] theorem State.policy_mapChannels (s : State) (f : Chan → Channel → Channel) (b : Pin) :
    (s.mapChannels f).policy b = s.policy b := by
  dsimp only [State.mapChannels, State.policy]
@[simp] theorem State.pad_mapChannels (s : State) (f : Chan → Channel → Channel) (b : Pin) :
    (s.mapChannels f).pad b = s.pad b := by
  dsimp only [State.mapChannels, State.pad]
@[simp] theorem State.queue_mapChannels (s : State) (f : Chan → Channel → Channel) (b : Client) :
    (s.mapChannels f).queue b = s.queue b := by
  dsimp only [State.mapChannels, State.queue]

/-! ## Equality of tables -/

theorem State.ports_ext {s t : State} (h : ∀ a : Client, t.port a = s.port a) : t.ports = s.ports := by
  ext i hi : 1
  exact h ⟨i, hi⟩

theorem State.port_congr {s t : State} (h : t.ports = s.ports) (a : Client) : t.port a = s.port a := by
  simp [State.port, h]

theorem State.sessions_ext {s t : State} (h : ∀ a : Client, t.session a = s.session a) : t.sessions = s.sessions := by
  ext i hi : 1
  exact h ⟨i, hi⟩

theorem State.session_congr {s t : State} (h : t.sessions = s.sessions) (a : Client) : t.session a = s.session a := by
  simp [State.session, h]

theorem State.claimLists_ext {s t : State} (h : ∀ a : Pin, t.claimList a = s.claimList a) : t.claimLists = s.claimLists := by
  ext i hi : 1
  exact h ⟨i, hi⟩

theorem State.claimList_congr {s t : State} (h : t.claimLists = s.claimLists) (a : Pin) : t.claimList a = s.claimList a := by
  simp [State.claimList, h]

theorem State.waitLists_ext {s t : State} (h : ∀ a : Chan, t.waitList a = s.waitList a) : t.waitLists = s.waitLists := by
  ext i hi : 1
  exact h ⟨i, hi⟩

theorem State.waitList_congr {s t : State} (h : t.waitLists = s.waitLists) (a : Chan) : t.waitList a = s.waitList a := by
  simp [State.waitList, h]

theorem State.policies_ext {s t : State} (h : ∀ a : Pin, t.policy a = s.policy a) : t.policies = s.policies := by
  ext i hi : 1
  exact h ⟨i, hi⟩

theorem State.policy_congr {s t : State} (h : t.policies = s.policies) (a : Pin) : t.policy a = s.policy a := by
  simp [State.policy, h]

theorem State.pads_ext {s t : State} (h : ∀ a : Pin, t.pad a = s.pad a) : t.pads = s.pads := by
  ext i hi : 1
  exact h ⟨i, hi⟩

theorem State.pad_congr {s t : State} (h : t.pads = s.pads) (a : Pin) : t.pad a = s.pad a := by
  simp [State.pad, h]

theorem State.channels_ext {s t : State} (h : ∀ a : Chan, t.channel a = s.channel a) : t.channels = s.channels := by
  ext i hi : 1
  exact h ⟨i, hi⟩

theorem State.channel_congr {s t : State} (h : t.channels = s.channels) (a : Chan) : t.channel a = s.channel a := by
  simp [State.channel, h]

theorem State.queues_ext {s t : State} (h : ∀ a : Client, t.queue a = s.queue a) : t.queues = s.queues := by
  ext i hi : 1
  exact h ⟨i, hi⟩

theorem State.queue_congr {s t : State} (h : t.queues = s.queues) (a : Client) : t.queue a = s.queue a := by
  simp [State.queue, h]

/-- Two states are equal where all their fields are. -/
theorem State.eq_of_fields {s t : State} (h0 : t.pending = s.pending)
    (h1 : t.ports = s.ports)
    (h2 : t.sessions = s.sessions)
    (h3 : t.resetCause = s.resetCause)
    (h4 : t.por = s.por)
    (h5 : t.nrstLow = s.nrstLow)
    (h6 : t.claims = s.claims)
    (h7 : t.claimLists = s.claimLists)
    (h8 : t.waitLists = s.waitLists)
    (h9 : t.policies = s.policies)
    (h10 : t.pads = s.pads)
    (h11 : t.channels = s.channels)
    (h12 : t.watches = s.watches)
    (h13 : t.queues = s.queues)
    (h14 : t.edgeOwed = s.edgeOwed) : t = s := by
  cases s; cases t; simp_all

end Sys2Proof.Machine
end

