-- ==== Sys2Proof/Laws/Frames.lean ====
section
/-! SUPPORT. The frame of every shared operation: which fields of the state it leaves as they were, and so at
every entry of their tables. Later proofs cite these and never unfold an operation for its frame (`rfl` on a rewriting of all the pads
is slow: it compares them one by one). -/

namespace Sys2Proof.Machine

open Sys2Proof

/-- What every round of a fold keeps, the fold keeps. -/
theorem foldl_keeps {α β : Type} {f : State → α → State} {g : State → β}
    (h : ∀ s a, g (f s a) = g s) (l : List α) (s : State) : g (l.foldl f s) = g s := by
  induction l generalizing s with
  | nil => rfl
  | cons a l ih => rw [List.foldl_cons, ih, h]

/-- What every round of a repetition keeps, the repetition keeps. -/
theorem repeat_keeps {β : Type} {f : State → State} {g : State → β} (h : ∀ s, g (f s) = g s) (n : Nat) (s : State) :
    g (Nat.repeat f n s) = g s := by
  induction n generalizing s with
  | zero => rfl
  | succ n ih => rw [Nat.repeat, h, ih]

/-! ## syncAttention -/

@[simp] theorem State.syncAttention_pending (s : State) (c : Client) : (s.syncAttention c).pending = s.pending := rfl
@[simp] theorem State.syncAttention_sessions (s : State) (c : Client) : (s.syncAttention c).sessions = s.sessions := rfl
@[simp] theorem State.syncAttention_session (s : State) (c : Client) (i : Client) : (s.syncAttention c).session i = s.session i :=
  State.session_congr (State.syncAttention_sessions s c) i
@[simp] theorem State.syncAttention_resetCause (s : State) (c : Client) : (s.syncAttention c).resetCause = s.resetCause := rfl
@[simp] theorem State.syncAttention_por (s : State) (c : Client) : (s.syncAttention c).por = s.por := rfl
@[simp] theorem State.syncAttention_nrstLow (s : State) (c : Client) : (s.syncAttention c).nrstLow = s.nrstLow := rfl
@[simp] theorem State.syncAttention_claims (s : State) (c : Client) : (s.syncAttention c).claims = s.claims := rfl
@[simp] theorem State.syncAttention_claimLists (s : State) (c : Client) : (s.syncAttention c).claimLists = s.claimLists := rfl
@[simp] theorem State.syncAttention_claimList (s : State) (c : Client) (i : Pin) : (s.syncAttention c).claimList i = s.claimList i :=
  State.claimList_congr (State.syncAttention_claimLists s c) i
@[simp] theorem State.syncAttention_waitLists (s : State) (c : Client) : (s.syncAttention c).waitLists = s.waitLists := rfl
@[simp] theorem State.syncAttention_waitList (s : State) (c : Client) (i : Chan) : (s.syncAttention c).waitList i = s.waitList i :=
  State.waitList_congr (State.syncAttention_waitLists s c) i
@[simp] theorem State.syncAttention_policies (s : State) (c : Client) : (s.syncAttention c).policies = s.policies := rfl
@[simp] theorem State.syncAttention_policy (s : State) (c : Client) (i : Pin) : (s.syncAttention c).policy i = s.policy i :=
  State.policy_congr (State.syncAttention_policies s c) i
@[simp] theorem State.syncAttention_pads (s : State) (c : Client) : (s.syncAttention c).pads = s.pads := rfl
@[simp] theorem State.syncAttention_pad (s : State) (c : Client) (i : Pin) : (s.syncAttention c).pad i = s.pad i :=
  State.pad_congr (State.syncAttention_pads s c) i
@[simp] theorem State.syncAttention_channels (s : State) (c : Client) : (s.syncAttention c).channels = s.channels := rfl
@[simp] theorem State.syncAttention_channel (s : State) (c : Client) (i : Chan) : (s.syncAttention c).channel i = s.channel i :=
  State.channel_congr (State.syncAttention_channels s c) i
@[simp] theorem State.syncAttention_watches (s : State) (c : Client) : (s.syncAttention c).watches = s.watches := rfl
@[simp] theorem State.syncAttention_queues (s : State) (c : Client) : (s.syncAttention c).queues = s.queues := rfl
@[simp] theorem State.syncAttention_queue (s : State) (c : Client) (i : Client) : (s.syncAttention c).queue i = s.queue i :=
  State.queue_congr (State.syncAttention_queues s c) i
@[simp] theorem State.syncAttention_edgeOwed (s : State) (c : Client) : (s.syncAttention c).edgeOwed = s.edgeOwed := rfl

/-! ## place -/

@[simp] theorem State.place_pending (s : State) (c : Client) (n : Notice) : (s.place c n).pending = s.pending := rfl
@[simp] theorem State.place_sessions (s : State) (c : Client) (n : Notice) : (s.place c n).sessions = s.sessions := rfl
@[simp] theorem State.place_session (s : State) (c : Client) (n : Notice) (i : Client) : (s.place c n).session i = s.session i :=
  State.session_congr (State.place_sessions s c n) i
@[simp] theorem State.place_resetCause (s : State) (c : Client) (n : Notice) : (s.place c n).resetCause = s.resetCause := rfl
@[simp] theorem State.place_por (s : State) (c : Client) (n : Notice) : (s.place c n).por = s.por := rfl
@[simp] theorem State.place_nrstLow (s : State) (c : Client) (n : Notice) : (s.place c n).nrstLow = s.nrstLow := rfl
@[simp] theorem State.place_claims (s : State) (c : Client) (n : Notice) : (s.place c n).claims = s.claims := rfl
@[simp] theorem State.place_claimLists (s : State) (c : Client) (n : Notice) : (s.place c n).claimLists = s.claimLists := rfl
@[simp] theorem State.place_claimList (s : State) (c : Client) (n : Notice) (i : Pin) : (s.place c n).claimList i = s.claimList i :=
  State.claimList_congr (State.place_claimLists s c n) i
@[simp] theorem State.place_waitLists (s : State) (c : Client) (n : Notice) : (s.place c n).waitLists = s.waitLists := rfl
@[simp] theorem State.place_waitList (s : State) (c : Client) (n : Notice) (i : Chan) : (s.place c n).waitList i = s.waitList i :=
  State.waitList_congr (State.place_waitLists s c n) i
@[simp] theorem State.place_policies (s : State) (c : Client) (n : Notice) : (s.place c n).policies = s.policies := rfl
@[simp] theorem State.place_policy (s : State) (c : Client) (n : Notice) (i : Pin) : (s.place c n).policy i = s.policy i :=
  State.policy_congr (State.place_policies s c n) i
@[simp] theorem State.place_pads (s : State) (c : Client) (n : Notice) : (s.place c n).pads = s.pads := rfl
@[simp] theorem State.place_pad (s : State) (c : Client) (n : Notice) (i : Pin) : (s.place c n).pad i = s.pad i :=
  State.pad_congr (State.place_pads s c n) i
@[simp] theorem State.place_channels (s : State) (c : Client) (n : Notice) : (s.place c n).channels = s.channels := rfl
@[simp] theorem State.place_channel (s : State) (c : Client) (n : Notice) (i : Chan) : (s.place c n).channel i = s.channel i :=
  State.channel_congr (State.place_channels s c n) i
@[simp] theorem State.place_watches (s : State) (c : Client) (n : Notice) : (s.place c n).watches = s.watches := rfl
@[simp] theorem State.place_edgeOwed (s : State) (c : Client) (n : Notice) : (s.place c n).edgeOwed = s.edgeOwed := rfl

/-! ## placeAll -/

@[simp] theorem State.placeAll_pending (s : State) (cs : List Client) (n : Notice) : (s.placeAll cs n).pending = s.pending :=
  foldl_keeps (g := State.pending) (fun _ _ => by simp) _ s
@[simp] theorem State.placeAll_sessions (s : State) (cs : List Client) (n : Notice) : (s.placeAll cs n).sessions = s.sessions :=
  foldl_keeps (g := State.sessions) (fun _ _ => by simp) _ s
@[simp] theorem State.placeAll_session (s : State) (cs : List Client) (n : Notice) (i : Client) : (s.placeAll cs n).session i = s.session i :=
  State.session_congr (State.placeAll_sessions s cs n) i
@[simp] theorem State.placeAll_resetCause (s : State) (cs : List Client) (n : Notice) : (s.placeAll cs n).resetCause = s.resetCause :=
  foldl_keeps (g := State.resetCause) (fun _ _ => by simp) _ s
@[simp] theorem State.placeAll_por (s : State) (cs : List Client) (n : Notice) : (s.placeAll cs n).por = s.por :=
  foldl_keeps (g := State.por) (fun _ _ => by simp) _ s
@[simp] theorem State.placeAll_nrstLow (s : State) (cs : List Client) (n : Notice) : (s.placeAll cs n).nrstLow = s.nrstLow :=
  foldl_keeps (g := State.nrstLow) (fun _ _ => by simp) _ s
@[simp] theorem State.placeAll_claims (s : State) (cs : List Client) (n : Notice) : (s.placeAll cs n).claims = s.claims :=
  foldl_keeps (g := State.claims) (fun _ _ => by simp) _ s
@[simp] theorem State.placeAll_claimLists (s : State) (cs : List Client) (n : Notice) : (s.placeAll cs n).claimLists = s.claimLists :=
  foldl_keeps (g := State.claimLists) (fun _ _ => by simp) _ s
@[simp] theorem State.placeAll_claimList (s : State) (cs : List Client) (n : Notice) (i : Pin) : (s.placeAll cs n).claimList i = s.claimList i :=
  State.claimList_congr (State.placeAll_claimLists s cs n) i
@[simp] theorem State.placeAll_waitLists (s : State) (cs : List Client) (n : Notice) : (s.placeAll cs n).waitLists = s.waitLists :=
  foldl_keeps (g := State.waitLists) (fun _ _ => by simp) _ s
@[simp] theorem State.placeAll_waitList (s : State) (cs : List Client) (n : Notice) (i : Chan) : (s.placeAll cs n).waitList i = s.waitList i :=
  State.waitList_congr (State.placeAll_waitLists s cs n) i
@[simp] theorem State.placeAll_policies (s : State) (cs : List Client) (n : Notice) : (s.placeAll cs n).policies = s.policies :=
  foldl_keeps (g := State.policies) (fun _ _ => by simp) _ s
@[simp] theorem State.placeAll_policy (s : State) (cs : List Client) (n : Notice) (i : Pin) : (s.placeAll cs n).policy i = s.policy i :=
  State.policy_congr (State.placeAll_policies s cs n) i
@[simp] theorem State.placeAll_pads (s : State) (cs : List Client) (n : Notice) : (s.placeAll cs n).pads = s.pads :=
  foldl_keeps (g := State.pads) (fun _ _ => by simp) _ s
@[simp] theorem State.placeAll_pad (s : State) (cs : List Client) (n : Notice) (i : Pin) : (s.placeAll cs n).pad i = s.pad i :=
  State.pad_congr (State.placeAll_pads s cs n) i
@[simp] theorem State.placeAll_channels (s : State) (cs : List Client) (n : Notice) : (s.placeAll cs n).channels = s.channels :=
  foldl_keeps (g := State.channels) (fun _ _ => by simp) _ s
@[simp] theorem State.placeAll_channel (s : State) (cs : List Client) (n : Notice) (i : Chan) : (s.placeAll cs n).channel i = s.channel i :=
  State.channel_congr (State.placeAll_channels s cs n) i
@[simp] theorem State.placeAll_watches (s : State) (cs : List Client) (n : Notice) : (s.placeAll cs n).watches = s.watches :=
  foldl_keeps (g := State.watches) (fun _ _ => by simp) _ s
@[simp] theorem State.placeAll_edgeOwed (s : State) (cs : List Client) (n : Notice) : (s.placeAll cs n).edgeOwed = s.edgeOwed :=
  foldl_keeps (g := State.edgeOwed) (fun _ _ => by simp) _ s

/-! ## recount -/

@[simp] theorem State.recount_pending (s : State) : (s.recount).pending = s.pending := rfl
@[simp] theorem State.recount_ports (s : State) : (s.recount).ports = s.ports := rfl
@[simp] theorem State.recount_port (s : State) (i : Client) : (s.recount).port i = s.port i :=
  State.port_congr (State.recount_ports s) i
@[simp] theorem State.recount_resetCause (s : State) : (s.recount).resetCause = s.resetCause := rfl
@[simp] theorem State.recount_por (s : State) : (s.recount).por = s.por := rfl
@[simp] theorem State.recount_nrstLow (s : State) : (s.recount).nrstLow = s.nrstLow := rfl
@[simp] theorem State.recount_claims (s : State) : (s.recount).claims = s.claims := rfl
@[simp] theorem State.recount_claimLists (s : State) : (s.recount).claimLists = s.claimLists := rfl
@[simp] theorem State.recount_claimList (s : State) (i : Pin) : (s.recount).claimList i = s.claimList i :=
  State.claimList_congr (State.recount_claimLists s) i
@[simp] theorem State.recount_waitLists (s : State) : (s.recount).waitLists = s.waitLists := rfl
@[simp] theorem State.recount_waitList (s : State) (i : Chan) : (s.recount).waitList i = s.waitList i :=
  State.waitList_congr (State.recount_waitLists s) i
@[simp] theorem State.recount_policies (s : State) : (s.recount).policies = s.policies := rfl
@[simp] theorem State.recount_policy (s : State) (i : Pin) : (s.recount).policy i = s.policy i :=
  State.policy_congr (State.recount_policies s) i
@[simp] theorem State.recount_pads (s : State) : (s.recount).pads = s.pads := rfl
@[simp] theorem State.recount_pad (s : State) (i : Pin) : (s.recount).pad i = s.pad i :=
  State.pad_congr (State.recount_pads s) i
@[simp] theorem State.recount_watches (s : State) : (s.recount).watches = s.watches := rfl
@[simp] theorem State.recount_queues (s : State) : (s.recount).queues = s.queues := rfl
@[simp] theorem State.recount_queue (s : State) (i : Client) : (s.recount).queue i = s.queue i :=
  State.queue_congr (State.recount_queues s) i
@[simp] theorem State.recount_edgeOwed (s : State) : (s.recount).edgeOwed = s.edgeOwed := rfl

/-! ## freeOne -/

@[simp] theorem State.freeOne_pending (s : State) : (s.freeOne).pending = s.pending := by
  unfold State.freeOne; (repeat' split) <;> simp
@[simp] theorem State.freeOne_ports (s : State) : (s.freeOne).ports = s.ports := by
  unfold State.freeOne; (repeat' split) <;> simp
@[simp] theorem State.freeOne_port (s : State) (i : Client) : (s.freeOne).port i = s.port i :=
  State.port_congr (State.freeOne_ports s) i
@[simp] theorem State.freeOne_resetCause (s : State) : (s.freeOne).resetCause = s.resetCause := by
  unfold State.freeOne; (repeat' split) <;> simp
@[simp] theorem State.freeOne_por (s : State) : (s.freeOne).por = s.por := by
  unfold State.freeOne; (repeat' split) <;> simp
@[simp] theorem State.freeOne_nrstLow (s : State) : (s.freeOne).nrstLow = s.nrstLow := by
  unfold State.freeOne; (repeat' split) <;> simp
@[simp] theorem State.freeOne_claims (s : State) : (s.freeOne).claims = s.claims := by
  unfold State.freeOne; (repeat' split) <;> simp
@[simp] theorem State.freeOne_claimLists (s : State) : (s.freeOne).claimLists = s.claimLists := by
  unfold State.freeOne; (repeat' split) <;> simp
@[simp] theorem State.freeOne_claimList (s : State) (i : Pin) : (s.freeOne).claimList i = s.claimList i :=
  State.claimList_congr (State.freeOne_claimLists s) i
@[simp] theorem State.freeOne_waitLists (s : State) : (s.freeOne).waitLists = s.waitLists := by
  unfold State.freeOne; (repeat' split) <;> simp
@[simp] theorem State.freeOne_waitList (s : State) (i : Chan) : (s.freeOne).waitList i = s.waitList i :=
  State.waitList_congr (State.freeOne_waitLists s) i
@[simp] theorem State.freeOne_policies (s : State) : (s.freeOne).policies = s.policies := by
  unfold State.freeOne; (repeat' split) <;> simp
@[simp] theorem State.freeOne_policy (s : State) (i : Pin) : (s.freeOne).policy i = s.policy i :=
  State.policy_congr (State.freeOne_policies s) i
@[simp] theorem State.freeOne_pads (s : State) : (s.freeOne).pads = s.pads := by
  unfold State.freeOne; (repeat' split) <;> simp
@[simp] theorem State.freeOne_pad (s : State) (i : Pin) : (s.freeOne).pad i = s.pad i :=
  State.pad_congr (State.freeOne_pads s) i
@[simp] theorem State.freeOne_watches (s : State) : (s.freeOne).watches = s.watches := by
  unfold State.freeOne; (repeat' split) <;> simp
@[simp] theorem State.freeOne_queues (s : State) : (s.freeOne).queues = s.queues := by
  unfold State.freeOne; (repeat' split) <;> simp
@[simp] theorem State.freeOne_queue (s : State) (i : Client) : (s.freeOne).queue i = s.queue i :=
  State.queue_congr (State.freeOne_queues s) i
@[simp] theorem State.freeOne_edgeOwed (s : State) : (s.freeOne).edgeOwed = s.edgeOwed := by
  unfold State.freeOne; (repeat' split) <;> simp

/-! ## freeOrphans -/

@[simp] theorem State.freeOrphans_pending (s : State) : (s.freeOrphans).pending = s.pending :=
  by simp [State.freeOrphans]
@[simp] theorem State.freeOrphans_ports (s : State) : (s.freeOrphans).ports = s.ports :=
  by simp [State.freeOrphans]
@[simp] theorem State.freeOrphans_port (s : State) (i : Client) : (s.freeOrphans).port i = s.port i :=
  State.port_congr (State.freeOrphans_ports s) i
@[simp] theorem State.freeOrphans_resetCause (s : State) : (s.freeOrphans).resetCause = s.resetCause :=
  by simp [State.freeOrphans]
@[simp] theorem State.freeOrphans_por (s : State) : (s.freeOrphans).por = s.por :=
  by simp [State.freeOrphans]
@[simp] theorem State.freeOrphans_nrstLow (s : State) : (s.freeOrphans).nrstLow = s.nrstLow :=
  by simp [State.freeOrphans]
@[simp] theorem State.freeOrphans_claims (s : State) : (s.freeOrphans).claims = s.claims :=
  by simp [State.freeOrphans]
@[simp] theorem State.freeOrphans_claimLists (s : State) : (s.freeOrphans).claimLists = s.claimLists :=
  by simp [State.freeOrphans]
@[simp] theorem State.freeOrphans_claimList (s : State) (i : Pin) : (s.freeOrphans).claimList i = s.claimList i :=
  State.claimList_congr (State.freeOrphans_claimLists s) i
@[simp] theorem State.freeOrphans_waitLists (s : State) : (s.freeOrphans).waitLists = s.waitLists :=
  by simp [State.freeOrphans]
@[simp] theorem State.freeOrphans_waitList (s : State) (i : Chan) : (s.freeOrphans).waitList i = s.waitList i :=
  State.waitList_congr (State.freeOrphans_waitLists s) i
@[simp] theorem State.freeOrphans_policies (s : State) : (s.freeOrphans).policies = s.policies :=
  by simp [State.freeOrphans]
@[simp] theorem State.freeOrphans_policy (s : State) (i : Pin) : (s.freeOrphans).policy i = s.policy i :=
  State.policy_congr (State.freeOrphans_policies s) i
@[simp] theorem State.freeOrphans_pads (s : State) : (s.freeOrphans).pads = s.pads :=
  by simp [State.freeOrphans]
@[simp] theorem State.freeOrphans_pad (s : State) (i : Pin) : (s.freeOrphans).pad i = s.pad i :=
  State.pad_congr (State.freeOrphans_pads s) i
@[simp] theorem State.freeOrphans_watches (s : State) : (s.freeOrphans).watches = s.watches :=
  by simp [State.freeOrphans]
@[simp] theorem State.freeOrphans_queues (s : State) : (s.freeOrphans).queues = s.queues :=
  by simp [State.freeOrphans]
@[simp] theorem State.freeOrphans_queue (s : State) (i : Client) : (s.freeOrphans).queue i = s.queue i :=
  State.queue_congr (State.freeOrphans_queues s) i
@[simp] theorem State.freeOrphans_edgeOwed (s : State) : (s.freeOrphans).edgeOwed = s.edgeOwed :=
  by simp [State.freeOrphans]

/-! ## settleRefs -/

@[simp] theorem State.settleRefs_pending (s : State) : (s.settleRefs).pending = s.pending :=
  by simp [State.settleRefs]
@[simp] theorem State.settleRefs_ports (s : State) : (s.settleRefs).ports = s.ports :=
  by simp [State.settleRefs]
@[simp] theorem State.settleRefs_port (s : State) (i : Client) : (s.settleRefs).port i = s.port i :=
  State.port_congr (State.settleRefs_ports s) i
@[simp] theorem State.settleRefs_resetCause (s : State) : (s.settleRefs).resetCause = s.resetCause :=
  by simp [State.settleRefs]
@[simp] theorem State.settleRefs_por (s : State) : (s.settleRefs).por = s.por :=
  by simp [State.settleRefs]
@[simp] theorem State.settleRefs_nrstLow (s : State) : (s.settleRefs).nrstLow = s.nrstLow :=
  by simp [State.settleRefs]
@[simp] theorem State.settleRefs_claims (s : State) : (s.settleRefs).claims = s.claims :=
  by simp [State.settleRefs]
@[simp] theorem State.settleRefs_claimLists (s : State) : (s.settleRefs).claimLists = s.claimLists :=
  by simp [State.settleRefs]
@[simp] theorem State.settleRefs_claimList (s : State) (i : Pin) : (s.settleRefs).claimList i = s.claimList i :=
  State.claimList_congr (State.settleRefs_claimLists s) i
@[simp] theorem State.settleRefs_waitLists (s : State) : (s.settleRefs).waitLists = s.waitLists :=
  by simp [State.settleRefs]
@[simp] theorem State.settleRefs_waitList (s : State) (i : Chan) : (s.settleRefs).waitList i = s.waitList i :=
  State.waitList_congr (State.settleRefs_waitLists s) i
@[simp] theorem State.settleRefs_policies (s : State) : (s.settleRefs).policies = s.policies :=
  by simp [State.settleRefs]
@[simp] theorem State.settleRefs_policy (s : State) (i : Pin) : (s.settleRefs).policy i = s.policy i :=
  State.policy_congr (State.settleRefs_policies s) i
@[simp] theorem State.settleRefs_pads (s : State) : (s.settleRefs).pads = s.pads :=
  by simp [State.settleRefs]
@[simp] theorem State.settleRefs_pad (s : State) (i : Pin) : (s.settleRefs).pad i = s.pad i :=
  State.pad_congr (State.settleRefs_pads s) i
@[simp] theorem State.settleRefs_watches (s : State) : (s.settleRefs).watches = s.watches :=
  by simp [State.settleRefs]
@[simp] theorem State.settleRefs_queues (s : State) : (s.settleRefs).queues = s.queues :=
  by simp [State.settleRefs]
@[simp] theorem State.settleRefs_queue (s : State) (i : Client) : (s.settleRefs).queue i = s.queue i :=
  State.queue_congr (State.settleRefs_queues s) i
@[simp] theorem State.settleRefs_edgeOwed (s : State) : (s.settleRefs).edgeOwed = s.edgeOwed :=
  by simp [State.settleRefs]

/-! ## enterList -/

@[simp] theorem State.enterList_pending (s : State) (c : Client) (p : Pin) : (s.enterList c p).pending = s.pending := rfl
@[simp] theorem State.enterList_ports (s : State) (c : Client) (p : Pin) : (s.enterList c p).ports = s.ports := rfl
@[simp] theorem State.enterList_port (s : State) (c : Client) (p : Pin) (i : Client) : (s.enterList c p).port i = s.port i :=
  State.port_congr (State.enterList_ports s c p) i
@[simp] theorem State.enterList_sessions (s : State) (c : Client) (p : Pin) : (s.enterList c p).sessions = s.sessions := rfl
@[simp] theorem State.enterList_session (s : State) (c : Client) (p : Pin) (i : Client) : (s.enterList c p).session i = s.session i :=
  State.session_congr (State.enterList_sessions s c p) i
@[simp] theorem State.enterList_resetCause (s : State) (c : Client) (p : Pin) : (s.enterList c p).resetCause = s.resetCause := rfl
@[simp] theorem State.enterList_por (s : State) (c : Client) (p : Pin) : (s.enterList c p).por = s.por := rfl
@[simp] theorem State.enterList_nrstLow (s : State) (c : Client) (p : Pin) : (s.enterList c p).nrstLow = s.nrstLow := rfl
@[simp] theorem State.enterList_claims (s : State) (c : Client) (p : Pin) : (s.enterList c p).claims = s.claims := rfl
@[simp] theorem State.enterList_waitLists (s : State) (c : Client) (p : Pin) : (s.enterList c p).waitLists = s.waitLists := rfl
@[simp] theorem State.enterList_waitList (s : State) (c : Client) (p : Pin) (i : Chan) : (s.enterList c p).waitList i = s.waitList i :=
  State.waitList_congr (State.enterList_waitLists s c p) i
@[simp] theorem State.enterList_policies (s : State) (c : Client) (p : Pin) : (s.enterList c p).policies = s.policies := rfl
@[simp] theorem State.enterList_policy (s : State) (c : Client) (p : Pin) (i : Pin) : (s.enterList c p).policy i = s.policy i :=
  State.policy_congr (State.enterList_policies s c p) i
@[simp] theorem State.enterList_pads (s : State) (c : Client) (p : Pin) : (s.enterList c p).pads = s.pads := rfl
@[simp] theorem State.enterList_pad (s : State) (c : Client) (p : Pin) (i : Pin) : (s.enterList c p).pad i = s.pad i :=
  State.pad_congr (State.enterList_pads s c p) i
@[simp] theorem State.enterList_channels (s : State) (c : Client) (p : Pin) : (s.enterList c p).channels = s.channels := rfl
@[simp] theorem State.enterList_channel (s : State) (c : Client) (p : Pin) (i : Chan) : (s.enterList c p).channel i = s.channel i :=
  State.channel_congr (State.enterList_channels s c p) i
@[simp] theorem State.enterList_watches (s : State) (c : Client) (p : Pin) : (s.enterList c p).watches = s.watches := rfl
@[simp] theorem State.enterList_queues (s : State) (c : Client) (p : Pin) : (s.enterList c p).queues = s.queues := rfl
@[simp] theorem State.enterList_queue (s : State) (c : Client) (p : Pin) (i : Client) : (s.enterList c p).queue i = s.queue i :=
  State.queue_congr (State.enterList_queues s c p) i
@[simp] theorem State.enterList_edgeOwed (s : State) (c : Client) (p : Pin) : (s.enterList c p).edgeOwed = s.edgeOwed := rfl

/-! ## setClaim -/

@[simp] theorem State.setClaim_pending (s : State) (q : Claim) : (s.setClaim q).pending = s.pending := rfl
@[simp] theorem State.setClaim_ports (s : State) (q : Claim) : (s.setClaim q).ports = s.ports := rfl
@[simp] theorem State.setClaim_port (s : State) (q : Claim) (i : Client) : (s.setClaim q).port i = s.port i :=
  State.port_congr (State.setClaim_ports s q) i
@[simp] theorem State.setClaim_sessions (s : State) (q : Claim) : (s.setClaim q).sessions = s.sessions := rfl
@[simp] theorem State.setClaim_session (s : State) (q : Claim) (i : Client) : (s.setClaim q).session i = s.session i :=
  State.session_congr (State.setClaim_sessions s q) i
@[simp] theorem State.setClaim_resetCause (s : State) (q : Claim) : (s.setClaim q).resetCause = s.resetCause := rfl
@[simp] theorem State.setClaim_por (s : State) (q : Claim) : (s.setClaim q).por = s.por := rfl
@[simp] theorem State.setClaim_nrstLow (s : State) (q : Claim) : (s.setClaim q).nrstLow = s.nrstLow := rfl
@[simp] theorem State.setClaim_claimLists (s : State) (q : Claim) : (s.setClaim q).claimLists = s.claimLists := rfl
@[simp] theorem State.setClaim_claimList (s : State) (q : Claim) (i : Pin) : (s.setClaim q).claimList i = s.claimList i :=
  State.claimList_congr (State.setClaim_claimLists s q) i
@[simp] theorem State.setClaim_waitLists (s : State) (q : Claim) : (s.setClaim q).waitLists = s.waitLists := rfl
@[simp] theorem State.setClaim_waitList (s : State) (q : Claim) (i : Chan) : (s.setClaim q).waitList i = s.waitList i :=
  State.waitList_congr (State.setClaim_waitLists s q) i
@[simp] theorem State.setClaim_policies (s : State) (q : Claim) : (s.setClaim q).policies = s.policies := rfl
@[simp] theorem State.setClaim_policy (s : State) (q : Claim) (i : Pin) : (s.setClaim q).policy i = s.policy i :=
  State.policy_congr (State.setClaim_policies s q) i
@[simp] theorem State.setClaim_pads (s : State) (q : Claim) : (s.setClaim q).pads = s.pads := rfl
@[simp] theorem State.setClaim_pad (s : State) (q : Claim) (i : Pin) : (s.setClaim q).pad i = s.pad i :=
  State.pad_congr (State.setClaim_pads s q) i
@[simp] theorem State.setClaim_channels (s : State) (q : Claim) : (s.setClaim q).channels = s.channels := rfl
@[simp] theorem State.setClaim_channel (s : State) (q : Claim) (i : Chan) : (s.setClaim q).channel i = s.channel i :=
  State.channel_congr (State.setClaim_channels s q) i
@[simp] theorem State.setClaim_watches (s : State) (q : Claim) : (s.setClaim q).watches = s.watches := rfl
@[simp] theorem State.setClaim_queues (s : State) (q : Claim) : (s.setClaim q).queues = s.queues := rfl
@[simp] theorem State.setClaim_queue (s : State) (q : Claim) (i : Client) : (s.setClaim q).queue i = s.queue i :=
  State.queue_congr (State.setClaim_queues s q) i
@[simp] theorem State.setClaim_edgeOwed (s : State) (q : Claim) : (s.setClaim q).edgeOwed = s.edgeOwed := rfl

/-! ## leaveWait -/

@[simp] theorem State.leaveWait_pending (s : State) (c : Client) (p : Pin) : (s.leaveWait c p).pending = s.pending := rfl
@[simp] theorem State.leaveWait_ports (s : State) (c : Client) (p : Pin) : (s.leaveWait c p).ports = s.ports := rfl
@[simp] theorem State.leaveWait_port (s : State) (c : Client) (p : Pin) (i : Client) : (s.leaveWait c p).port i = s.port i :=
  State.port_congr (State.leaveWait_ports s c p) i
@[simp] theorem State.leaveWait_sessions (s : State) (c : Client) (p : Pin) : (s.leaveWait c p).sessions = s.sessions := rfl
@[simp] theorem State.leaveWait_session (s : State) (c : Client) (p : Pin) (i : Client) : (s.leaveWait c p).session i = s.session i :=
  State.session_congr (State.leaveWait_sessions s c p) i
@[simp] theorem State.leaveWait_resetCause (s : State) (c : Client) (p : Pin) : (s.leaveWait c p).resetCause = s.resetCause := rfl
@[simp] theorem State.leaveWait_por (s : State) (c : Client) (p : Pin) : (s.leaveWait c p).por = s.por := rfl
@[simp] theorem State.leaveWait_nrstLow (s : State) (c : Client) (p : Pin) : (s.leaveWait c p).nrstLow = s.nrstLow := rfl
@[simp] theorem State.leaveWait_claims (s : State) (c : Client) (p : Pin) : (s.leaveWait c p).claims = s.claims := rfl
@[simp] theorem State.leaveWait_claimLists (s : State) (c : Client) (p : Pin) : (s.leaveWait c p).claimLists = s.claimLists := rfl
@[simp] theorem State.leaveWait_claimList (s : State) (c : Client) (p : Pin) (i : Pin) : (s.leaveWait c p).claimList i = s.claimList i :=
  State.claimList_congr (State.leaveWait_claimLists s c p) i
@[simp] theorem State.leaveWait_policies (s : State) (c : Client) (p : Pin) : (s.leaveWait c p).policies = s.policies := rfl
@[simp] theorem State.leaveWait_policy (s : State) (c : Client) (p : Pin) (i : Pin) : (s.leaveWait c p).policy i = s.policy i :=
  State.policy_congr (State.leaveWait_policies s c p) i
@[simp] theorem State.leaveWait_pads (s : State) (c : Client) (p : Pin) : (s.leaveWait c p).pads = s.pads := rfl
@[simp] theorem State.leaveWait_pad (s : State) (c : Client) (p : Pin) (i : Pin) : (s.leaveWait c p).pad i = s.pad i :=
  State.pad_congr (State.leaveWait_pads s c p) i
@[simp] theorem State.leaveWait_channels (s : State) (c : Client) (p : Pin) : (s.leaveWait c p).channels = s.channels := rfl
@[simp] theorem State.leaveWait_channel (s : State) (c : Client) (p : Pin) (i : Chan) : (s.leaveWait c p).channel i = s.channel i :=
  State.channel_congr (State.leaveWait_channels s c p) i
@[simp] theorem State.leaveWait_watches (s : State) (c : Client) (p : Pin) : (s.leaveWait c p).watches = s.watches := rfl
@[simp] theorem State.leaveWait_queues (s : State) (c : Client) (p : Pin) : (s.leaveWait c p).queues = s.queues := rfl
@[simp] theorem State.leaveWait_queue (s : State) (c : Client) (p : Pin) (i : Client) : (s.leaveWait c p).queue i = s.queue i :=
  State.queue_congr (State.leaveWait_queues s c p) i
@[simp] theorem State.leaveWait_edgeOwed (s : State) (c : Client) (p : Pin) : (s.leaveWait c p).edgeOwed = s.edgeOwed := rfl

/-! ## enterWait -/

@[simp] theorem State.enterWait_pending (s : State) (c : Client) (p : Pin) (k : Chan) : (s.enterWait c p k).pending = s.pending := rfl
@[simp] theorem State.enterWait_ports (s : State) (c : Client) (p : Pin) (k : Chan) : (s.enterWait c p k).ports = s.ports := rfl
@[simp] theorem State.enterWait_port (s : State) (c : Client) (p : Pin) (k : Chan) (i : Client) : (s.enterWait c p k).port i = s.port i :=
  State.port_congr (State.enterWait_ports s c p k) i
@[simp] theorem State.enterWait_sessions (s : State) (c : Client) (p : Pin) (k : Chan) : (s.enterWait c p k).sessions = s.sessions := rfl
@[simp] theorem State.enterWait_session (s : State) (c : Client) (p : Pin) (k : Chan) (i : Client) : (s.enterWait c p k).session i = s.session i :=
  State.session_congr (State.enterWait_sessions s c p k) i
@[simp] theorem State.enterWait_resetCause (s : State) (c : Client) (p : Pin) (k : Chan) : (s.enterWait c p k).resetCause = s.resetCause := rfl
@[simp] theorem State.enterWait_por (s : State) (c : Client) (p : Pin) (k : Chan) : (s.enterWait c p k).por = s.por := rfl
@[simp] theorem State.enterWait_nrstLow (s : State) (c : Client) (p : Pin) (k : Chan) : (s.enterWait c p k).nrstLow = s.nrstLow := rfl
@[simp] theorem State.enterWait_claims (s : State) (c : Client) (p : Pin) (k : Chan) : (s.enterWait c p k).claims = s.claims := rfl
@[simp] theorem State.enterWait_claimLists (s : State) (c : Client) (p : Pin) (k : Chan) : (s.enterWait c p k).claimLists = s.claimLists := rfl
@[simp] theorem State.enterWait_claimList (s : State) (c : Client) (p : Pin) (k : Chan) (i : Pin) : (s.enterWait c p k).claimList i = s.claimList i :=
  State.claimList_congr (State.enterWait_claimLists s c p k) i
@[simp] theorem State.enterWait_policies (s : State) (c : Client) (p : Pin) (k : Chan) : (s.enterWait c p k).policies = s.policies := rfl
@[simp] theorem State.enterWait_policy (s : State) (c : Client) (p : Pin) (k : Chan) (i : Pin) : (s.enterWait c p k).policy i = s.policy i :=
  State.policy_congr (State.enterWait_policies s c p k) i
@[simp] theorem State.enterWait_pads (s : State) (c : Client) (p : Pin) (k : Chan) : (s.enterWait c p k).pads = s.pads := rfl
@[simp] theorem State.enterWait_pad (s : State) (c : Client) (p : Pin) (k : Chan) (i : Pin) : (s.enterWait c p k).pad i = s.pad i :=
  State.pad_congr (State.enterWait_pads s c p k) i
@[simp] theorem State.enterWait_channels (s : State) (c : Client) (p : Pin) (k : Chan) : (s.enterWait c p k).channels = s.channels := rfl
@[simp] theorem State.enterWait_channel (s : State) (c : Client) (p : Pin) (k : Chan) (i : Chan) : (s.enterWait c p k).channel i = s.channel i :=
  State.channel_congr (State.enterWait_channels s c p k) i
@[simp] theorem State.enterWait_watches (s : State) (c : Client) (p : Pin) (k : Chan) : (s.enterWait c p k).watches = s.watches := rfl
@[simp] theorem State.enterWait_queues (s : State) (c : Client) (p : Pin) (k : Chan) : (s.enterWait c p k).queues = s.queues := rfl
@[simp] theorem State.enterWait_queue (s : State) (c : Client) (p : Pin) (k : Chan) (i : Client) : (s.enterWait c p k).queue i = s.queue i :=
  State.queue_congr (State.enterWait_queues s c p k) i
@[simp] theorem State.enterWait_edgeOwed (s : State) (c : Client) (p : Pin) (k : Chan) : (s.enterWait c p k).edgeOwed = s.edgeOwed := rfl

/-! ## dropClaims -/

@[simp] theorem State.dropClaims_pending (s : State) (gone : Client → Pin → Bool) : (s.dropClaims gone).pending = s.pending := rfl
@[simp] theorem State.dropClaims_ports (s : State) (gone : Client → Pin → Bool) : (s.dropClaims gone).ports = s.ports := rfl
@[simp] theorem State.dropClaims_port (s : State) (gone : Client → Pin → Bool) (i : Client) : (s.dropClaims gone).port i = s.port i :=
  State.port_congr (State.dropClaims_ports s gone) i
@[simp] theorem State.dropClaims_sessions (s : State) (gone : Client → Pin → Bool) : (s.dropClaims gone).sessions = s.sessions := rfl
@[simp] theorem State.dropClaims_session (s : State) (gone : Client → Pin → Bool) (i : Client) : (s.dropClaims gone).session i = s.session i :=
  State.session_congr (State.dropClaims_sessions s gone) i
@[simp] theorem State.dropClaims_resetCause (s : State) (gone : Client → Pin → Bool) : (s.dropClaims gone).resetCause = s.resetCause := rfl
@[simp] theorem State.dropClaims_por (s : State) (gone : Client → Pin → Bool) : (s.dropClaims gone).por = s.por := rfl
@[simp] theorem State.dropClaims_nrstLow (s : State) (gone : Client → Pin → Bool) : (s.dropClaims gone).nrstLow = s.nrstLow := rfl
@[simp] theorem State.dropClaims_policies (s : State) (gone : Client → Pin → Bool) : (s.dropClaims gone).policies = s.policies := rfl
@[simp] theorem State.dropClaims_policy (s : State) (gone : Client → Pin → Bool) (i : Pin) : (s.dropClaims gone).policy i = s.policy i :=
  State.policy_congr (State.dropClaims_policies s gone) i
@[simp] theorem State.dropClaims_pads (s : State) (gone : Client → Pin → Bool) : (s.dropClaims gone).pads = s.pads := rfl
@[simp] theorem State.dropClaims_pad (s : State) (gone : Client → Pin → Bool) (i : Pin) : (s.dropClaims gone).pad i = s.pad i :=
  State.pad_congr (State.dropClaims_pads s gone) i
@[simp] theorem State.dropClaims_channels (s : State) (gone : Client → Pin → Bool) : (s.dropClaims gone).channels = s.channels := rfl
@[simp] theorem State.dropClaims_channel (s : State) (gone : Client → Pin → Bool) (i : Chan) : (s.dropClaims gone).channel i = s.channel i :=
  State.channel_congr (State.dropClaims_channels s gone) i
@[simp] theorem State.dropClaims_watches (s : State) (gone : Client → Pin → Bool) : (s.dropClaims gone).watches = s.watches := rfl
@[simp] theorem State.dropClaims_queues (s : State) (gone : Client → Pin → Bool) : (s.dropClaims gone).queues = s.queues := rfl
@[simp] theorem State.dropClaims_queue (s : State) (gone : Client → Pin → Bool) (i : Client) : (s.dropClaims gone).queue i = s.queue i :=
  State.queue_congr (State.dropClaims_queues s gone) i
@[simp] theorem State.dropClaims_edgeOwed (s : State) (gone : Client → Pin → Bool) : (s.dropClaims gone).edgeOwed = s.edgeOwed := rfl

/-! ## noteTop -/

@[simp] theorem State.noteTop_pending (b : State) (x : Option Client) (s : State) (p : Pin) : (State.noteTop b x s p).pending = s.pending := by
  unfold State.noteTop; dsimp only; (repeat' split) <;> simp
@[simp] theorem State.noteTop_sessions (b : State) (x : Option Client) (s : State) (p : Pin) : (State.noteTop b x s p).sessions = s.sessions := by
  unfold State.noteTop; dsimp only; (repeat' split) <;> simp
@[simp] theorem State.noteTop_session (b : State) (x : Option Client) (s : State) (p : Pin) (i : Client) : (State.noteTop b x s p).session i = s.session i :=
  State.session_congr (State.noteTop_sessions b x s p) i
@[simp] theorem State.noteTop_resetCause (b : State) (x : Option Client) (s : State) (p : Pin) : (State.noteTop b x s p).resetCause = s.resetCause := by
  unfold State.noteTop; dsimp only; (repeat' split) <;> simp
@[simp] theorem State.noteTop_por (b : State) (x : Option Client) (s : State) (p : Pin) : (State.noteTop b x s p).por = s.por := by
  unfold State.noteTop; dsimp only; (repeat' split) <;> simp
@[simp] theorem State.noteTop_nrstLow (b : State) (x : Option Client) (s : State) (p : Pin) : (State.noteTop b x s p).nrstLow = s.nrstLow := by
  unfold State.noteTop; dsimp only; (repeat' split) <;> simp
@[simp] theorem State.noteTop_claims (b : State) (x : Option Client) (s : State) (p : Pin) : (State.noteTop b x s p).claims = s.claims := by
  unfold State.noteTop; dsimp only; (repeat' split) <;> simp
@[simp] theorem State.noteTop_claimLists (b : State) (x : Option Client) (s : State) (p : Pin) : (State.noteTop b x s p).claimLists = s.claimLists := by
  unfold State.noteTop; dsimp only; (repeat' split) <;> simp
@[simp] theorem State.noteTop_claimList (b : State) (x : Option Client) (s : State) (p : Pin) (i : Pin) : (State.noteTop b x s p).claimList i = s.claimList i :=
  State.claimList_congr (State.noteTop_claimLists b x s p) i
@[simp] theorem State.noteTop_waitLists (b : State) (x : Option Client) (s : State) (p : Pin) : (State.noteTop b x s p).waitLists = s.waitLists := by
  unfold State.noteTop; dsimp only; (repeat' split) <;> simp
@[simp] theorem State.noteTop_waitList (b : State) (x : Option Client) (s : State) (p : Pin) (i : Chan) : (State.noteTop b x s p).waitList i = s.waitList i :=
  State.waitList_congr (State.noteTop_waitLists b x s p) i
@[simp] theorem State.noteTop_policies (b : State) (x : Option Client) (s : State) (p : Pin) : (State.noteTop b x s p).policies = s.policies := by
  unfold State.noteTop; dsimp only; (repeat' split) <;> simp
@[simp] theorem State.noteTop_policy (b : State) (x : Option Client) (s : State) (p : Pin) (i : Pin) : (State.noteTop b x s p).policy i = s.policy i :=
  State.policy_congr (State.noteTop_policies b x s p) i
@[simp] theorem State.noteTop_pads (b : State) (x : Option Client) (s : State) (p : Pin) : (State.noteTop b x s p).pads = s.pads := by
  unfold State.noteTop; dsimp only; (repeat' split) <;> simp
@[simp] theorem State.noteTop_pad (b : State) (x : Option Client) (s : State) (p : Pin) (i : Pin) : (State.noteTop b x s p).pad i = s.pad i :=
  State.pad_congr (State.noteTop_pads b x s p) i
@[simp] theorem State.noteTop_channels (b : State) (x : Option Client) (s : State) (p : Pin) : (State.noteTop b x s p).channels = s.channels := by
  unfold State.noteTop; dsimp only; (repeat' split) <;> simp
@[simp] theorem State.noteTop_channel (b : State) (x : Option Client) (s : State) (p : Pin) (i : Chan) : (State.noteTop b x s p).channel i = s.channel i :=
  State.channel_congr (State.noteTop_channels b x s p) i
@[simp] theorem State.noteTop_watches (b : State) (x : Option Client) (s : State) (p : Pin) : (State.noteTop b x s p).watches = s.watches := by
  unfold State.noteTop; dsimp only; (repeat' split) <;> simp
@[simp] theorem State.noteTop_edgeOwed (b : State) (x : Option Client) (s : State) (p : Pin) : (State.noteTop b x s p).edgeOwed = s.edgeOwed := by
  unfold State.noteTop; dsimp only; (repeat' split) <;> simp

/-! ## noteTops -/

@[simp] theorem State.noteTops_pending (b : State) (x : Option Client) (s : State) : (State.noteTops b x s).pending = s.pending :=
  foldl_keeps (g := State.pending) (fun _ _ => by simp) _ s
@[simp] theorem State.noteTops_sessions (b : State) (x : Option Client) (s : State) : (State.noteTops b x s).sessions = s.sessions :=
  foldl_keeps (g := State.sessions) (fun _ _ => by simp) _ s
@[simp] theorem State.noteTops_session (b : State) (x : Option Client) (s : State) (i : Client) : (State.noteTops b x s).session i = s.session i :=
  State.session_congr (State.noteTops_sessions b x s) i
@[simp] theorem State.noteTops_resetCause (b : State) (x : Option Client) (s : State) : (State.noteTops b x s).resetCause = s.resetCause :=
  foldl_keeps (g := State.resetCause) (fun _ _ => by simp) _ s
@[simp] theorem State.noteTops_por (b : State) (x : Option Client) (s : State) : (State.noteTops b x s).por = s.por :=
  foldl_keeps (g := State.por) (fun _ _ => by simp) _ s
@[simp] theorem State.noteTops_nrstLow (b : State) (x : Option Client) (s : State) : (State.noteTops b x s).nrstLow = s.nrstLow :=
  foldl_keeps (g := State.nrstLow) (fun _ _ => by simp) _ s
@[simp] theorem State.noteTops_claims (b : State) (x : Option Client) (s : State) : (State.noteTops b x s).claims = s.claims :=
  foldl_keeps (g := State.claims) (fun _ _ => by simp) _ s
@[simp] theorem State.noteTops_claimLists (b : State) (x : Option Client) (s : State) : (State.noteTops b x s).claimLists = s.claimLists :=
  foldl_keeps (g := State.claimLists) (fun _ _ => by simp) _ s
@[simp] theorem State.noteTops_claimList (b : State) (x : Option Client) (s : State) (i : Pin) : (State.noteTops b x s).claimList i = s.claimList i :=
  State.claimList_congr (State.noteTops_claimLists b x s) i
@[simp] theorem State.noteTops_waitLists (b : State) (x : Option Client) (s : State) : (State.noteTops b x s).waitLists = s.waitLists :=
  foldl_keeps (g := State.waitLists) (fun _ _ => by simp) _ s
@[simp] theorem State.noteTops_waitList (b : State) (x : Option Client) (s : State) (i : Chan) : (State.noteTops b x s).waitList i = s.waitList i :=
  State.waitList_congr (State.noteTops_waitLists b x s) i
@[simp] theorem State.noteTops_policies (b : State) (x : Option Client) (s : State) : (State.noteTops b x s).policies = s.policies :=
  foldl_keeps (g := State.policies) (fun _ _ => by simp) _ s
@[simp] theorem State.noteTops_policy (b : State) (x : Option Client) (s : State) (i : Pin) : (State.noteTops b x s).policy i = s.policy i :=
  State.policy_congr (State.noteTops_policies b x s) i
@[simp] theorem State.noteTops_pads (b : State) (x : Option Client) (s : State) : (State.noteTops b x s).pads = s.pads :=
  foldl_keeps (g := State.pads) (fun _ _ => by simp) _ s
@[simp] theorem State.noteTops_pad (b : State) (x : Option Client) (s : State) (i : Pin) : (State.noteTops b x s).pad i = s.pad i :=
  State.pad_congr (State.noteTops_pads b x s) i
@[simp] theorem State.noteTops_channels (b : State) (x : Option Client) (s : State) : (State.noteTops b x s).channels = s.channels :=
  foldl_keeps (g := State.channels) (fun _ _ => by simp) _ s
@[simp] theorem State.noteTops_channel (b : State) (x : Option Client) (s : State) (i : Chan) : (State.noteTops b x s).channel i = s.channel i :=
  State.channel_congr (State.noteTops_channels b x s) i
@[simp] theorem State.noteTops_watches (b : State) (x : Option Client) (s : State) : (State.noteTops b x s).watches = s.watches :=
  foldl_keeps (g := State.watches) (fun _ _ => by simp) _ s
@[simp] theorem State.noteTops_edgeOwed (b : State) (x : Option Client) (s : State) : (State.noteTops b x s).edgeOwed = s.edgeOwed :=
  foldl_keeps (g := State.edgeOwed) (fun _ _ => by simp) _ s

/-! ## resolvePads -/

@[simp] theorem State.resolvePads_pending (s : State) : (s.resolvePads).pending = s.pending :=
  by simp [State.resolvePads]
@[simp] theorem State.resolvePads_ports (s : State) : (s.resolvePads).ports = s.ports :=
  by simp [State.resolvePads]
@[simp] theorem State.resolvePads_port (s : State) (i : Client) : (s.resolvePads).port i = s.port i :=
  State.port_congr (State.resolvePads_ports s) i
@[simp] theorem State.resolvePads_sessions (s : State) : (s.resolvePads).sessions = s.sessions :=
  by simp [State.resolvePads]
@[simp] theorem State.resolvePads_session (s : State) (i : Client) : (s.resolvePads).session i = s.session i :=
  State.session_congr (State.resolvePads_sessions s) i
@[simp] theorem State.resolvePads_resetCause (s : State) : (s.resolvePads).resetCause = s.resetCause :=
  by simp [State.resolvePads]
@[simp] theorem State.resolvePads_por (s : State) : (s.resolvePads).por = s.por :=
  by simp [State.resolvePads]
@[simp] theorem State.resolvePads_nrstLow (s : State) : (s.resolvePads).nrstLow = s.nrstLow :=
  by simp [State.resolvePads]
@[simp] theorem State.resolvePads_claims (s : State) : (s.resolvePads).claims = s.claims :=
  by simp [State.resolvePads]
@[simp] theorem State.resolvePads_claimLists (s : State) : (s.resolvePads).claimLists = s.claimLists :=
  by simp [State.resolvePads]
@[simp] theorem State.resolvePads_claimList (s : State) (i : Pin) : (s.resolvePads).claimList i = s.claimList i :=
  State.claimList_congr (State.resolvePads_claimLists s) i
@[simp] theorem State.resolvePads_waitLists (s : State) : (s.resolvePads).waitLists = s.waitLists :=
  by simp [State.resolvePads]
@[simp] theorem State.resolvePads_waitList (s : State) (i : Chan) : (s.resolvePads).waitList i = s.waitList i :=
  State.waitList_congr (State.resolvePads_waitLists s) i
@[simp] theorem State.resolvePads_policies (s : State) : (s.resolvePads).policies = s.policies :=
  by simp [State.resolvePads]
@[simp] theorem State.resolvePads_policy (s : State) (i : Pin) : (s.resolvePads).policy i = s.policy i :=
  State.policy_congr (State.resolvePads_policies s) i
@[simp] theorem State.resolvePads_channels (s : State) : (s.resolvePads).channels = s.channels :=
  by simp [State.resolvePads]
@[simp] theorem State.resolvePads_channel (s : State) (i : Chan) : (s.resolvePads).channel i = s.channel i :=
  State.channel_congr (State.resolvePads_channels s) i
@[simp] theorem State.resolvePads_watches (s : State) : (s.resolvePads).watches = s.watches :=
  by simp [State.resolvePads]
@[simp] theorem State.resolvePads_queues (s : State) : (s.resolvePads).queues = s.queues :=
  by simp [State.resolvePads]
@[simp] theorem State.resolvePads_queue (s : State) (i : Client) : (s.resolvePads).queue i = s.queue i :=
  State.queue_congr (State.resolvePads_queues s) i
@[simp] theorem State.resolvePads_edgeOwed (s : State) : (s.resolvePads).edgeOwed = s.edgeOwed :=
  by simp [State.resolvePads]

/-! ## takeEdge -/

@[simp] theorem State.takeEdge_pending (s : State) (p : Pin) : (s.takeEdge p).pending = s.pending :=
  by simp [State.takeEdge]
@[simp] theorem State.takeEdge_sessions (s : State) (p : Pin) : (s.takeEdge p).sessions = s.sessions :=
  by simp [State.takeEdge]
@[simp] theorem State.takeEdge_session (s : State) (p : Pin) (i : Client) : (s.takeEdge p).session i = s.session i :=
  State.session_congr (State.takeEdge_sessions s p) i
@[simp] theorem State.takeEdge_resetCause (s : State) (p : Pin) : (s.takeEdge p).resetCause = s.resetCause :=
  by simp [State.takeEdge]
@[simp] theorem State.takeEdge_por (s : State) (p : Pin) : (s.takeEdge p).por = s.por :=
  by simp [State.takeEdge]
@[simp] theorem State.takeEdge_nrstLow (s : State) (p : Pin) : (s.takeEdge p).nrstLow = s.nrstLow :=
  by simp [State.takeEdge]
@[simp] theorem State.takeEdge_claims (s : State) (p : Pin) : (s.takeEdge p).claims = s.claims :=
  by simp [State.takeEdge]
@[simp] theorem State.takeEdge_claimLists (s : State) (p : Pin) : (s.takeEdge p).claimLists = s.claimLists :=
  by simp [State.takeEdge]
@[simp] theorem State.takeEdge_claimList (s : State) (p : Pin) (i : Pin) : (s.takeEdge p).claimList i = s.claimList i :=
  State.claimList_congr (State.takeEdge_claimLists s p) i
@[simp] theorem State.takeEdge_waitLists (s : State) (p : Pin) : (s.takeEdge p).waitLists = s.waitLists :=
  by simp [State.takeEdge]
@[simp] theorem State.takeEdge_waitList (s : State) (p : Pin) (i : Chan) : (s.takeEdge p).waitList i = s.waitList i :=
  State.waitList_congr (State.takeEdge_waitLists s p) i
@[simp] theorem State.takeEdge_policies (s : State) (p : Pin) : (s.takeEdge p).policies = s.policies :=
  by simp [State.takeEdge]
@[simp] theorem State.takeEdge_policy (s : State) (p : Pin) (i : Pin) : (s.takeEdge p).policy i = s.policy i :=
  State.policy_congr (State.takeEdge_policies s p) i
@[simp] theorem State.takeEdge_watches (s : State) (p : Pin) : (s.takeEdge p).watches = s.watches :=
  by simp [State.takeEdge]
@[simp] theorem State.takeEdge_edgeOwed (s : State) (p : Pin) : (s.takeEdge p).edgeOwed = s.edgeOwed :=
  by simp [State.takeEdge]

/-! ## beginEdge -/

@[simp] theorem State.beginEdge_pending (s : State) (p : Pin) : (s.beginEdge p).pending = s.pending := by
  simp only [State.beginEdge, State.mapChannels_pending, State.setPad_pending]
@[simp] theorem State.beginEdge_ports (s : State) (p : Pin) : (s.beginEdge p).ports = s.ports := by
  simp only [State.beginEdge, State.mapChannels_ports, State.setPad_ports]
@[simp] theorem State.beginEdge_port (s : State) (p : Pin) (i : Client) : (s.beginEdge p).port i = s.port i :=
  State.port_congr (State.beginEdge_ports s p) i
@[simp] theorem State.beginEdge_sessions (s : State) (p : Pin) : (s.beginEdge p).sessions = s.sessions := by
  simp only [State.beginEdge, State.mapChannels_sessions, State.setPad_sessions]
@[simp] theorem State.beginEdge_session (s : State) (p : Pin) (i : Client) : (s.beginEdge p).session i = s.session i :=
  State.session_congr (State.beginEdge_sessions s p) i
@[simp] theorem State.beginEdge_resetCause (s : State) (p : Pin) : (s.beginEdge p).resetCause = s.resetCause := by
  simp only [State.beginEdge, State.mapChannels_resetCause, State.setPad_resetCause]
@[simp] theorem State.beginEdge_por (s : State) (p : Pin) : (s.beginEdge p).por = s.por := by
  simp only [State.beginEdge, State.mapChannels_por, State.setPad_por]
@[simp] theorem State.beginEdge_nrstLow (s : State) (p : Pin) : (s.beginEdge p).nrstLow = s.nrstLow := by
  simp only [State.beginEdge, State.mapChannels_nrstLow, State.setPad_nrstLow]
@[simp] theorem State.beginEdge_claims (s : State) (p : Pin) : (s.beginEdge p).claims = s.claims := by
  simp only [State.beginEdge, State.mapChannels_claims, State.setPad_claims]
@[simp] theorem State.beginEdge_claimLists (s : State) (p : Pin) : (s.beginEdge p).claimLists = s.claimLists := by
  simp only [State.beginEdge, State.mapChannels_claimLists, State.setPad_claimLists]
@[simp] theorem State.beginEdge_claimList (s : State) (p : Pin) (i : Pin) : (s.beginEdge p).claimList i = s.claimList i :=
  State.claimList_congr (State.beginEdge_claimLists s p) i
@[simp] theorem State.beginEdge_waitLists (s : State) (p : Pin) : (s.beginEdge p).waitLists = s.waitLists := by
  simp only [State.beginEdge, State.mapChannels_waitLists, State.setPad_waitLists]
@[simp] theorem State.beginEdge_waitList (s : State) (p : Pin) (i : Chan) : (s.beginEdge p).waitList i = s.waitList i :=
  State.waitList_congr (State.beginEdge_waitLists s p) i
@[simp] theorem State.beginEdge_policies (s : State) (p : Pin) : (s.beginEdge p).policies = s.policies := by
  simp only [State.beginEdge, State.mapChannels_policies, State.setPad_policies]
@[simp] theorem State.beginEdge_policy (s : State) (p : Pin) (i : Pin) : (s.beginEdge p).policy i = s.policy i :=
  State.policy_congr (State.beginEdge_policies s p) i
@[simp] theorem State.beginEdge_watches (s : State) (p : Pin) : (s.beginEdge p).watches = s.watches := by
  simp only [State.beginEdge, State.mapChannels_watches, State.setPad_watches]
@[simp] theorem State.beginEdge_queues (s : State) (p : Pin) : (s.beginEdge p).queues = s.queues := by
  simp only [State.beginEdge, State.mapChannels_queues, State.setPad_queues]
@[simp] theorem State.beginEdge_queue (s : State) (p : Pin) (i : Client) : (s.beginEdge p).queue i = s.queue i :=
  State.queue_congr (State.beginEdge_queues s p) i

/-! ## endEdge -/

@[simp] theorem State.endEdge_pending (s : State) : (s.endEdge).pending = s.pending := by
  unfold State.endEdge; split
  · rfl
  · simp only [State.placeAll_pending]
@[simp] theorem State.endEdge_sessions (s : State) : (s.endEdge).sessions = s.sessions := by
  unfold State.endEdge; split
  · rfl
  · simp only [State.placeAll_sessions]
@[simp] theorem State.endEdge_session (s : State) (i : Client) : (s.endEdge).session i = s.session i :=
  State.session_congr (State.endEdge_sessions s) i
@[simp] theorem State.endEdge_resetCause (s : State) : (s.endEdge).resetCause = s.resetCause := by
  unfold State.endEdge; split
  · rfl
  · simp only [State.placeAll_resetCause]
@[simp] theorem State.endEdge_por (s : State) : (s.endEdge).por = s.por := by
  unfold State.endEdge; split
  · rfl
  · simp only [State.placeAll_por]
@[simp] theorem State.endEdge_nrstLow (s : State) : (s.endEdge).nrstLow = s.nrstLow := by
  unfold State.endEdge; split
  · rfl
  · simp only [State.placeAll_nrstLow]
@[simp] theorem State.endEdge_claims (s : State) : (s.endEdge).claims = s.claims := by
  unfold State.endEdge; split
  · rfl
  · simp only [State.placeAll_claims]
@[simp] theorem State.endEdge_claimLists (s : State) : (s.endEdge).claimLists = s.claimLists := by
  unfold State.endEdge; split
  · rfl
  · simp only [State.placeAll_claimLists]
@[simp] theorem State.endEdge_claimList (s : State) (i : Pin) : (s.endEdge).claimList i = s.claimList i :=
  State.claimList_congr (State.endEdge_claimLists s) i
@[simp] theorem State.endEdge_waitLists (s : State) : (s.endEdge).waitLists = s.waitLists := by
  unfold State.endEdge; split
  · rfl
  · simp only [State.placeAll_waitLists]
@[simp] theorem State.endEdge_waitList (s : State) (i : Chan) : (s.endEdge).waitList i = s.waitList i :=
  State.waitList_congr (State.endEdge_waitLists s) i
@[simp] theorem State.endEdge_policies (s : State) : (s.endEdge).policies = s.policies := by
  unfold State.endEdge; split
  · rfl
  · simp only [State.placeAll_policies]
@[simp] theorem State.endEdge_policy (s : State) (i : Pin) : (s.endEdge).policy i = s.policy i :=
  State.policy_congr (State.endEdge_policies s) i
@[simp] theorem State.endEdge_pads (s : State) : (s.endEdge).pads = s.pads := by
  unfold State.endEdge; split
  · rfl
  · simp only [State.placeAll_pads]
@[simp] theorem State.endEdge_pad (s : State) (i : Pin) : (s.endEdge).pad i = s.pad i :=
  State.pad_congr (State.endEdge_pads s) i
@[simp] theorem State.endEdge_channels (s : State) : (s.endEdge).channels = s.channels := by
  unfold State.endEdge; split
  · rfl
  · simp only [State.placeAll_channels]
@[simp] theorem State.endEdge_channel (s : State) (i : Chan) : (s.endEdge).channel i = s.channel i :=
  State.channel_congr (State.endEdge_channels s) i
@[simp] theorem State.endEdge_watches (s : State) : (s.endEdge).watches = s.watches := by
  unfold State.endEdge; split
  · rfl
  · simp only [State.placeAll_watches]

/-! ## follow -/

@[simp] theorem State.follow_pending (s : State) (p : Pin) : (s.follow p).pending = s.pending := by
  unfold State.follow; (repeat' split) <;> simp
@[simp] theorem State.follow_sessions (s : State) (p : Pin) : (s.follow p).sessions = s.sessions := by
  unfold State.follow; (repeat' split) <;> simp
@[simp] theorem State.follow_session (s : State) (p : Pin) (i : Client) : (s.follow p).session i = s.session i :=
  State.session_congr (State.follow_sessions s p) i
@[simp] theorem State.follow_resetCause (s : State) (p : Pin) : (s.follow p).resetCause = s.resetCause := by
  unfold State.follow; (repeat' split) <;> simp
@[simp] theorem State.follow_por (s : State) (p : Pin) : (s.follow p).por = s.por := by
  unfold State.follow; (repeat' split) <;> simp
@[simp] theorem State.follow_nrstLow (s : State) (p : Pin) : (s.follow p).nrstLow = s.nrstLow := by
  unfold State.follow; (repeat' split) <;> simp
@[simp] theorem State.follow_claims (s : State) (p : Pin) : (s.follow p).claims = s.claims := by
  unfold State.follow; (repeat' split) <;> simp
@[simp] theorem State.follow_claimLists (s : State) (p : Pin) : (s.follow p).claimLists = s.claimLists := by
  unfold State.follow; (repeat' split) <;> simp
@[simp] theorem State.follow_claimList (s : State) (p : Pin) (i : Pin) : (s.follow p).claimList i = s.claimList i :=
  State.claimList_congr (State.follow_claimLists s p) i
@[simp] theorem State.follow_waitLists (s : State) (p : Pin) : (s.follow p).waitLists = s.waitLists := by
  unfold State.follow; (repeat' split) <;> simp
@[simp] theorem State.follow_waitList (s : State) (p : Pin) (i : Chan) : (s.follow p).waitList i = s.waitList i :=
  State.waitList_congr (State.follow_waitLists s p) i
@[simp] theorem State.follow_policies (s : State) (p : Pin) : (s.follow p).policies = s.policies := by
  unfold State.follow; (repeat' split) <;> simp
@[simp] theorem State.follow_policy (s : State) (p : Pin) (i : Pin) : (s.follow p).policy i = s.policy i :=
  State.policy_congr (State.follow_policies s p) i
@[simp] theorem State.follow_watches (s : State) (p : Pin) : (s.follow p).watches = s.watches := by
  unfold State.follow; (repeat' split) <;> simp
@[simp] theorem State.follow_edgeOwed (s : State) (p : Pin) : (s.follow p).edgeOwed = s.edgeOwed := by
  unfold State.follow; (repeat' split) <;> simp

/-! ## followBut -/

@[simp] theorem State.followBut_pending (s : State) (p : Pin) : (s.followBut p).pending = s.pending :=
  foldl_keeps (g := State.pending) (fun _ _ => by simp) _ s
@[simp] theorem State.followBut_sessions (s : State) (p : Pin) : (s.followBut p).sessions = s.sessions :=
  foldl_keeps (g := State.sessions) (fun _ _ => by simp) _ s
@[simp] theorem State.followBut_session (s : State) (p : Pin) (i : Client) : (s.followBut p).session i = s.session i :=
  State.session_congr (State.followBut_sessions s p) i
@[simp] theorem State.followBut_resetCause (s : State) (p : Pin) : (s.followBut p).resetCause = s.resetCause :=
  foldl_keeps (g := State.resetCause) (fun _ _ => by simp) _ s
@[simp] theorem State.followBut_por (s : State) (p : Pin) : (s.followBut p).por = s.por :=
  foldl_keeps (g := State.por) (fun _ _ => by simp) _ s
@[simp] theorem State.followBut_nrstLow (s : State) (p : Pin) : (s.followBut p).nrstLow = s.nrstLow :=
  foldl_keeps (g := State.nrstLow) (fun _ _ => by simp) _ s
@[simp] theorem State.followBut_claims (s : State) (p : Pin) : (s.followBut p).claims = s.claims :=
  foldl_keeps (g := State.claims) (fun _ _ => by simp) _ s
@[simp] theorem State.followBut_claimLists (s : State) (p : Pin) : (s.followBut p).claimLists = s.claimLists :=
  foldl_keeps (g := State.claimLists) (fun _ _ => by simp) _ s
@[simp] theorem State.followBut_claimList (s : State) (p : Pin) (i : Pin) : (s.followBut p).claimList i = s.claimList i :=
  State.claimList_congr (State.followBut_claimLists s p) i
@[simp] theorem State.followBut_waitLists (s : State) (p : Pin) : (s.followBut p).waitLists = s.waitLists :=
  foldl_keeps (g := State.waitLists) (fun _ _ => by simp) _ s
@[simp] theorem State.followBut_waitList (s : State) (p : Pin) (i : Chan) : (s.followBut p).waitList i = s.waitList i :=
  State.waitList_congr (State.followBut_waitLists s p) i
@[simp] theorem State.followBut_policies (s : State) (p : Pin) : (s.followBut p).policies = s.policies :=
  foldl_keeps (g := State.policies) (fun _ _ => by simp) _ s
@[simp] theorem State.followBut_policy (s : State) (p : Pin) (i : Pin) : (s.followBut p).policy i = s.policy i :=
  State.policy_congr (State.followBut_policies s p) i
@[simp] theorem State.followBut_watches (s : State) (p : Pin) : (s.followBut p).watches = s.watches :=
  foldl_keeps (g := State.watches) (fun _ _ => by simp) _ s
@[simp] theorem State.followBut_edgeOwed (s : State) (p : Pin) : (s.followBut p).edgeOwed = s.edgeOwed :=
  foldl_keeps (g := State.edgeOwed) (fun _ _ => by simp) _ s

/-! ## settle -/

@[simp] theorem State.settle_pending (s : State) : (s.settle).pending = s.pending := by
  unfold State.settle; split
  · rfl
  · rw [foldl_keeps (g := State.pending) (fun _ _ => by simp), State.endEdge_pending]
@[simp] theorem State.settle_sessions (s : State) : (s.settle).sessions = s.sessions := by
  unfold State.settle; split
  · rfl
  · rw [foldl_keeps (g := State.sessions) (fun _ _ => by simp), State.endEdge_sessions]
@[simp] theorem State.settle_session (s : State) (i : Client) : (s.settle).session i = s.session i :=
  State.session_congr (State.settle_sessions s) i
@[simp] theorem State.settle_resetCause (s : State) : (s.settle).resetCause = s.resetCause := by
  unfold State.settle; split
  · rfl
  · rw [foldl_keeps (g := State.resetCause) (fun _ _ => by simp), State.endEdge_resetCause]
@[simp] theorem State.settle_por (s : State) : (s.settle).por = s.por := by
  unfold State.settle; split
  · rfl
  · rw [foldl_keeps (g := State.por) (fun _ _ => by simp), State.endEdge_por]
@[simp] theorem State.settle_nrstLow (s : State) : (s.settle).nrstLow = s.nrstLow := by
  unfold State.settle; split
  · rfl
  · rw [foldl_keeps (g := State.nrstLow) (fun _ _ => by simp), State.endEdge_nrstLow]
@[simp] theorem State.settle_claims (s : State) : (s.settle).claims = s.claims := by
  unfold State.settle; split
  · rfl
  · rw [foldl_keeps (g := State.claims) (fun _ _ => by simp), State.endEdge_claims]
@[simp] theorem State.settle_claimLists (s : State) : (s.settle).claimLists = s.claimLists := by
  unfold State.settle; split
  · rfl
  · rw [foldl_keeps (g := State.claimLists) (fun _ _ => by simp), State.endEdge_claimLists]
@[simp] theorem State.settle_claimList (s : State) (i : Pin) : (s.settle).claimList i = s.claimList i :=
  State.claimList_congr (State.settle_claimLists s) i
@[simp] theorem State.settle_waitLists (s : State) : (s.settle).waitLists = s.waitLists := by
  unfold State.settle; split
  · rfl
  · rw [foldl_keeps (g := State.waitLists) (fun _ _ => by simp), State.endEdge_waitLists]
@[simp] theorem State.settle_waitList (s : State) (i : Chan) : (s.settle).waitList i = s.waitList i :=
  State.waitList_congr (State.settle_waitLists s) i
@[simp] theorem State.settle_policies (s : State) : (s.settle).policies = s.policies := by
  unfold State.settle; split
  · rfl
  · rw [foldl_keeps (g := State.policies) (fun _ _ => by simp), State.endEdge_policies]
@[simp] theorem State.settle_policy (s : State) (i : Pin) : (s.settle).policy i = s.policy i :=
  State.policy_congr (State.settle_policies s) i
@[simp] theorem State.settle_watches (s : State) : (s.settle).watches = s.watches := by
  unfold State.settle; split
  · rfl
  · rw [foldl_keeps (g := State.watches) (fun _ _ => by simp), State.endEdge_watches]

/-! ## noteSource -/

@[simp] theorem State.noteSource_pending (s : State) (k : Chan) (excl : Option Client) : (s.noteSource k excl).pending = s.pending :=
  by simp [State.noteSource]
@[simp] theorem State.noteSource_sessions (s : State) (k : Chan) (excl : Option Client) : (s.noteSource k excl).sessions = s.sessions :=
  by simp [State.noteSource]
@[simp] theorem State.noteSource_session (s : State) (k : Chan) (excl : Option Client) (i : Client) : (s.noteSource k excl).session i = s.session i :=
  State.session_congr (State.noteSource_sessions s k excl) i
@[simp] theorem State.noteSource_resetCause (s : State) (k : Chan) (excl : Option Client) : (s.noteSource k excl).resetCause = s.resetCause :=
  by simp [State.noteSource]
@[simp] theorem State.noteSource_por (s : State) (k : Chan) (excl : Option Client) : (s.noteSource k excl).por = s.por :=
  by simp [State.noteSource]
@[simp] theorem State.noteSource_nrstLow (s : State) (k : Chan) (excl : Option Client) : (s.noteSource k excl).nrstLow = s.nrstLow :=
  by simp [State.noteSource]
@[simp] theorem State.noteSource_claims (s : State) (k : Chan) (excl : Option Client) : (s.noteSource k excl).claims = s.claims :=
  by simp [State.noteSource]
@[simp] theorem State.noteSource_claimLists (s : State) (k : Chan) (excl : Option Client) : (s.noteSource k excl).claimLists = s.claimLists :=
  by simp [State.noteSource]
@[simp] theorem State.noteSource_claimList (s : State) (k : Chan) (excl : Option Client) (i : Pin) : (s.noteSource k excl).claimList i = s.claimList i :=
  State.claimList_congr (State.noteSource_claimLists s k excl) i
@[simp] theorem State.noteSource_waitLists (s : State) (k : Chan) (excl : Option Client) : (s.noteSource k excl).waitLists = s.waitLists :=
  by simp [State.noteSource]
@[simp] theorem State.noteSource_waitList (s : State) (k : Chan) (excl : Option Client) (i : Chan) : (s.noteSource k excl).waitList i = s.waitList i :=
  State.waitList_congr (State.noteSource_waitLists s k excl) i
@[simp] theorem State.noteSource_policies (s : State) (k : Chan) (excl : Option Client) : (s.noteSource k excl).policies = s.policies :=
  by simp [State.noteSource]
@[simp] theorem State.noteSource_policy (s : State) (k : Chan) (excl : Option Client) (i : Pin) : (s.noteSource k excl).policy i = s.policy i :=
  State.policy_congr (State.noteSource_policies s k excl) i
@[simp] theorem State.noteSource_pads (s : State) (k : Chan) (excl : Option Client) : (s.noteSource k excl).pads = s.pads :=
  by simp [State.noteSource]
@[simp] theorem State.noteSource_pad (s : State) (k : Chan) (excl : Option Client) (i : Pin) : (s.noteSource k excl).pad i = s.pad i :=
  State.pad_congr (State.noteSource_pads s k excl) i
@[simp] theorem State.noteSource_channels (s : State) (k : Chan) (excl : Option Client) : (s.noteSource k excl).channels = s.channels :=
  by simp [State.noteSource]
@[simp] theorem State.noteSource_channel (s : State) (k : Chan) (excl : Option Client) (i : Chan) : (s.noteSource k excl).channel i = s.channel i :=
  State.channel_congr (State.noteSource_channels s k excl) i
@[simp] theorem State.noteSource_watches (s : State) (k : Chan) (excl : Option Client) : (s.noteSource k excl).watches = s.watches :=
  by simp [State.noteSource]
@[simp] theorem State.noteSource_edgeOwed (s : State) (k : Chan) (excl : Option Client) : (s.noteSource k excl).edgeOwed = s.edgeOwed :=
  by simp [State.noteSource]

/-! ## noteOwner -/

@[simp] theorem State.noteOwner_pending (s : State) (k : Chan) (n : Notice) : (s.noteOwner k n).pending = s.pending := by
  unfold State.noteOwner; (repeat' split) <;> simp
@[simp] theorem State.noteOwner_sessions (s : State) (k : Chan) (n : Notice) : (s.noteOwner k n).sessions = s.sessions := by
  unfold State.noteOwner; (repeat' split) <;> simp
@[simp] theorem State.noteOwner_session (s : State) (k : Chan) (n : Notice) (i : Client) : (s.noteOwner k n).session i = s.session i :=
  State.session_congr (State.noteOwner_sessions s k n) i
@[simp] theorem State.noteOwner_resetCause (s : State) (k : Chan) (n : Notice) : (s.noteOwner k n).resetCause = s.resetCause := by
  unfold State.noteOwner; (repeat' split) <;> simp
@[simp] theorem State.noteOwner_por (s : State) (k : Chan) (n : Notice) : (s.noteOwner k n).por = s.por := by
  unfold State.noteOwner; (repeat' split) <;> simp
@[simp] theorem State.noteOwner_nrstLow (s : State) (k : Chan) (n : Notice) : (s.noteOwner k n).nrstLow = s.nrstLow := by
  unfold State.noteOwner; (repeat' split) <;> simp
@[simp] theorem State.noteOwner_claims (s : State) (k : Chan) (n : Notice) : (s.noteOwner k n).claims = s.claims := by
  unfold State.noteOwner; (repeat' split) <;> simp
@[simp] theorem State.noteOwner_claimLists (s : State) (k : Chan) (n : Notice) : (s.noteOwner k n).claimLists = s.claimLists := by
  unfold State.noteOwner; (repeat' split) <;> simp
@[simp] theorem State.noteOwner_claimList (s : State) (k : Chan) (n : Notice) (i : Pin) : (s.noteOwner k n).claimList i = s.claimList i :=
  State.claimList_congr (State.noteOwner_claimLists s k n) i
@[simp] theorem State.noteOwner_waitLists (s : State) (k : Chan) (n : Notice) : (s.noteOwner k n).waitLists = s.waitLists := by
  unfold State.noteOwner; (repeat' split) <;> simp
@[simp] theorem State.noteOwner_waitList (s : State) (k : Chan) (n : Notice) (i : Chan) : (s.noteOwner k n).waitList i = s.waitList i :=
  State.waitList_congr (State.noteOwner_waitLists s k n) i
@[simp] theorem State.noteOwner_policies (s : State) (k : Chan) (n : Notice) : (s.noteOwner k n).policies = s.policies := by
  unfold State.noteOwner; (repeat' split) <;> simp
@[simp] theorem State.noteOwner_policy (s : State) (k : Chan) (n : Notice) (i : Pin) : (s.noteOwner k n).policy i = s.policy i :=
  State.policy_congr (State.noteOwner_policies s k n) i
@[simp] theorem State.noteOwner_pads (s : State) (k : Chan) (n : Notice) : (s.noteOwner k n).pads = s.pads := by
  unfold State.noteOwner; (repeat' split) <;> simp
@[simp] theorem State.noteOwner_pad (s : State) (k : Chan) (n : Notice) (i : Pin) : (s.noteOwner k n).pad i = s.pad i :=
  State.pad_congr (State.noteOwner_pads s k n) i
@[simp] theorem State.noteOwner_channels (s : State) (k : Chan) (n : Notice) : (s.noteOwner k n).channels = s.channels := by
  unfold State.noteOwner; (repeat' split) <;> simp
@[simp] theorem State.noteOwner_channel (s : State) (k : Chan) (n : Notice) (i : Chan) : (s.noteOwner k n).channel i = s.channel i :=
  State.channel_congr (State.noteOwner_channels s k n) i
@[simp] theorem State.noteOwner_watches (s : State) (k : Chan) (n : Notice) : (s.noteOwner k n).watches = s.watches := by
  unfold State.noteOwner; (repeat' split) <;> simp
@[simp] theorem State.noteOwner_edgeOwed (s : State) (k : Chan) (n : Notice) : (s.noteOwner k n).edgeOwed = s.edgeOwed := by
  unfold State.noteOwner; (repeat' split) <;> simp

/-! ## activateOne -/

@[simp] theorem State.activateOne_pending (s : State) (id : Client × Pin) : (s.activateOne id).pending = s.pending := by
  unfold State.activateOne; dsimp only; (repeat' split) <;> simp
@[simp] theorem State.activateOne_ports (s : State) (id : Client × Pin) : (s.activateOne id).ports = s.ports := by
  unfold State.activateOne; dsimp only; (repeat' split) <;> simp
@[simp] theorem State.activateOne_port (s : State) (id : Client × Pin) (i : Client) : (s.activateOne id).port i = s.port i :=
  State.port_congr (State.activateOne_ports s id) i
@[simp] theorem State.activateOne_sessions (s : State) (id : Client × Pin) : (s.activateOne id).sessions = s.sessions := by
  unfold State.activateOne; dsimp only; (repeat' split) <;> simp
@[simp] theorem State.activateOne_session (s : State) (id : Client × Pin) (i : Client) : (s.activateOne id).session i = s.session i :=
  State.session_congr (State.activateOne_sessions s id) i
@[simp] theorem State.activateOne_resetCause (s : State) (id : Client × Pin) : (s.activateOne id).resetCause = s.resetCause := by
  unfold State.activateOne; dsimp only; (repeat' split) <;> simp
@[simp] theorem State.activateOne_por (s : State) (id : Client × Pin) : (s.activateOne id).por = s.por := by
  unfold State.activateOne; dsimp only; (repeat' split) <;> simp
@[simp] theorem State.activateOne_nrstLow (s : State) (id : Client × Pin) : (s.activateOne id).nrstLow = s.nrstLow := by
  unfold State.activateOne; dsimp only; (repeat' split) <;> simp
@[simp] theorem State.activateOne_waitLists (s : State) (id : Client × Pin) : (s.activateOne id).waitLists = s.waitLists := by
  unfold State.activateOne; dsimp only; (repeat' split) <;> simp
@[simp] theorem State.activateOne_waitList (s : State) (id : Client × Pin) (i : Chan) : (s.activateOne id).waitList i = s.waitList i :=
  State.waitList_congr (State.activateOne_waitLists s id) i
@[simp] theorem State.activateOne_policies (s : State) (id : Client × Pin) : (s.activateOne id).policies = s.policies := by
  unfold State.activateOne; dsimp only; (repeat' split) <;> simp
@[simp] theorem State.activateOne_policy (s : State) (id : Client × Pin) (i : Pin) : (s.activateOne id).policy i = s.policy i :=
  State.policy_congr (State.activateOne_policies s id) i
@[simp] theorem State.activateOne_pads (s : State) (id : Client × Pin) : (s.activateOne id).pads = s.pads := by
  unfold State.activateOne; dsimp only; (repeat' split) <;> simp
@[simp] theorem State.activateOne_pad (s : State) (id : Client × Pin) (i : Pin) : (s.activateOne id).pad i = s.pad i :=
  State.pad_congr (State.activateOne_pads s id) i
@[simp] theorem State.activateOne_channels (s : State) (id : Client × Pin) : (s.activateOne id).channels = s.channels := by
  unfold State.activateOne; dsimp only; (repeat' split) <;> simp
@[simp] theorem State.activateOne_channel (s : State) (id : Client × Pin) (i : Chan) : (s.activateOne id).channel i = s.channel i :=
  State.channel_congr (State.activateOne_channels s id) i
@[simp] theorem State.activateOne_watches (s : State) (id : Client × Pin) : (s.activateOne id).watches = s.watches := by
  unfold State.activateOne; dsimp only; (repeat' split) <;> simp
@[simp] theorem State.activateOne_queues (s : State) (id : Client × Pin) : (s.activateOne id).queues = s.queues := by
  unfold State.activateOne; dsimp only; (repeat' split) <;> simp
@[simp] theorem State.activateOne_queue (s : State) (id : Client × Pin) (i : Client) : (s.activateOne id).queue i = s.queue i :=
  State.queue_congr (State.activateOne_queues s id) i
@[simp] theorem State.activateOne_edgeOwed (s : State) (id : Client × Pin) : (s.activateOne id).edgeOwed = s.edgeOwed := by
  unfold State.activateOne; dsimp only; (repeat' split) <;> simp

/-! ## activate -/

@[simp] theorem State.activate_pending (s : State) (k : Chan) : (s.activate k).pending = s.pending := by
  unfold State.activate
  rw [State.noteTops_pending, foldl_keeps (g := State.pending) (fun _ _ => by simp)]; rfl
@[simp] theorem State.activate_sessions (s : State) (k : Chan) : (s.activate k).sessions = s.sessions := by
  unfold State.activate
  rw [State.noteTops_sessions, foldl_keeps (g := State.sessions) (fun _ _ => by simp)]; rfl
@[simp] theorem State.activate_session (s : State) (k : Chan) (i : Client) : (s.activate k).session i = s.session i :=
  State.session_congr (State.activate_sessions s k) i
@[simp] theorem State.activate_resetCause (s : State) (k : Chan) : (s.activate k).resetCause = s.resetCause := by
  unfold State.activate
  rw [State.noteTops_resetCause, foldl_keeps (g := State.resetCause) (fun _ _ => by simp)]; rfl
@[simp] theorem State.activate_por (s : State) (k : Chan) : (s.activate k).por = s.por := by
  unfold State.activate
  rw [State.noteTops_por, foldl_keeps (g := State.por) (fun _ _ => by simp)]; rfl
@[simp] theorem State.activate_nrstLow (s : State) (k : Chan) : (s.activate k).nrstLow = s.nrstLow := by
  unfold State.activate
  rw [State.noteTops_nrstLow, foldl_keeps (g := State.nrstLow) (fun _ _ => by simp)]; rfl
@[simp] theorem State.activate_policies (s : State) (k : Chan) : (s.activate k).policies = s.policies := by
  unfold State.activate
  rw [State.noteTops_policies, foldl_keeps (g := State.policies) (fun _ _ => by simp)]; rfl
@[simp] theorem State.activate_policy (s : State) (k : Chan) (i : Pin) : (s.activate k).policy i = s.policy i :=
  State.policy_congr (State.activate_policies s k) i
@[simp] theorem State.activate_pads (s : State) (k : Chan) : (s.activate k).pads = s.pads := by
  unfold State.activate
  rw [State.noteTops_pads, foldl_keeps (g := State.pads) (fun _ _ => by simp)]; rfl
@[simp] theorem State.activate_pad (s : State) (k : Chan) (i : Pin) : (s.activate k).pad i = s.pad i :=
  State.pad_congr (State.activate_pads s k) i
@[simp] theorem State.activate_channels (s : State) (k : Chan) : (s.activate k).channels = s.channels := by
  unfold State.activate
  rw [State.noteTops_channels, foldl_keeps (g := State.channels) (fun _ _ => by simp)]; rfl
@[simp] theorem State.activate_channel (s : State) (k : Chan) (i : Chan) : (s.activate k).channel i = s.channel i :=
  State.channel_congr (State.activate_channels s k) i
@[simp] theorem State.activate_watches (s : State) (k : Chan) : (s.activate k).watches = s.watches := by
  unfold State.activate
  rw [State.noteTops_watches, foldl_keeps (g := State.watches) (fun _ _ => by simp)]; rfl
@[simp] theorem State.activate_edgeOwed (s : State) (k : Chan) : (s.activate k).edgeOwed = s.edgeOwed := by
  unfold State.activate
  rw [State.noteTops_edgeOwed, foldl_keeps (g := State.edgeOwed) (fun _ _ => by simp)]; rfl

/-! ## boundaryCommit -/

@[simp] theorem State.boundaryCommit_pending (s : State) (k : Chan) : (s.boundaryCommit k).pending = s.pending := by
  unfold State.boundaryCommit; dsimp only; (repeat' split) <;> simp
@[simp] theorem State.boundaryCommit_sessions (s : State) (k : Chan) : (s.boundaryCommit k).sessions = s.sessions := by
  unfold State.boundaryCommit; dsimp only; (repeat' split) <;> simp
@[simp] theorem State.boundaryCommit_session (s : State) (k : Chan) (i : Client) : (s.boundaryCommit k).session i = s.session i :=
  State.session_congr (State.boundaryCommit_sessions s k) i
@[simp] theorem State.boundaryCommit_resetCause (s : State) (k : Chan) : (s.boundaryCommit k).resetCause = s.resetCause := by
  unfold State.boundaryCommit; dsimp only; (repeat' split) <;> simp
@[simp] theorem State.boundaryCommit_por (s : State) (k : Chan) : (s.boundaryCommit k).por = s.por := by
  unfold State.boundaryCommit; dsimp only; (repeat' split) <;> simp
@[simp] theorem State.boundaryCommit_nrstLow (s : State) (k : Chan) : (s.boundaryCommit k).nrstLow = s.nrstLow := by
  unfold State.boundaryCommit; dsimp only; (repeat' split) <;> simp
@[simp] theorem State.boundaryCommit_claims (s : State) (k : Chan) : (s.boundaryCommit k).claims = s.claims := by
  unfold State.boundaryCommit; dsimp only; (repeat' split) <;> simp
@[simp] theorem State.boundaryCommit_claimLists (s : State) (k : Chan) : (s.boundaryCommit k).claimLists = s.claimLists := by
  unfold State.boundaryCommit; dsimp only; (repeat' split) <;> simp
@[simp] theorem State.boundaryCommit_claimList (s : State) (k : Chan) (i : Pin) : (s.boundaryCommit k).claimList i = s.claimList i :=
  State.claimList_congr (State.boundaryCommit_claimLists s k) i
@[simp] theorem State.boundaryCommit_waitLists (s : State) (k : Chan) : (s.boundaryCommit k).waitLists = s.waitLists := by
  unfold State.boundaryCommit; dsimp only; (repeat' split) <;> simp
@[simp] theorem State.boundaryCommit_waitList (s : State) (k : Chan) (i : Chan) : (s.boundaryCommit k).waitList i = s.waitList i :=
  State.waitList_congr (State.boundaryCommit_waitLists s k) i
@[simp] theorem State.boundaryCommit_policies (s : State) (k : Chan) : (s.boundaryCommit k).policies = s.policies := by
  unfold State.boundaryCommit; dsimp only; (repeat' split) <;> simp
@[simp] theorem State.boundaryCommit_policy (s : State) (k : Chan) (i : Pin) : (s.boundaryCommit k).policy i = s.policy i :=
  State.policy_congr (State.boundaryCommit_policies s k) i
@[simp] theorem State.boundaryCommit_pads (s : State) (k : Chan) : (s.boundaryCommit k).pads = s.pads := by
  unfold State.boundaryCommit; dsimp only; (repeat' split) <;> simp
@[simp] theorem State.boundaryCommit_pad (s : State) (k : Chan) (i : Pin) : (s.boundaryCommit k).pad i = s.pad i :=
  State.pad_congr (State.boundaryCommit_pads s k) i
@[simp] theorem State.boundaryCommit_watches (s : State) (k : Chan) : (s.boundaryCommit k).watches = s.watches := by
  unfold State.boundaryCommit; dsimp only; (repeat' split) <;> simp
@[simp] theorem State.boundaryCommit_edgeOwed (s : State) (k : Chan) : (s.boundaryCommit k).edgeOwed = s.edgeOwed := by
  unfold State.boundaryCommit; dsimp only; (repeat' split) <;> simp

/-! ## handBoundary -/

@[simp] theorem State.handBoundary_pending (s : State) (k : Chan) : (s.handBoundary k).pending = s.pending := rfl
@[simp] theorem State.handBoundary_ports (s : State) (k : Chan) : (s.handBoundary k).ports = s.ports := rfl
@[simp] theorem State.handBoundary_port (s : State) (k : Chan) (i : Client) : (s.handBoundary k).port i = s.port i :=
  State.port_congr (State.handBoundary_ports s k) i
@[simp] theorem State.handBoundary_sessions (s : State) (k : Chan) : (s.handBoundary k).sessions = s.sessions := rfl
@[simp] theorem State.handBoundary_session (s : State) (k : Chan) (i : Client) : (s.handBoundary k).session i = s.session i :=
  State.session_congr (State.handBoundary_sessions s k) i
@[simp] theorem State.handBoundary_resetCause (s : State) (k : Chan) : (s.handBoundary k).resetCause = s.resetCause := rfl
@[simp] theorem State.handBoundary_por (s : State) (k : Chan) : (s.handBoundary k).por = s.por := rfl
@[simp] theorem State.handBoundary_nrstLow (s : State) (k : Chan) : (s.handBoundary k).nrstLow = s.nrstLow := rfl
@[simp] theorem State.handBoundary_claims (s : State) (k : Chan) : (s.handBoundary k).claims = s.claims := rfl
@[simp] theorem State.handBoundary_claimLists (s : State) (k : Chan) : (s.handBoundary k).claimLists = s.claimLists := rfl
@[simp] theorem State.handBoundary_claimList (s : State) (k : Chan) (i : Pin) : (s.handBoundary k).claimList i = s.claimList i :=
  State.claimList_congr (State.handBoundary_claimLists s k) i
@[simp] theorem State.handBoundary_waitLists (s : State) (k : Chan) : (s.handBoundary k).waitLists = s.waitLists := rfl
@[simp] theorem State.handBoundary_waitList (s : State) (k : Chan) (i : Chan) : (s.handBoundary k).waitList i = s.waitList i :=
  State.waitList_congr (State.handBoundary_waitLists s k) i
@[simp] theorem State.handBoundary_policies (s : State) (k : Chan) : (s.handBoundary k).policies = s.policies := rfl
@[simp] theorem State.handBoundary_policy (s : State) (k : Chan) (i : Pin) : (s.handBoundary k).policy i = s.policy i :=
  State.policy_congr (State.handBoundary_policies s k) i
@[simp] theorem State.handBoundary_pads (s : State) (k : Chan) : (s.handBoundary k).pads = s.pads := rfl
@[simp] theorem State.handBoundary_pad (s : State) (k : Chan) (i : Pin) : (s.handBoundary k).pad i = s.pad i :=
  State.pad_congr (State.handBoundary_pads s k) i
@[simp] theorem State.handBoundary_watches (s : State) (k : Chan) : (s.handBoundary k).watches = s.watches := rfl
@[simp] theorem State.handBoundary_queues (s : State) (k : Chan) : (s.handBoundary k).queues = s.queues := rfl
@[simp] theorem State.handBoundary_queue (s : State) (k : Chan) (i : Client) : (s.handBoundary k).queue i = s.queue i :=
  State.queue_congr (State.handBoundary_queues s k) i
@[simp] theorem State.handBoundary_edgeOwed (s : State) (k : Chan) : (s.handBoundary k).edgeOwed = s.edgeOwed := rfl

/-! ## boundaryMode -/

@[simp] theorem State.boundaryMode_pending (s : State) (k : Chan) : (s.boundaryMode k).pending = s.pending := by
  unfold State.boundaryMode; dsimp only; (repeat' split) <;> simp
@[simp] theorem State.boundaryMode_sessions (s : State) (k : Chan) : (s.boundaryMode k).sessions = s.sessions := by
  unfold State.boundaryMode; dsimp only; (repeat' split) <;> simp
@[simp] theorem State.boundaryMode_session (s : State) (k : Chan) (i : Client) : (s.boundaryMode k).session i = s.session i :=
  State.session_congr (State.boundaryMode_sessions s k) i
@[simp] theorem State.boundaryMode_resetCause (s : State) (k : Chan) : (s.boundaryMode k).resetCause = s.resetCause := by
  unfold State.boundaryMode; dsimp only; (repeat' split) <;> simp
@[simp] theorem State.boundaryMode_por (s : State) (k : Chan) : (s.boundaryMode k).por = s.por := by
  unfold State.boundaryMode; dsimp only; (repeat' split) <;> simp
@[simp] theorem State.boundaryMode_nrstLow (s : State) (k : Chan) : (s.boundaryMode k).nrstLow = s.nrstLow := by
  unfold State.boundaryMode; dsimp only; (repeat' split) <;> simp
@[simp] theorem State.boundaryMode_claims (s : State) (k : Chan) : (s.boundaryMode k).claims = s.claims := by
  unfold State.boundaryMode; dsimp only; (repeat' split) <;> simp
@[simp] theorem State.boundaryMode_claimLists (s : State) (k : Chan) : (s.boundaryMode k).claimLists = s.claimLists := by
  unfold State.boundaryMode; dsimp only; (repeat' split) <;> simp
@[simp] theorem State.boundaryMode_claimList (s : State) (k : Chan) (i : Pin) : (s.boundaryMode k).claimList i = s.claimList i :=
  State.claimList_congr (State.boundaryMode_claimLists s k) i
@[simp] theorem State.boundaryMode_waitLists (s : State) (k : Chan) : (s.boundaryMode k).waitLists = s.waitLists := by
  unfold State.boundaryMode; dsimp only; (repeat' split) <;> simp
@[simp] theorem State.boundaryMode_waitList (s : State) (k : Chan) (i : Chan) : (s.boundaryMode k).waitList i = s.waitList i :=
  State.waitList_congr (State.boundaryMode_waitLists s k) i
@[simp] theorem State.boundaryMode_policies (s : State) (k : Chan) : (s.boundaryMode k).policies = s.policies := by
  unfold State.boundaryMode; dsimp only; (repeat' split) <;> simp
@[simp] theorem State.boundaryMode_policy (s : State) (k : Chan) (i : Pin) : (s.boundaryMode k).policy i = s.policy i :=
  State.policy_congr (State.boundaryMode_policies s k) i
@[simp] theorem State.boundaryMode_pads (s : State) (k : Chan) : (s.boundaryMode k).pads = s.pads := by
  unfold State.boundaryMode; dsimp only; (repeat' split) <;> simp
@[simp] theorem State.boundaryMode_pad (s : State) (k : Chan) (i : Pin) : (s.boundaryMode k).pad i = s.pad i :=
  State.pad_congr (State.boundaryMode_pads s k) i
@[simp] theorem State.boundaryMode_watches (s : State) (k : Chan) : (s.boundaryMode k).watches = s.watches := by
  unfold State.boundaryMode; dsimp only; (repeat' split) <;> simp
@[simp] theorem State.boundaryMode_edgeOwed (s : State) (k : Chan) : (s.boundaryMode k).edgeOwed = s.edgeOwed := by
  unfold State.boundaryMode; dsimp only; (repeat' split) <;> simp

/-! ## boundaryTerminal -/

@[simp] theorem State.boundaryTerminal_pending (s : State) (k : Chan) : (s.boundaryTerminal k).pending = s.pending := by
  unfold State.boundaryTerminal; (repeat' split) <;> simp
@[simp] theorem State.boundaryTerminal_sessions (s : State) (k : Chan) : (s.boundaryTerminal k).sessions = s.sessions := by
  unfold State.boundaryTerminal; (repeat' split) <;> simp
@[simp] theorem State.boundaryTerminal_session (s : State) (k : Chan) (i : Client) : (s.boundaryTerminal k).session i = s.session i :=
  State.session_congr (State.boundaryTerminal_sessions s k) i
@[simp] theorem State.boundaryTerminal_resetCause (s : State) (k : Chan) : (s.boundaryTerminal k).resetCause = s.resetCause := by
  unfold State.boundaryTerminal; (repeat' split) <;> simp
@[simp] theorem State.boundaryTerminal_por (s : State) (k : Chan) : (s.boundaryTerminal k).por = s.por := by
  unfold State.boundaryTerminal; (repeat' split) <;> simp
@[simp] theorem State.boundaryTerminal_nrstLow (s : State) (k : Chan) : (s.boundaryTerminal k).nrstLow = s.nrstLow := by
  unfold State.boundaryTerminal; (repeat' split) <;> simp
@[simp] theorem State.boundaryTerminal_claims (s : State) (k : Chan) : (s.boundaryTerminal k).claims = s.claims := by
  unfold State.boundaryTerminal; (repeat' split) <;> simp
@[simp] theorem State.boundaryTerminal_claimLists (s : State) (k : Chan) : (s.boundaryTerminal k).claimLists = s.claimLists := by
  unfold State.boundaryTerminal; (repeat' split) <;> simp
@[simp] theorem State.boundaryTerminal_claimList (s : State) (k : Chan) (i : Pin) : (s.boundaryTerminal k).claimList i = s.claimList i :=
  State.claimList_congr (State.boundaryTerminal_claimLists s k) i
@[simp] theorem State.boundaryTerminal_waitLists (s : State) (k : Chan) : (s.boundaryTerminal k).waitLists = s.waitLists := by
  unfold State.boundaryTerminal; (repeat' split) <;> simp
@[simp] theorem State.boundaryTerminal_waitList (s : State) (k : Chan) (i : Chan) : (s.boundaryTerminal k).waitList i = s.waitList i :=
  State.waitList_congr (State.boundaryTerminal_waitLists s k) i
@[simp] theorem State.boundaryTerminal_policies (s : State) (k : Chan) : (s.boundaryTerminal k).policies = s.policies := by
  unfold State.boundaryTerminal; (repeat' split) <;> simp
@[simp] theorem State.boundaryTerminal_policy (s : State) (k : Chan) (i : Pin) : (s.boundaryTerminal k).policy i = s.policy i :=
  State.policy_congr (State.boundaryTerminal_policies s k) i
@[simp] theorem State.boundaryTerminal_pads (s : State) (k : Chan) : (s.boundaryTerminal k).pads = s.pads := by
  unfold State.boundaryTerminal; (repeat' split) <;> simp
@[simp] theorem State.boundaryTerminal_pad (s : State) (k : Chan) (i : Pin) : (s.boundaryTerminal k).pad i = s.pad i :=
  State.pad_congr (State.boundaryTerminal_pads s k) i
@[simp] theorem State.boundaryTerminal_channels (s : State) (k : Chan) : (s.boundaryTerminal k).channels = s.channels := by
  unfold State.boundaryTerminal; (repeat' split) <;> simp
@[simp] theorem State.boundaryTerminal_channel (s : State) (k : Chan) (i : Chan) : (s.boundaryTerminal k).channel i = s.channel i :=
  State.channel_congr (State.boundaryTerminal_channels s k) i
@[simp] theorem State.boundaryTerminal_watches (s : State) (k : Chan) : (s.boundaryTerminal k).watches = s.watches := by
  unfold State.boundaryTerminal; (repeat' split) <;> simp
@[simp] theorem State.boundaryTerminal_edgeOwed (s : State) (k : Chan) : (s.boundaryTerminal k).edgeOwed = s.edgeOwed := by
  unfold State.boundaryTerminal; (repeat' split) <;> simp

/-! ## boundary -/

@[simp] theorem State.boundary_pending (s : State) (k : Chan) : (s.boundary k).pending = s.pending :=
  by simp [State.boundary]
@[simp] theorem State.boundary_resetCause (s : State) (k : Chan) : (s.boundary k).resetCause = s.resetCause :=
  by simp [State.boundary]
@[simp] theorem State.boundary_por (s : State) (k : Chan) : (s.boundary k).por = s.por :=
  by simp [State.boundary]
@[simp] theorem State.boundary_nrstLow (s : State) (k : Chan) : (s.boundary k).nrstLow = s.nrstLow :=
  by simp [State.boundary]
@[simp] theorem State.boundary_policies (s : State) (k : Chan) : (s.boundary k).policies = s.policies :=
  by simp [State.boundary]
@[simp] theorem State.boundary_policy (s : State) (k : Chan) (i : Pin) : (s.boundary k).policy i = s.policy i :=
  State.policy_congr (State.boundary_policies s k) i
@[simp] theorem State.boundary_watches (s : State) (k : Chan) : (s.boundary k).watches = s.watches :=
  by simp [State.boundary]
@[simp] theorem State.boundary_edgeOwed (s : State) (k : Chan) : (s.boundary k).edgeOwed = s.edgeOwed :=
  by simp [State.boundary]

/-! ## baseTick -/

@[simp] theorem State.baseTick_pending (s : State) : (s.baseTick).pending = s.pending := rfl
@[simp] theorem State.baseTick_ports (s : State) : (s.baseTick).ports = s.ports := rfl
@[simp] theorem State.baseTick_port (s : State) (i : Client) : (s.baseTick).port i = s.port i :=
  State.port_congr (State.baseTick_ports s) i
@[simp] theorem State.baseTick_sessions (s : State) : (s.baseTick).sessions = s.sessions := rfl
@[simp] theorem State.baseTick_session (s : State) (i : Client) : (s.baseTick).session i = s.session i :=
  State.session_congr (State.baseTick_sessions s) i
@[simp] theorem State.baseTick_resetCause (s : State) : (s.baseTick).resetCause = s.resetCause := rfl
@[simp] theorem State.baseTick_por (s : State) : (s.baseTick).por = s.por := rfl
@[simp] theorem State.baseTick_nrstLow (s : State) : (s.baseTick).nrstLow = s.nrstLow := rfl
@[simp] theorem State.baseTick_claims (s : State) : (s.baseTick).claims = s.claims := rfl
@[simp] theorem State.baseTick_claimLists (s : State) : (s.baseTick).claimLists = s.claimLists := rfl
@[simp] theorem State.baseTick_claimList (s : State) (i : Pin) : (s.baseTick).claimList i = s.claimList i :=
  State.claimList_congr (State.baseTick_claimLists s) i
@[simp] theorem State.baseTick_waitLists (s : State) : (s.baseTick).waitLists = s.waitLists := rfl
@[simp] theorem State.baseTick_waitList (s : State) (i : Chan) : (s.baseTick).waitList i = s.waitList i :=
  State.waitList_congr (State.baseTick_waitLists s) i
@[simp] theorem State.baseTick_policies (s : State) : (s.baseTick).policies = s.policies := rfl
@[simp] theorem State.baseTick_policy (s : State) (i : Pin) : (s.baseTick).policy i = s.policy i :=
  State.policy_congr (State.baseTick_policies s) i
@[simp] theorem State.baseTick_pads (s : State) : (s.baseTick).pads = s.pads := rfl
@[simp] theorem State.baseTick_pad (s : State) (i : Pin) : (s.baseTick).pad i = s.pad i :=
  State.pad_congr (State.baseTick_pads s) i
@[simp] theorem State.baseTick_watches (s : State) : (s.baseTick).watches = s.watches := rfl
@[simp] theorem State.baseTick_queues (s : State) : (s.baseTick).queues = s.queues := rfl
@[simp] theorem State.baseTick_queue (s : State) (i : Client) : (s.baseTick).queue i = s.queue i :=
  State.queue_congr (State.baseTick_queues s) i
@[simp] theorem State.baseTick_edgeOwed (s : State) : (s.baseTick).edgeOwed = s.edgeOwed := rfl

/-! ## takeInput -/

@[simp] theorem State.takeInput_pending (s : State) (k : Chan) : (s.takeInput k).pending = s.pending := by
  unfold State.takeInput; dsimp only; (repeat' split) <;> simp
@[simp] theorem State.takeInput_resetCause (s : State) (k : Chan) : (s.takeInput k).resetCause = s.resetCause := by
  unfold State.takeInput; dsimp only; (repeat' split) <;> simp
@[simp] theorem State.takeInput_por (s : State) (k : Chan) : (s.takeInput k).por = s.por := by
  unfold State.takeInput; dsimp only; (repeat' split) <;> simp
@[simp] theorem State.takeInput_nrstLow (s : State) (k : Chan) : (s.takeInput k).nrstLow = s.nrstLow := by
  unfold State.takeInput; dsimp only; (repeat' split) <;> simp
@[simp] theorem State.takeInput_policies (s : State) (k : Chan) : (s.takeInput k).policies = s.policies := by
  unfold State.takeInput; dsimp only; (repeat' split) <;> simp
@[simp] theorem State.takeInput_policy (s : State) (k : Chan) (i : Pin) : (s.takeInput k).policy i = s.policy i :=
  State.policy_congr (State.takeInput_policies s k) i
@[simp] theorem State.takeInput_watches (s : State) (k : Chan) : (s.takeInput k).watches = s.watches := by
  unfold State.takeInput; dsimp only; (repeat' split) <;> simp
@[simp] theorem State.takeInput_edgeOwed (s : State) (k : Chan) : (s.takeInput k).edgeOwed = s.edgeOwed := by
  unfold State.takeInput; dsimp only; (repeat' split) <;> simp

/-! ## renew -/

@[simp] theorem State.renew_pending (s : State) (c : Client) : (s.renew c).pending = s.pending := rfl
@[simp] theorem State.renew_ports (s : State) (c : Client) : (s.renew c).ports = s.ports := rfl
@[simp] theorem State.renew_port (s : State) (c : Client) (i : Client) : (s.renew c).port i = s.port i :=
  State.port_congr (State.renew_ports s c) i
@[simp] theorem State.renew_resetCause (s : State) (c : Client) : (s.renew c).resetCause = s.resetCause := rfl
@[simp] theorem State.renew_por (s : State) (c : Client) : (s.renew c).por = s.por := rfl
@[simp] theorem State.renew_nrstLow (s : State) (c : Client) : (s.renew c).nrstLow = s.nrstLow := rfl
@[simp] theorem State.renew_claims (s : State) (c : Client) : (s.renew c).claims = s.claims := rfl
@[simp] theorem State.renew_claimLists (s : State) (c : Client) : (s.renew c).claimLists = s.claimLists := rfl
@[simp] theorem State.renew_claimList (s : State) (c : Client) (i : Pin) : (s.renew c).claimList i = s.claimList i :=
  State.claimList_congr (State.renew_claimLists s c) i
@[simp] theorem State.renew_waitLists (s : State) (c : Client) : (s.renew c).waitLists = s.waitLists := rfl
@[simp] theorem State.renew_waitList (s : State) (c : Client) (i : Chan) : (s.renew c).waitList i = s.waitList i :=
  State.waitList_congr (State.renew_waitLists s c) i
@[simp] theorem State.renew_policies (s : State) (c : Client) : (s.renew c).policies = s.policies := rfl
@[simp] theorem State.renew_policy (s : State) (c : Client) (i : Pin) : (s.renew c).policy i = s.policy i :=
  State.policy_congr (State.renew_policies s c) i
@[simp] theorem State.renew_pads (s : State) (c : Client) : (s.renew c).pads = s.pads := rfl
@[simp] theorem State.renew_pad (s : State) (c : Client) (i : Pin) : (s.renew c).pad i = s.pad i :=
  State.pad_congr (State.renew_pads s c) i
@[simp] theorem State.renew_channels (s : State) (c : Client) : (s.renew c).channels = s.channels := rfl
@[simp] theorem State.renew_channel (s : State) (c : Client) (i : Chan) : (s.renew c).channel i = s.channel i :=
  State.channel_congr (State.renew_channels s c) i
@[simp] theorem State.renew_watches (s : State) (c : Client) : (s.renew c).watches = s.watches := rfl
@[simp] theorem State.renew_queues (s : State) (c : Client) : (s.renew c).queues = s.queues := rfl
@[simp] theorem State.renew_queue (s : State) (c : Client) (i : Client) : (s.renew c).queue i = s.queue i :=
  State.queue_congr (State.renew_queues s c) i
@[simp] theorem State.renew_edgeOwed (s : State) (c : Client) : (s.renew c).edgeOwed = s.edgeOwed := rfl

/-! ## letGo -/

@[simp] theorem State.letGo_pending (s : State) (k : Chan) (excl : Client) : (s.letGo k excl).pending = s.pending := by
  unfold State.letGo; dsimp only; (repeat' split) <;> simp
@[simp] theorem State.letGo_resetCause (s : State) (k : Chan) (excl : Client) : (s.letGo k excl).resetCause = s.resetCause := by
  unfold State.letGo; dsimp only; (repeat' split) <;> simp
@[simp] theorem State.letGo_por (s : State) (k : Chan) (excl : Client) : (s.letGo k excl).por = s.por := by
  unfold State.letGo; dsimp only; (repeat' split) <;> simp
@[simp] theorem State.letGo_nrstLow (s : State) (k : Chan) (excl : Client) : (s.letGo k excl).nrstLow = s.nrstLow := by
  unfold State.letGo; dsimp only; (repeat' split) <;> simp
@[simp] theorem State.letGo_claims (s : State) (k : Chan) (excl : Client) : (s.letGo k excl).claims = s.claims := by
  unfold State.letGo; dsimp only; (repeat' split) <;> simp
@[simp] theorem State.letGo_claimLists (s : State) (k : Chan) (excl : Client) : (s.letGo k excl).claimLists = s.claimLists := by
  unfold State.letGo; dsimp only; (repeat' split) <;> simp
@[simp] theorem State.letGo_claimList (s : State) (k : Chan) (excl : Client) (i : Pin) : (s.letGo k excl).claimList i = s.claimList i :=
  State.claimList_congr (State.letGo_claimLists s k excl) i
@[simp] theorem State.letGo_waitLists (s : State) (k : Chan) (excl : Client) : (s.letGo k excl).waitLists = s.waitLists := by
  unfold State.letGo; dsimp only; (repeat' split) <;> simp
@[simp] theorem State.letGo_waitList (s : State) (k : Chan) (excl : Client) (i : Chan) : (s.letGo k excl).waitList i = s.waitList i :=
  State.waitList_congr (State.letGo_waitLists s k excl) i
@[simp] theorem State.letGo_policies (s : State) (k : Chan) (excl : Client) : (s.letGo k excl).policies = s.policies := by
  unfold State.letGo; dsimp only; (repeat' split) <;> simp
@[simp] theorem State.letGo_policy (s : State) (k : Chan) (excl : Client) (i : Pin) : (s.letGo k excl).policy i = s.policy i :=
  State.policy_congr (State.letGo_policies s k excl) i
@[simp] theorem State.letGo_pads (s : State) (k : Chan) (excl : Client) : (s.letGo k excl).pads = s.pads := by
  unfold State.letGo; dsimp only; (repeat' split) <;> simp
@[simp] theorem State.letGo_pad (s : State) (k : Chan) (excl : Client) (i : Pin) : (s.letGo k excl).pad i = s.pad i :=
  State.pad_congr (State.letGo_pads s k excl) i
@[simp] theorem State.letGo_watches (s : State) (k : Chan) (excl : Client) : (s.letGo k excl).watches = s.watches := by
  unfold State.letGo; dsimp only; (repeat' split) <;> simp
@[simp] theorem State.letGo_edgeOwed (s : State) (k : Chan) (excl : Client) : (s.letGo k excl).edgeOwed = s.edgeOwed := by
  unfold State.letGo; dsimp only; (repeat' split) <;> simp

/-! ## tearClaims -/

@[simp] theorem State.tearClaims_pending (s : State) (c : Client) : (s.tearClaims c).pending = s.pending :=
  by simp [State.tearClaims]
@[simp] theorem State.tearClaims_resetCause (s : State) (c : Client) : (s.tearClaims c).resetCause = s.resetCause :=
  by simp [State.tearClaims]
@[simp] theorem State.tearClaims_por (s : State) (c : Client) : (s.tearClaims c).por = s.por :=
  by simp [State.tearClaims]
@[simp] theorem State.tearClaims_nrstLow (s : State) (c : Client) : (s.tearClaims c).nrstLow = s.nrstLow :=
  by simp [State.tearClaims]
@[simp] theorem State.tearClaims_policies (s : State) (c : Client) : (s.tearClaims c).policies = s.policies :=
  by simp [State.tearClaims]
@[simp] theorem State.tearClaims_policy (s : State) (c : Client) (i : Pin) : (s.tearClaims c).policy i = s.policy i :=
  State.policy_congr (State.tearClaims_policies s c) i
@[simp] theorem State.tearClaims_pads (s : State) (c : Client) : (s.tearClaims c).pads = s.pads :=
  by simp [State.tearClaims]
@[simp] theorem State.tearClaims_pad (s : State) (c : Client) (i : Pin) : (s.tearClaims c).pad i = s.pad i :=
  State.pad_congr (State.tearClaims_pads s c) i
@[simp] theorem State.tearClaims_watches (s : State) (c : Client) : (s.tearClaims c).watches = s.watches :=
  by simp [State.tearClaims]
@[simp] theorem State.tearClaims_edgeOwed (s : State) (c : Client) : (s.tearClaims c).edgeOwed = s.edgeOwed :=
  by simp [State.tearClaims]

/-! ## tearWatches -/

@[simp] theorem State.tearWatches_pending (s : State) (c : Client) : (s.tearWatches c).pending = s.pending := rfl
@[simp] theorem State.tearWatches_ports (s : State) (c : Client) : (s.tearWatches c).ports = s.ports := rfl
@[simp] theorem State.tearWatches_port (s : State) (c : Client) (i : Client) : (s.tearWatches c).port i = s.port i :=
  State.port_congr (State.tearWatches_ports s c) i
@[simp] theorem State.tearWatches_resetCause (s : State) (c : Client) : (s.tearWatches c).resetCause = s.resetCause := rfl
@[simp] theorem State.tearWatches_por (s : State) (c : Client) : (s.tearWatches c).por = s.por := rfl
@[simp] theorem State.tearWatches_nrstLow (s : State) (c : Client) : (s.tearWatches c).nrstLow = s.nrstLow := rfl
@[simp] theorem State.tearWatches_claims (s : State) (c : Client) : (s.tearWatches c).claims = s.claims := rfl
@[simp] theorem State.tearWatches_claimLists (s : State) (c : Client) : (s.tearWatches c).claimLists = s.claimLists := rfl
@[simp] theorem State.tearWatches_claimList (s : State) (c : Client) (i : Pin) : (s.tearWatches c).claimList i = s.claimList i :=
  State.claimList_congr (State.tearWatches_claimLists s c) i
@[simp] theorem State.tearWatches_waitLists (s : State) (c : Client) : (s.tearWatches c).waitLists = s.waitLists := rfl
@[simp] theorem State.tearWatches_waitList (s : State) (c : Client) (i : Chan) : (s.tearWatches c).waitList i = s.waitList i :=
  State.waitList_congr (State.tearWatches_waitLists s c) i
@[simp] theorem State.tearWatches_policies (s : State) (c : Client) : (s.tearWatches c).policies = s.policies := rfl
@[simp] theorem State.tearWatches_policy (s : State) (c : Client) (i : Pin) : (s.tearWatches c).policy i = s.policy i :=
  State.policy_congr (State.tearWatches_policies s c) i
@[simp] theorem State.tearWatches_pads (s : State) (c : Client) : (s.tearWatches c).pads = s.pads := rfl
@[simp] theorem State.tearWatches_pad (s : State) (c : Client) (i : Pin) : (s.tearWatches c).pad i = s.pad i :=
  State.pad_congr (State.tearWatches_pads s c) i
@[simp] theorem State.tearWatches_queues (s : State) (c : Client) : (s.tearWatches c).queues = s.queues := rfl
@[simp] theorem State.tearWatches_queue (s : State) (c : Client) (i : Client) : (s.tearWatches c).queue i = s.queue i :=
  State.queue_congr (State.tearWatches_queues s c) i
@[simp] theorem State.tearWatches_edgeOwed (s : State) (c : Client) : (s.tearWatches c).edgeOwed = s.edgeOwed := rfl

/-! ## tearChannels -/

@[simp] theorem State.tearChannels_pending (s : State) (c : Client) : (s.tearChannels c).pending = s.pending :=
  foldl_keeps (g := State.pending) (fun _ _ => by split <;> simp) _ s
@[simp] theorem State.tearChannels_resetCause (s : State) (c : Client) : (s.tearChannels c).resetCause = s.resetCause :=
  foldl_keeps (g := State.resetCause) (fun _ _ => by split <;> simp) _ s
@[simp] theorem State.tearChannels_por (s : State) (c : Client) : (s.tearChannels c).por = s.por :=
  foldl_keeps (g := State.por) (fun _ _ => by split <;> simp) _ s
@[simp] theorem State.tearChannels_nrstLow (s : State) (c : Client) : (s.tearChannels c).nrstLow = s.nrstLow :=
  foldl_keeps (g := State.nrstLow) (fun _ _ => by split <;> simp) _ s
@[simp] theorem State.tearChannels_claims (s : State) (c : Client) : (s.tearChannels c).claims = s.claims :=
  foldl_keeps (g := State.claims) (fun _ _ => by split <;> simp) _ s
@[simp] theorem State.tearChannels_claimLists (s : State) (c : Client) : (s.tearChannels c).claimLists = s.claimLists :=
  foldl_keeps (g := State.claimLists) (fun _ _ => by split <;> simp) _ s
@[simp] theorem State.tearChannels_claimList (s : State) (c : Client) (i : Pin) : (s.tearChannels c).claimList i = s.claimList i :=
  State.claimList_congr (State.tearChannels_claimLists s c) i
@[simp] theorem State.tearChannels_waitLists (s : State) (c : Client) : (s.tearChannels c).waitLists = s.waitLists :=
  foldl_keeps (g := State.waitLists) (fun _ _ => by split <;> simp) _ s
@[simp] theorem State.tearChannels_waitList (s : State) (c : Client) (i : Chan) : (s.tearChannels c).waitList i = s.waitList i :=
  State.waitList_congr (State.tearChannels_waitLists s c) i
@[simp] theorem State.tearChannels_policies (s : State) (c : Client) : (s.tearChannels c).policies = s.policies :=
  foldl_keeps (g := State.policies) (fun _ _ => by split <;> simp) _ s
@[simp] theorem State.tearChannels_policy (s : State) (c : Client) (i : Pin) : (s.tearChannels c).policy i = s.policy i :=
  State.policy_congr (State.tearChannels_policies s c) i
@[simp] theorem State.tearChannels_pads (s : State) (c : Client) : (s.tearChannels c).pads = s.pads :=
  foldl_keeps (g := State.pads) (fun _ _ => by split <;> simp) _ s
@[simp] theorem State.tearChannels_pad (s : State) (c : Client) (i : Pin) : (s.tearChannels c).pad i = s.pad i :=
  State.pad_congr (State.tearChannels_pads s c) i
@[simp] theorem State.tearChannels_watches (s : State) (c : Client) : (s.tearChannels c).watches = s.watches :=
  foldl_keeps (g := State.watches) (fun _ _ => by split <;> simp) _ s
@[simp] theorem State.tearChannels_edgeOwed (s : State) (c : Client) : (s.tearChannels c).edgeOwed = s.edgeOwed :=
  foldl_keeps (g := State.edgeOwed) (fun _ _ => by split <;> simp) _ s

/-! ## purge -/

@[simp] theorem State.purge_pending (s : State) (c : Client) : (s.purge c).pending = s.pending := rfl
@[simp] theorem State.purge_sessions (s : State) (c : Client) : (s.purge c).sessions = s.sessions := rfl
@[simp] theorem State.purge_session (s : State) (c : Client) (i : Client) : (s.purge c).session i = s.session i :=
  State.session_congr (State.purge_sessions s c) i
@[simp] theorem State.purge_resetCause (s : State) (c : Client) : (s.purge c).resetCause = s.resetCause := rfl
@[simp] theorem State.purge_por (s : State) (c : Client) : (s.purge c).por = s.por := rfl
@[simp] theorem State.purge_nrstLow (s : State) (c : Client) : (s.purge c).nrstLow = s.nrstLow := rfl
@[simp] theorem State.purge_claims (s : State) (c : Client) : (s.purge c).claims = s.claims := rfl
@[simp] theorem State.purge_claimLists (s : State) (c : Client) : (s.purge c).claimLists = s.claimLists := rfl
@[simp] theorem State.purge_claimList (s : State) (c : Client) (i : Pin) : (s.purge c).claimList i = s.claimList i :=
  State.claimList_congr (State.purge_claimLists s c) i
@[simp] theorem State.purge_waitLists (s : State) (c : Client) : (s.purge c).waitLists = s.waitLists := rfl
@[simp] theorem State.purge_waitList (s : State) (c : Client) (i : Chan) : (s.purge c).waitList i = s.waitList i :=
  State.waitList_congr (State.purge_waitLists s c) i
@[simp] theorem State.purge_policies (s : State) (c : Client) : (s.purge c).policies = s.policies := rfl
@[simp] theorem State.purge_policy (s : State) (c : Client) (i : Pin) : (s.purge c).policy i = s.policy i :=
  State.policy_congr (State.purge_policies s c) i
@[simp] theorem State.purge_pads (s : State) (c : Client) : (s.purge c).pads = s.pads := rfl
@[simp] theorem State.purge_pad (s : State) (c : Client) (i : Pin) : (s.purge c).pad i = s.pad i :=
  State.pad_congr (State.purge_pads s c) i
@[simp] theorem State.purge_channels (s : State) (c : Client) : (s.purge c).channels = s.channels := rfl
@[simp] theorem State.purge_channel (s : State) (c : Client) (i : Chan) : (s.purge c).channel i = s.channel i :=
  State.channel_congr (State.purge_channels s c) i
@[simp] theorem State.purge_watches (s : State) (c : Client) : (s.purge c).watches = s.watches := rfl
@[simp] theorem State.purge_edgeOwed (s : State) (c : Client) : (s.purge c).edgeOwed = s.edgeOwed := rfl

/-! ## teardown -/

@[simp] theorem State.teardown_pending (s : State) (c : Client) (cause : EndCause) : (s.teardown c cause).pending = s.pending :=
  by simp [State.teardown]
@[simp] theorem State.teardown_resetCause (s : State) (c : Client) (cause : EndCause) : (s.teardown c cause).resetCause = s.resetCause :=
  by simp [State.teardown]
@[simp] theorem State.teardown_por (s : State) (c : Client) (cause : EndCause) : (s.teardown c cause).por = s.por :=
  by simp [State.teardown]
@[simp] theorem State.teardown_nrstLow (s : State) (c : Client) (cause : EndCause) : (s.teardown c cause).nrstLow = s.nrstLow :=
  by simp [State.teardown]
@[simp] theorem State.teardown_policies (s : State) (c : Client) (cause : EndCause) : (s.teardown c cause).policies = s.policies :=
  by simp [State.teardown]
@[simp] theorem State.teardown_policy (s : State) (c : Client) (cause : EndCause) (i : Pin) : (s.teardown c cause).policy i = s.policy i :=
  State.policy_congr (State.teardown_policies s c cause) i
@[simp] theorem State.teardown_edgeOwed (s : State) (c : Client) (cause : EndCause) : (s.teardown c cause).edgeOwed = s.edgeOwed :=
  by simp [State.teardown]

/-! ## firstSamples -/

@[simp] theorem State.firstSamples_pending (s : State) : (s.firstSamples).pending = s.pending :=
  by simp [State.firstSamples]
@[simp] theorem State.firstSamples_ports (s : State) : (s.firstSamples).ports = s.ports :=
  by simp [State.firstSamples]
@[simp] theorem State.firstSamples_port (s : State) (i : Client) : (s.firstSamples).port i = s.port i :=
  State.port_congr (State.firstSamples_ports s) i
@[simp] theorem State.firstSamples_sessions (s : State) : (s.firstSamples).sessions = s.sessions :=
  by simp [State.firstSamples]
@[simp] theorem State.firstSamples_session (s : State) (i : Client) : (s.firstSamples).session i = s.session i :=
  State.session_congr (State.firstSamples_sessions s) i
@[simp] theorem State.firstSamples_resetCause (s : State) : (s.firstSamples).resetCause = s.resetCause :=
  by simp [State.firstSamples]
@[simp] theorem State.firstSamples_por (s : State) : (s.firstSamples).por = s.por :=
  by simp [State.firstSamples]
@[simp] theorem State.firstSamples_nrstLow (s : State) : (s.firstSamples).nrstLow = s.nrstLow :=
  by simp [State.firstSamples]
@[simp] theorem State.firstSamples_claims (s : State) : (s.firstSamples).claims = s.claims :=
  by simp [State.firstSamples]
@[simp] theorem State.firstSamples_claimLists (s : State) : (s.firstSamples).claimLists = s.claimLists :=
  by simp [State.firstSamples]
@[simp] theorem State.firstSamples_claimList (s : State) (i : Pin) : (s.firstSamples).claimList i = s.claimList i :=
  State.claimList_congr (State.firstSamples_claimLists s) i
@[simp] theorem State.firstSamples_waitLists (s : State) : (s.firstSamples).waitLists = s.waitLists :=
  by simp [State.firstSamples]
@[simp] theorem State.firstSamples_waitList (s : State) (i : Chan) : (s.firstSamples).waitList i = s.waitList i :=
  State.waitList_congr (State.firstSamples_waitLists s) i
@[simp] theorem State.firstSamples_policies (s : State) : (s.firstSamples).policies = s.policies :=
  by simp [State.firstSamples]
@[simp] theorem State.firstSamples_policy (s : State) (i : Pin) : (s.firstSamples).policy i = s.policy i :=
  State.policy_congr (State.firstSamples_policies s) i
@[simp] theorem State.firstSamples_channels (s : State) : (s.firstSamples).channels = s.channels :=
  by simp [State.firstSamples]
@[simp] theorem State.firstSamples_channel (s : State) (i : Chan) : (s.firstSamples).channel i = s.channel i :=
  State.channel_congr (State.firstSamples_channels s) i
@[simp] theorem State.firstSamples_watches (s : State) : (s.firstSamples).watches = s.watches :=
  by simp [State.firstSamples]
@[simp] theorem State.firstSamples_queues (s : State) : (s.firstSamples).queues = s.queues :=
  by simp [State.firstSamples]
@[simp] theorem State.firstSamples_queue (s : State) (i : Client) : (s.firstSamples).queue i = s.queue i :=
  State.queue_congr (State.firstSamples_queues s) i
@[simp] theorem State.firstSamples_edgeOwed (s : State) : (s.firstSamples).edgeOwed = s.edgeOwed :=
  by simp [State.firstSamples]

/-! ## passing -/

@[simp] theorem State.passing_pending (s : State) (c : Client) : (s.passing c).pending = s.pending := rfl
@[simp] theorem State.passing_sessions (s : State) (c : Client) : (s.passing c).sessions = s.sessions := rfl
@[simp] theorem State.passing_session (s : State) (c : Client) (i : Client) : (s.passing c).session i = s.session i :=
  State.session_congr (State.passing_sessions s c) i
@[simp] theorem State.passing_resetCause (s : State) (c : Client) : (s.passing c).resetCause = s.resetCause := rfl
@[simp] theorem State.passing_por (s : State) (c : Client) : (s.passing c).por = s.por := rfl
@[simp] theorem State.passing_nrstLow (s : State) (c : Client) : (s.passing c).nrstLow = s.nrstLow := rfl
@[simp] theorem State.passing_claims (s : State) (c : Client) : (s.passing c).claims = s.claims := rfl
@[simp] theorem State.passing_claimLists (s : State) (c : Client) : (s.passing c).claimLists = s.claimLists := rfl
@[simp] theorem State.passing_claimList (s : State) (c : Client) (i : Pin) : (s.passing c).claimList i = s.claimList i :=
  State.claimList_congr (State.passing_claimLists s c) i
@[simp] theorem State.passing_waitLists (s : State) (c : Client) : (s.passing c).waitLists = s.waitLists := rfl
@[simp] theorem State.passing_waitList (s : State) (c : Client) (i : Chan) : (s.passing c).waitList i = s.waitList i :=
  State.waitList_congr (State.passing_waitLists s c) i
@[simp] theorem State.passing_policies (s : State) (c : Client) : (s.passing c).policies = s.policies := rfl
@[simp] theorem State.passing_policy (s : State) (c : Client) (i : Pin) : (s.passing c).policy i = s.policy i :=
  State.policy_congr (State.passing_policies s c) i
@[simp] theorem State.passing_pads (s : State) (c : Client) : (s.passing c).pads = s.pads := rfl
@[simp] theorem State.passing_pad (s : State) (c : Client) (i : Pin) : (s.passing c).pad i = s.pad i :=
  State.pad_congr (State.passing_pads s c) i
@[simp] theorem State.passing_channels (s : State) (c : Client) : (s.passing c).channels = s.channels := rfl
@[simp] theorem State.passing_channel (s : State) (c : Client) (i : Chan) : (s.passing c).channel i = s.channel i :=
  State.channel_congr (State.passing_channels s c) i
@[simp] theorem State.passing_watches (s : State) (c : Client) : (s.passing c).watches = s.watches := rfl
@[simp] theorem State.passing_queues (s : State) (c : Client) : (s.passing c).queues = s.queues := rfl
@[simp] theorem State.passing_queue (s : State) (c : Client) (i : Client) : (s.passing c).queue i = s.queue i :=
  State.queue_congr (State.passing_queues s c) i
@[simp] theorem State.passing_edgeOwed (s : State) (c : Client) : (s.passing c).edgeOwed = s.edgeOwed := rfl

/-! ## answer -/

@[simp] theorem State.answer_pending (s : State) (c : Client) (tag : Byte) (st : Status) (payload : List Byte) : (s.answer c tag st payload).pending = s.pending := rfl
@[simp] theorem State.answer_sessions (s : State) (c : Client) (tag : Byte) (st : Status) (payload : List Byte) : (s.answer c tag st payload).sessions = s.sessions := rfl
@[simp] theorem State.answer_session (s : State) (c : Client) (tag : Byte) (st : Status) (payload : List Byte) (i : Client) : (s.answer c tag st payload).session i = s.session i :=
  State.session_congr (State.answer_sessions s c tag st payload) i
@[simp] theorem State.answer_resetCause (s : State) (c : Client) (tag : Byte) (st : Status) (payload : List Byte) : (s.answer c tag st payload).resetCause = s.resetCause := rfl
@[simp] theorem State.answer_por (s : State) (c : Client) (tag : Byte) (st : Status) (payload : List Byte) : (s.answer c tag st payload).por = s.por := rfl
@[simp] theorem State.answer_nrstLow (s : State) (c : Client) (tag : Byte) (st : Status) (payload : List Byte) : (s.answer c tag st payload).nrstLow = s.nrstLow := rfl
@[simp] theorem State.answer_claims (s : State) (c : Client) (tag : Byte) (st : Status) (payload : List Byte) : (s.answer c tag st payload).claims = s.claims := rfl
@[simp] theorem State.answer_claimLists (s : State) (c : Client) (tag : Byte) (st : Status) (payload : List Byte) : (s.answer c tag st payload).claimLists = s.claimLists := rfl
@[simp] theorem State.answer_claimList (s : State) (c : Client) (tag : Byte) (st : Status) (payload : List Byte) (i : Pin) : (s.answer c tag st payload).claimList i = s.claimList i :=
  State.claimList_congr (State.answer_claimLists s c tag st payload) i
@[simp] theorem State.answer_waitLists (s : State) (c : Client) (tag : Byte) (st : Status) (payload : List Byte) : (s.answer c tag st payload).waitLists = s.waitLists := rfl
@[simp] theorem State.answer_waitList (s : State) (c : Client) (tag : Byte) (st : Status) (payload : List Byte) (i : Chan) : (s.answer c tag st payload).waitList i = s.waitList i :=
  State.waitList_congr (State.answer_waitLists s c tag st payload) i
@[simp] theorem State.answer_policies (s : State) (c : Client) (tag : Byte) (st : Status) (payload : List Byte) : (s.answer c tag st payload).policies = s.policies := rfl
@[simp] theorem State.answer_policy (s : State) (c : Client) (tag : Byte) (st : Status) (payload : List Byte) (i : Pin) : (s.answer c tag st payload).policy i = s.policy i :=
  State.policy_congr (State.answer_policies s c tag st payload) i
@[simp] theorem State.answer_pads (s : State) (c : Client) (tag : Byte) (st : Status) (payload : List Byte) : (s.answer c tag st payload).pads = s.pads := rfl
@[simp] theorem State.answer_pad (s : State) (c : Client) (tag : Byte) (st : Status) (payload : List Byte) (i : Pin) : (s.answer c tag st payload).pad i = s.pad i :=
  State.pad_congr (State.answer_pads s c tag st payload) i
@[simp] theorem State.answer_channels (s : State) (c : Client) (tag : Byte) (st : Status) (payload : List Byte) : (s.answer c tag st payload).channels = s.channels := rfl
@[simp] theorem State.answer_channel (s : State) (c : Client) (tag : Byte) (st : Status) (payload : List Byte) (i : Chan) : (s.answer c tag st payload).channel i = s.channel i :=
  State.channel_congr (State.answer_channels s c tag st payload) i
@[simp] theorem State.answer_watches (s : State) (c : Client) (tag : Byte) (st : Status) (payload : List Byte) : (s.answer c tag st payload).watches = s.watches := rfl
@[simp] theorem State.answer_queues (s : State) (c : Client) (tag : Byte) (st : Status) (payload : List Byte) : (s.answer c tag st payload).queues = s.queues := rfl
@[simp] theorem State.answer_queue (s : State) (c : Client) (tag : Byte) (st : Status) (payload : List Byte) (i : Client) : (s.answer c tag st payload).queue i = s.queue i :=
  State.queue_congr (State.answer_queues s c tag st payload) i
@[simp] theorem State.answer_edgeOwed (s : State) (c : Client) (tag : Byte) (st : Status) (payload : List Byte) : (s.answer c tag st payload).edgeOwed = s.edgeOwed := rfl

/-! ## writePolicy -/

@[simp] theorem State.writePolicy_pending (s : State) (p : Pin) (e : Policy) : (s.writePolicy p e).pending = s.pending := by
  unfold State.writePolicy; simp only []; split <;> simp
@[simp] theorem State.writePolicy_sessions (s : State) (p : Pin) (e : Policy) : (s.writePolicy p e).sessions = s.sessions := by
  unfold State.writePolicy; simp only []; split <;> simp
@[simp] theorem State.writePolicy_session (s : State) (p : Pin) (e : Policy) (i : Client) : (s.writePolicy p e).session i = s.session i :=
  State.session_congr (State.writePolicy_sessions s p e) i
@[simp] theorem State.writePolicy_resetCause (s : State) (p : Pin) (e : Policy) : (s.writePolicy p e).resetCause = s.resetCause := by
  unfold State.writePolicy; simp only []; split <;> simp
@[simp] theorem State.writePolicy_por (s : State) (p : Pin) (e : Policy) : (s.writePolicy p e).por = s.por := by
  unfold State.writePolicy; simp only []; split <;> simp
@[simp] theorem State.writePolicy_nrstLow (s : State) (p : Pin) (e : Policy) : (s.writePolicy p e).nrstLow = s.nrstLow := by
  unfold State.writePolicy; simp only []; split <;> simp
@[simp] theorem State.writePolicy_claims (s : State) (p : Pin) (e : Policy) : (s.writePolicy p e).claims = s.claims := by
  unfold State.writePolicy; simp only []; split <;> simp
@[simp] theorem State.writePolicy_claimLists (s : State) (p : Pin) (e : Policy) : (s.writePolicy p e).claimLists = s.claimLists := by
  unfold State.writePolicy; simp only []; split <;> simp
@[simp] theorem State.writePolicy_claimList (s : State) (p : Pin) (e : Policy) (i : Pin) : (s.writePolicy p e).claimList i = s.claimList i :=
  State.claimList_congr (State.writePolicy_claimLists s p e) i
@[simp] theorem State.writePolicy_waitLists (s : State) (p : Pin) (e : Policy) : (s.writePolicy p e).waitLists = s.waitLists := by
  unfold State.writePolicy; simp only []; split <;> simp
@[simp] theorem State.writePolicy_waitList (s : State) (p : Pin) (e : Policy) (i : Chan) : (s.writePolicy p e).waitList i = s.waitList i :=
  State.waitList_congr (State.writePolicy_waitLists s p e) i
@[simp] theorem State.writePolicy_watches (s : State) (p : Pin) (e : Policy) : (s.writePolicy p e).watches = s.watches := by
  unfold State.writePolicy; simp only []; split <;> simp
@[simp] theorem State.writePolicy_edgeOwed (s : State) (p : Pin) (e : Policy) : (s.writePolicy p e).edgeOwed = s.edgeOwed := by
  unfold State.writePolicy; simp only []; split <;> simp

/-! ## claimLive -/

@[simp] theorem State.claimLive_pending (s : State) (c : Client) (a : ClaimArgs) : (s.claimLive c a).pending = s.pending :=
  by simp [State.claimLive]
@[simp] theorem State.claimLive_resetCause (s : State) (c : Client) (a : ClaimArgs) : (s.claimLive c a).resetCause = s.resetCause :=
  by simp [State.claimLive]
@[simp] theorem State.claimLive_por (s : State) (c : Client) (a : ClaimArgs) : (s.claimLive c a).por = s.por :=
  by simp [State.claimLive]
@[simp] theorem State.claimLive_nrstLow (s : State) (c : Client) (a : ClaimArgs) : (s.claimLive c a).nrstLow = s.nrstLow :=
  by simp [State.claimLive]
@[simp] theorem State.claimLive_waitLists (s : State) (c : Client) (a : ClaimArgs) : (s.claimLive c a).waitLists = s.waitLists :=
  by simp [State.claimLive]
@[simp] theorem State.claimLive_waitList (s : State) (c : Client) (a : ClaimArgs) (i : Chan) : (s.claimLive c a).waitList i = s.waitList i :=
  State.waitList_congr (State.claimLive_waitLists s c a) i
@[simp] theorem State.claimLive_policies (s : State) (c : Client) (a : ClaimArgs) : (s.claimLive c a).policies = s.policies :=
  by simp [State.claimLive]
@[simp] theorem State.claimLive_policy (s : State) (c : Client) (a : ClaimArgs) (i : Pin) : (s.claimLive c a).policy i = s.policy i :=
  State.policy_congr (State.claimLive_policies s c a) i
@[simp] theorem State.claimLive_watches (s : State) (c : Client) (a : ClaimArgs) : (s.claimLive c a).watches = s.watches :=
  by simp [State.claimLive]
@[simp] theorem State.claimLive_edgeOwed (s : State) (c : Client) (a : ClaimArgs) : (s.claimLive c a).edgeOwed = s.edgeOwed :=
  by simp [State.claimLive]

/-! ## claimPending -/

@[simp] theorem State.claimPending_pending (s : State) (c : Client) (a : ClaimArgs) (k : Chan) : (s.claimPending c a k).pending = s.pending :=
  by simp [State.claimPending]
@[simp] theorem State.claimPending_ports (s : State) (c : Client) (a : ClaimArgs) (k : Chan) : (s.claimPending c a k).ports = s.ports :=
  by simp [State.claimPending]
@[simp] theorem State.claimPending_port (s : State) (c : Client) (a : ClaimArgs) (k : Chan) (i : Client) : (s.claimPending c a k).port i = s.port i :=
  State.port_congr (State.claimPending_ports s c a k) i
@[simp] theorem State.claimPending_resetCause (s : State) (c : Client) (a : ClaimArgs) (k : Chan) : (s.claimPending c a k).resetCause = s.resetCause :=
  by simp [State.claimPending]
@[simp] theorem State.claimPending_por (s : State) (c : Client) (a : ClaimArgs) (k : Chan) : (s.claimPending c a k).por = s.por :=
  by simp [State.claimPending]
@[simp] theorem State.claimPending_nrstLow (s : State) (c : Client) (a : ClaimArgs) (k : Chan) : (s.claimPending c a k).nrstLow = s.nrstLow :=
  by simp [State.claimPending]
@[simp] theorem State.claimPending_claimLists (s : State) (c : Client) (a : ClaimArgs) (k : Chan) : (s.claimPending c a k).claimLists = s.claimLists :=
  by simp [State.claimPending]
@[simp] theorem State.claimPending_claimList (s : State) (c : Client) (a : ClaimArgs) (k : Chan) (i : Pin) : (s.claimPending c a k).claimList i = s.claimList i :=
  State.claimList_congr (State.claimPending_claimLists s c a k) i
@[simp] theorem State.claimPending_policies (s : State) (c : Client) (a : ClaimArgs) (k : Chan) : (s.claimPending c a k).policies = s.policies :=
  by simp [State.claimPending]
@[simp] theorem State.claimPending_policy (s : State) (c : Client) (a : ClaimArgs) (k : Chan) (i : Pin) : (s.claimPending c a k).policy i = s.policy i :=
  State.policy_congr (State.claimPending_policies s c a k) i
@[simp] theorem State.claimPending_pads (s : State) (c : Client) (a : ClaimArgs) (k : Chan) : (s.claimPending c a k).pads = s.pads :=
  by simp [State.claimPending]
@[simp] theorem State.claimPending_pad (s : State) (c : Client) (a : ClaimArgs) (k : Chan) (i : Pin) : (s.claimPending c a k).pad i = s.pad i :=
  State.pad_congr (State.claimPending_pads s c a k) i
@[simp] theorem State.claimPending_watches (s : State) (c : Client) (a : ClaimArgs) (k : Chan) : (s.claimPending c a k).watches = s.watches :=
  by simp [State.claimPending]
@[simp] theorem State.claimPending_queues (s : State) (c : Client) (a : ClaimArgs) (k : Chan) : (s.claimPending c a k).queues = s.queues :=
  by simp [State.claimPending]
@[simp] theorem State.claimPending_queue (s : State) (c : Client) (a : ClaimArgs) (k : Chan) (i : Client) : (s.claimPending c a k).queue i = s.queue i :=
  State.queue_congr (State.claimPending_queues s c a k) i
@[simp] theorem State.claimPending_edgeOwed (s : State) (c : Client) (a : ClaimArgs) (k : Chan) : (s.claimPending c a k).edgeOwed = s.edgeOwed :=
  by simp [State.claimPending]

/-! ## modifyNow -/

@[simp] theorem State.modifyNow_pending (s : State) (c : Client) (q : Claim) (a : ModifyArgs) : (s.modifyNow c q a).pending = s.pending := by
  unfold State.modifyNow; simp only []; split <;> simp
@[simp] theorem State.modifyNow_resetCause (s : State) (c : Client) (q : Claim) (a : ModifyArgs) : (s.modifyNow c q a).resetCause = s.resetCause := by
  unfold State.modifyNow; simp only []; split <;> simp
@[simp] theorem State.modifyNow_por (s : State) (c : Client) (q : Claim) (a : ModifyArgs) : (s.modifyNow c q a).por = s.por := by
  unfold State.modifyNow; simp only []; split <;> simp
@[simp] theorem State.modifyNow_nrstLow (s : State) (c : Client) (q : Claim) (a : ModifyArgs) : (s.modifyNow c q a).nrstLow = s.nrstLow := by
  unfold State.modifyNow; simp only []; split <;> simp
@[simp] theorem State.modifyNow_policies (s : State) (c : Client) (q : Claim) (a : ModifyArgs) : (s.modifyNow c q a).policies = s.policies := by
  unfold State.modifyNow; simp only []; split <;> simp
@[simp] theorem State.modifyNow_policy (s : State) (c : Client) (q : Claim) (a : ModifyArgs) (i : Pin) : (s.modifyNow c q a).policy i = s.policy i :=
  State.policy_congr (State.modifyNow_policies s c q a) i
@[simp] theorem State.modifyNow_watches (s : State) (c : Client) (q : Claim) (a : ModifyArgs) : (s.modifyNow c q a).watches = s.watches := by
  unfold State.modifyNow; simp only []; split <;> simp
@[simp] theorem State.modifyNow_edgeOwed (s : State) (c : Client) (q : Claim) (a : ModifyArgs) : (s.modifyNow c q a).edgeOwed = s.edgeOwed := by
  unfold State.modifyNow; simp only []; split <;> simp

/-! ## modifyLater -/

@[simp] theorem State.modifyLater_pending (s : State) (c : Client) (q : Claim) (a : ModifyArgs) (k : Chan) : (s.modifyLater c q a k).pending = s.pending :=
  by simp [State.modifyLater]
@[simp] theorem State.modifyLater_ports (s : State) (c : Client) (q : Claim) (a : ModifyArgs) (k : Chan) : (s.modifyLater c q a k).ports = s.ports :=
  by simp [State.modifyLater]
@[simp] theorem State.modifyLater_port (s : State) (c : Client) (q : Claim) (a : ModifyArgs) (k : Chan) (i : Client) : (s.modifyLater c q a k).port i = s.port i :=
  State.port_congr (State.modifyLater_ports s c q a k) i
@[simp] theorem State.modifyLater_resetCause (s : State) (c : Client) (q : Claim) (a : ModifyArgs) (k : Chan) : (s.modifyLater c q a k).resetCause = s.resetCause :=
  by simp [State.modifyLater]
@[simp] theorem State.modifyLater_por (s : State) (c : Client) (q : Claim) (a : ModifyArgs) (k : Chan) : (s.modifyLater c q a k).por = s.por :=
  by simp [State.modifyLater]
@[simp] theorem State.modifyLater_nrstLow (s : State) (c : Client) (q : Claim) (a : ModifyArgs) (k : Chan) : (s.modifyLater c q a k).nrstLow = s.nrstLow :=
  by simp [State.modifyLater]
@[simp] theorem State.modifyLater_claimLists (s : State) (c : Client) (q : Claim) (a : ModifyArgs) (k : Chan) : (s.modifyLater c q a k).claimLists = s.claimLists :=
  by simp [State.modifyLater]
@[simp] theorem State.modifyLater_claimList (s : State) (c : Client) (q : Claim) (a : ModifyArgs) (k : Chan) (i : Pin) : (s.modifyLater c q a k).claimList i = s.claimList i :=
  State.claimList_congr (State.modifyLater_claimLists s c q a k) i
@[simp] theorem State.modifyLater_policies (s : State) (c : Client) (q : Claim) (a : ModifyArgs) (k : Chan) : (s.modifyLater c q a k).policies = s.policies :=
  by simp [State.modifyLater]
@[simp] theorem State.modifyLater_policy (s : State) (c : Client) (q : Claim) (a : ModifyArgs) (k : Chan) (i : Pin) : (s.modifyLater c q a k).policy i = s.policy i :=
  State.policy_congr (State.modifyLater_policies s c q a k) i
@[simp] theorem State.modifyLater_pads (s : State) (c : Client) (q : Claim) (a : ModifyArgs) (k : Chan) : (s.modifyLater c q a k).pads = s.pads :=
  by simp [State.modifyLater]
@[simp] theorem State.modifyLater_pad (s : State) (c : Client) (q : Claim) (a : ModifyArgs) (k : Chan) (i : Pin) : (s.modifyLater c q a k).pad i = s.pad i :=
  State.pad_congr (State.modifyLater_pads s c q a k) i
@[simp] theorem State.modifyLater_watches (s : State) (c : Client) (q : Claim) (a : ModifyArgs) (k : Chan) : (s.modifyLater c q a k).watches = s.watches :=
  by simp [State.modifyLater]
@[simp] theorem State.modifyLater_queues (s : State) (c : Client) (q : Claim) (a : ModifyArgs) (k : Chan) : (s.modifyLater c q a k).queues = s.queues :=
  by simp [State.modifyLater]
@[simp] theorem State.modifyLater_queue (s : State) (c : Client) (q : Claim) (a : ModifyArgs) (k : Chan) (i : Client) : (s.modifyLater c q a k).queue i = s.queue i :=
  State.queue_congr (State.modifyLater_queues s c q a k) i
@[simp] theorem State.modifyLater_edgeOwed (s : State) (c : Client) (q : Claim) (a : ModifyArgs) (k : Chan) : (s.modifyLater c q a k).edgeOwed = s.edgeOwed :=
  by simp [State.modifyLater]

/-! ## dropClaim -/

@[simp] theorem State.dropClaim_pending (s : State) (c : Client) (p : Pin) (excl : Option Client) : (s.dropClaim c p excl).pending = s.pending :=
  by simp [State.dropClaim]
@[simp] theorem State.dropClaim_sessions (s : State) (c : Client) (p : Pin) (excl : Option Client) : (s.dropClaim c p excl).sessions = s.sessions :=
  by simp [State.dropClaim]
@[simp] theorem State.dropClaim_session (s : State) (c : Client) (p : Pin) (excl : Option Client) (i : Client) : (s.dropClaim c p excl).session i = s.session i :=
  State.session_congr (State.dropClaim_sessions s c p excl) i
@[simp] theorem State.dropClaim_resetCause (s : State) (c : Client) (p : Pin) (excl : Option Client) : (s.dropClaim c p excl).resetCause = s.resetCause :=
  by simp [State.dropClaim]
@[simp] theorem State.dropClaim_por (s : State) (c : Client) (p : Pin) (excl : Option Client) : (s.dropClaim c p excl).por = s.por :=
  by simp [State.dropClaim]
@[simp] theorem State.dropClaim_nrstLow (s : State) (c : Client) (p : Pin) (excl : Option Client) : (s.dropClaim c p excl).nrstLow = s.nrstLow :=
  by simp [State.dropClaim]
@[simp] theorem State.dropClaim_policies (s : State) (c : Client) (p : Pin) (excl : Option Client) : (s.dropClaim c p excl).policies = s.policies :=
  by simp [State.dropClaim]
@[simp] theorem State.dropClaim_policy (s : State) (c : Client) (p : Pin) (excl : Option Client) (i : Pin) : (s.dropClaim c p excl).policy i = s.policy i :=
  State.policy_congr (State.dropClaim_policies s c p excl) i
@[simp] theorem State.dropClaim_pads (s : State) (c : Client) (p : Pin) (excl : Option Client) : (s.dropClaim c p excl).pads = s.pads :=
  by simp [State.dropClaim]
@[simp] theorem State.dropClaim_pad (s : State) (c : Client) (p : Pin) (excl : Option Client) (i : Pin) : (s.dropClaim c p excl).pad i = s.pad i :=
  State.pad_congr (State.dropClaim_pads s c p excl) i
@[simp] theorem State.dropClaim_channels (s : State) (c : Client) (p : Pin) (excl : Option Client) : (s.dropClaim c p excl).channels = s.channels :=
  by simp [State.dropClaim]
@[simp] theorem State.dropClaim_channel (s : State) (c : Client) (p : Pin) (excl : Option Client) (i : Chan) : (s.dropClaim c p excl).channel i = s.channel i :=
  State.channel_congr (State.dropClaim_channels s c p excl) i
@[simp] theorem State.dropClaim_watches (s : State) (c : Client) (p : Pin) (excl : Option Client) : (s.dropClaim c p excl).watches = s.watches :=
  by simp [State.dropClaim]
@[simp] theorem State.dropClaim_edgeOwed (s : State) (c : Client) (p : Pin) (excl : Option Client) : (s.dropClaim c p excl).edgeOwed = s.edgeOwed :=
  by simp [State.dropClaim]

/-! ## releaseClaim -/

@[simp] theorem State.releaseClaim_pending (s : State) (c : Client) (p : Pin) : (s.releaseClaim c p).pending = s.pending :=
  by simp [State.releaseClaim]
@[simp] theorem State.releaseClaim_resetCause (s : State) (c : Client) (p : Pin) : (s.releaseClaim c p).resetCause = s.resetCause :=
  by simp [State.releaseClaim]
@[simp] theorem State.releaseClaim_por (s : State) (c : Client) (p : Pin) : (s.releaseClaim c p).por = s.por :=
  by simp [State.releaseClaim]
@[simp] theorem State.releaseClaim_nrstLow (s : State) (c : Client) (p : Pin) : (s.releaseClaim c p).nrstLow = s.nrstLow :=
  by simp [State.releaseClaim]
@[simp] theorem State.releaseClaim_policies (s : State) (c : Client) (p : Pin) : (s.releaseClaim c p).policies = s.policies :=
  by simp [State.releaseClaim]
@[simp] theorem State.releaseClaim_policy (s : State) (c : Client) (p : Pin) (i : Pin) : (s.releaseClaim c p).policy i = s.policy i :=
  State.policy_congr (State.releaseClaim_policies s c p) i
@[simp] theorem State.releaseClaim_watches (s : State) (c : Client) (p : Pin) : (s.releaseClaim c p).watches = s.watches :=
  by simp [State.releaseClaim]
@[simp] theorem State.releaseClaim_edgeOwed (s : State) (c : Client) (p : Pin) : (s.releaseClaim c p).edgeOwed = s.edgeOwed :=
  by simp [State.releaseClaim]

/-! ## configure -/

@[simp] theorem State.configure_pending (s : State) (k : Chan) (r : Settings) : (s.configure k r).pending = s.pending :=
  by simp [State.configure]
@[simp] theorem State.configure_ports (s : State) (k : Chan) (r : Settings) : (s.configure k r).ports = s.ports :=
  by simp [State.configure]
@[simp] theorem State.configure_port (s : State) (k : Chan) (r : Settings) (i : Client) : (s.configure k r).port i = s.port i :=
  State.port_congr (State.configure_ports s k r) i
@[simp] theorem State.configure_resetCause (s : State) (k : Chan) (r : Settings) : (s.configure k r).resetCause = s.resetCause :=
  by simp [State.configure]
@[simp] theorem State.configure_por (s : State) (k : Chan) (r : Settings) : (s.configure k r).por = s.por :=
  by simp [State.configure]
@[simp] theorem State.configure_nrstLow (s : State) (k : Chan) (r : Settings) : (s.configure k r).nrstLow = s.nrstLow :=
  by simp [State.configure]
@[simp] theorem State.configure_claims (s : State) (k : Chan) (r : Settings) : (s.configure k r).claims = s.claims :=
  by simp [State.configure]
@[simp] theorem State.configure_claimLists (s : State) (k : Chan) (r : Settings) : (s.configure k r).claimLists = s.claimLists :=
  by simp [State.configure]
@[simp] theorem State.configure_claimList (s : State) (k : Chan) (r : Settings) (i : Pin) : (s.configure k r).claimList i = s.claimList i :=
  State.claimList_congr (State.configure_claimLists s k r) i
@[simp] theorem State.configure_waitLists (s : State) (k : Chan) (r : Settings) : (s.configure k r).waitLists = s.waitLists :=
  by simp [State.configure]
@[simp] theorem State.configure_waitList (s : State) (k : Chan) (r : Settings) (i : Chan) : (s.configure k r).waitList i = s.waitList i :=
  State.waitList_congr (State.configure_waitLists s k r) i
@[simp] theorem State.configure_policies (s : State) (k : Chan) (r : Settings) : (s.configure k r).policies = s.policies :=
  by simp [State.configure]
@[simp] theorem State.configure_policy (s : State) (k : Chan) (r : Settings) (i : Pin) : (s.configure k r).policy i = s.policy i :=
  State.policy_congr (State.configure_policies s k r) i
@[simp] theorem State.configure_pads (s : State) (k : Chan) (r : Settings) : (s.configure k r).pads = s.pads :=
  by simp [State.configure]
@[simp] theorem State.configure_pad (s : State) (k : Chan) (r : Settings) (i : Pin) : (s.configure k r).pad i = s.pad i :=
  State.pad_congr (State.configure_pads s k r) i
@[simp] theorem State.configure_watches (s : State) (k : Chan) (r : Settings) : (s.configure k r).watches = s.watches :=
  by simp [State.configure]
@[simp] theorem State.configure_queues (s : State) (k : Chan) (r : Settings) : (s.configure k r).queues = s.queues :=
  by simp [State.configure]
@[simp] theorem State.configure_queue (s : State) (k : Chan) (r : Settings) (i : Client) : (s.configure k r).queue i = s.queue i :=
  State.queue_congr (State.configure_queues s k r) i
@[simp] theorem State.configure_edgeOwed (s : State) (k : Chan) (r : Settings) : (s.configure k r).edgeOwed = s.edgeOwed :=
  by simp [State.configure]

/-! ## startChans -/

@[simp] theorem State.startChans_pending (s : State) (ks : List Chan) (excl : Option Client) : (s.startChans ks excl).pending = s.pending := by
  unfold State.startChans
  simp only [State.resolvePads_pending]
  rw [foldl_keeps (g := State.pending) (fun _ _ => by simp)]; rfl
@[simp] theorem State.startChans_sessions (s : State) (ks : List Chan) (excl : Option Client) : (s.startChans ks excl).sessions = s.sessions := by
  unfold State.startChans
  simp only [State.resolvePads_sessions]
  rw [foldl_keeps (g := State.sessions) (fun _ _ => by simp)]; rfl
@[simp] theorem State.startChans_session (s : State) (ks : List Chan) (excl : Option Client) (i : Client) : (s.startChans ks excl).session i = s.session i :=
  State.session_congr (State.startChans_sessions s ks excl) i
@[simp] theorem State.startChans_resetCause (s : State) (ks : List Chan) (excl : Option Client) : (s.startChans ks excl).resetCause = s.resetCause := by
  unfold State.startChans
  simp only [State.resolvePads_resetCause]
  rw [foldl_keeps (g := State.resetCause) (fun _ _ => by simp)]; rfl
@[simp] theorem State.startChans_por (s : State) (ks : List Chan) (excl : Option Client) : (s.startChans ks excl).por = s.por := by
  unfold State.startChans
  simp only [State.resolvePads_por]
  rw [foldl_keeps (g := State.por) (fun _ _ => by simp)]; rfl
@[simp] theorem State.startChans_nrstLow (s : State) (ks : List Chan) (excl : Option Client) : (s.startChans ks excl).nrstLow = s.nrstLow := by
  unfold State.startChans
  simp only [State.resolvePads_nrstLow]
  rw [foldl_keeps (g := State.nrstLow) (fun _ _ => by simp)]; rfl
@[simp] theorem State.startChans_claims (s : State) (ks : List Chan) (excl : Option Client) : (s.startChans ks excl).claims = s.claims := by
  unfold State.startChans
  simp only [State.resolvePads_claims]
  rw [foldl_keeps (g := State.claims) (fun _ _ => by simp)]; rfl
@[simp] theorem State.startChans_claimLists (s : State) (ks : List Chan) (excl : Option Client) : (s.startChans ks excl).claimLists = s.claimLists := by
  unfold State.startChans
  simp only [State.resolvePads_claimLists]
  rw [foldl_keeps (g := State.claimLists) (fun _ _ => by simp)]; rfl
@[simp] theorem State.startChans_claimList (s : State) (ks : List Chan) (excl : Option Client) (i : Pin) : (s.startChans ks excl).claimList i = s.claimList i :=
  State.claimList_congr (State.startChans_claimLists s ks excl) i
@[simp] theorem State.startChans_waitLists (s : State) (ks : List Chan) (excl : Option Client) : (s.startChans ks excl).waitLists = s.waitLists := by
  unfold State.startChans
  simp only [State.resolvePads_waitLists]
  rw [foldl_keeps (g := State.waitLists) (fun _ _ => by simp)]; rfl
@[simp] theorem State.startChans_waitList (s : State) (ks : List Chan) (excl : Option Client) (i : Chan) : (s.startChans ks excl).waitList i = s.waitList i :=
  State.waitList_congr (State.startChans_waitLists s ks excl) i
@[simp] theorem State.startChans_policies (s : State) (ks : List Chan) (excl : Option Client) : (s.startChans ks excl).policies = s.policies := by
  unfold State.startChans
  simp only [State.resolvePads_policies]
  rw [foldl_keeps (g := State.policies) (fun _ _ => by simp)]; rfl
@[simp] theorem State.startChans_policy (s : State) (ks : List Chan) (excl : Option Client) (i : Pin) : (s.startChans ks excl).policy i = s.policy i :=
  State.policy_congr (State.startChans_policies s ks excl) i
@[simp] theorem State.startChans_watches (s : State) (ks : List Chan) (excl : Option Client) : (s.startChans ks excl).watches = s.watches := by
  unfold State.startChans
  simp only [State.resolvePads_watches]
  rw [foldl_keeps (g := State.watches) (fun _ _ => by simp)]; rfl
@[simp] theorem State.startChans_edgeOwed (s : State) (ks : List Chan) (excl : Option Client) : (s.startChans ks excl).edgeOwed = s.edgeOwed := by
  unfold State.startChans
  simp only [State.resolvePads_edgeOwed]
  rw [foldl_keeps (g := State.edgeOwed) (fun _ _ => by simp)]; rfl

/-! ## stopRunning -/

@[simp] theorem State.stopRunning_pending (s : State) (k : Chan) (c : Client) : (s.stopRunning k c).pending = s.pending := by
  unfold State.stopRunning; simp only []; split <;> simp
@[simp] theorem State.stopRunning_resetCause (s : State) (k : Chan) (c : Client) : (s.stopRunning k c).resetCause = s.resetCause := by
  unfold State.stopRunning; simp only []; split <;> simp
@[simp] theorem State.stopRunning_por (s : State) (k : Chan) (c : Client) : (s.stopRunning k c).por = s.por := by
  unfold State.stopRunning; simp only []; split <;> simp
@[simp] theorem State.stopRunning_nrstLow (s : State) (k : Chan) (c : Client) : (s.stopRunning k c).nrstLow = s.nrstLow := by
  unfold State.stopRunning; simp only []; split <;> simp
@[simp] theorem State.stopRunning_policies (s : State) (k : Chan) (c : Client) : (s.stopRunning k c).policies = s.policies := by
  unfold State.stopRunning; simp only []; split <;> simp
@[simp] theorem State.stopRunning_policy (s : State) (k : Chan) (c : Client) (i : Pin) : (s.stopRunning k c).policy i = s.policy i :=
  State.policy_congr (State.stopRunning_policies s k c) i
@[simp] theorem State.stopRunning_watches (s : State) (k : Chan) (c : Client) : (s.stopRunning k c).watches = s.watches := by
  unfold State.stopRunning; simp only []; split <;> simp
@[simp] theorem State.stopRunning_edgeOwed (s : State) (k : Chan) (c : Client) : (s.stopRunning k c).edgeOwed = s.edgeOwed := by
  unfold State.stopRunning; simp only []; split <;> simp

/-! ## disarm -/

@[simp] theorem State.disarm_pending (s : State) (k : Chan) : (s.disarm k).pending = s.pending := rfl
@[simp] theorem State.disarm_ports (s : State) (k : Chan) : (s.disarm k).ports = s.ports := rfl
@[simp] theorem State.disarm_port (s : State) (k : Chan) (i : Client) : (s.disarm k).port i = s.port i :=
  State.port_congr (State.disarm_ports s k) i
@[simp] theorem State.disarm_sessions (s : State) (k : Chan) : (s.disarm k).sessions = s.sessions := rfl
@[simp] theorem State.disarm_session (s : State) (k : Chan) (i : Client) : (s.disarm k).session i = s.session i :=
  State.session_congr (State.disarm_sessions s k) i
@[simp] theorem State.disarm_resetCause (s : State) (k : Chan) : (s.disarm k).resetCause = s.resetCause := rfl
@[simp] theorem State.disarm_por (s : State) (k : Chan) : (s.disarm k).por = s.por := rfl
@[simp] theorem State.disarm_nrstLow (s : State) (k : Chan) : (s.disarm k).nrstLow = s.nrstLow := rfl
@[simp] theorem State.disarm_claims (s : State) (k : Chan) : (s.disarm k).claims = s.claims := rfl
@[simp] theorem State.disarm_claimLists (s : State) (k : Chan) : (s.disarm k).claimLists = s.claimLists := rfl
@[simp] theorem State.disarm_claimList (s : State) (k : Chan) (i : Pin) : (s.disarm k).claimList i = s.claimList i :=
  State.claimList_congr (State.disarm_claimLists s k) i
@[simp] theorem State.disarm_waitLists (s : State) (k : Chan) : (s.disarm k).waitLists = s.waitLists := rfl
@[simp] theorem State.disarm_waitList (s : State) (k : Chan) (i : Chan) : (s.disarm k).waitList i = s.waitList i :=
  State.waitList_congr (State.disarm_waitLists s k) i
@[simp] theorem State.disarm_policies (s : State) (k : Chan) : (s.disarm k).policies = s.policies := rfl
@[simp] theorem State.disarm_policy (s : State) (k : Chan) (i : Pin) : (s.disarm k).policy i = s.policy i :=
  State.policy_congr (State.disarm_policies s k) i
@[simp] theorem State.disarm_pads (s : State) (k : Chan) : (s.disarm k).pads = s.pads := rfl
@[simp] theorem State.disarm_pad (s : State) (k : Chan) (i : Pin) : (s.disarm k).pad i = s.pad i :=
  State.pad_congr (State.disarm_pads s k) i
@[simp] theorem State.disarm_watches (s : State) (k : Chan) : (s.disarm k).watches = s.watches := rfl
@[simp] theorem State.disarm_queues (s : State) (k : Chan) : (s.disarm k).queues = s.queues := rfl
@[simp] theorem State.disarm_queue (s : State) (k : Chan) (i : Client) : (s.disarm k).queue i = s.queue i :=
  State.queue_congr (State.disarm_queues s k) i
@[simp] theorem State.disarm_edgeOwed (s : State) (k : Chan) : (s.disarm k).edgeOwed = s.edgeOwed := rfl

/-! ## bindTo -/

@[simp] theorem State.bindTo_pending (s : State) (k : Chan) (c : Client) : (s.bindTo k c).pending = s.pending := rfl
@[simp] theorem State.bindTo_ports (s : State) (k : Chan) (c : Client) : (s.bindTo k c).ports = s.ports := rfl
@[simp] theorem State.bindTo_port (s : State) (k : Chan) (c : Client) (i : Client) : (s.bindTo k c).port i = s.port i :=
  State.port_congr (State.bindTo_ports s k c) i
@[simp] theorem State.bindTo_resetCause (s : State) (k : Chan) (c : Client) : (s.bindTo k c).resetCause = s.resetCause := rfl
@[simp] theorem State.bindTo_por (s : State) (k : Chan) (c : Client) : (s.bindTo k c).por = s.por := rfl
@[simp] theorem State.bindTo_nrstLow (s : State) (k : Chan) (c : Client) : (s.bindTo k c).nrstLow = s.nrstLow := rfl
@[simp] theorem State.bindTo_claims (s : State) (k : Chan) (c : Client) : (s.bindTo k c).claims = s.claims := rfl
@[simp] theorem State.bindTo_claimLists (s : State) (k : Chan) (c : Client) : (s.bindTo k c).claimLists = s.claimLists := rfl
@[simp] theorem State.bindTo_claimList (s : State) (k : Chan) (c : Client) (i : Pin) : (s.bindTo k c).claimList i = s.claimList i :=
  State.claimList_congr (State.bindTo_claimLists s k c) i
@[simp] theorem State.bindTo_waitLists (s : State) (k : Chan) (c : Client) : (s.bindTo k c).waitLists = s.waitLists := rfl
@[simp] theorem State.bindTo_waitList (s : State) (k : Chan) (c : Client) (i : Chan) : (s.bindTo k c).waitList i = s.waitList i :=
  State.waitList_congr (State.bindTo_waitLists s k c) i
@[simp] theorem State.bindTo_policies (s : State) (k : Chan) (c : Client) : (s.bindTo k c).policies = s.policies := rfl
@[simp] theorem State.bindTo_policy (s : State) (k : Chan) (c : Client) (i : Pin) : (s.bindTo k c).policy i = s.policy i :=
  State.policy_congr (State.bindTo_policies s k c) i
@[simp] theorem State.bindTo_pads (s : State) (k : Chan) (c : Client) : (s.bindTo k c).pads = s.pads := rfl
@[simp] theorem State.bindTo_pad (s : State) (k : Chan) (c : Client) (i : Pin) : (s.bindTo k c).pad i = s.pad i :=
  State.pad_congr (State.bindTo_pads s k c) i
@[simp] theorem State.bindTo_watches (s : State) (k : Chan) (c : Client) : (s.bindTo k c).watches = s.watches := rfl
@[simp] theorem State.bindTo_queues (s : State) (k : Chan) (c : Client) : (s.bindTo k c).queues = s.queues := rfl
@[simp] theorem State.bindTo_queue (s : State) (k : Chan) (c : Client) (i : Client) : (s.bindTo k c).queue i = s.queue i :=
  State.queue_congr (State.bindTo_queues s k c) i
@[simp] theorem State.bindTo_edgeOwed (s : State) (k : Chan) (c : Client) : (s.bindTo k c).edgeOwed = s.edgeOwed := rfl

/-! ## adopt -/

@[simp] theorem State.adopt_pending (s : State) (k : Chan) (c : Client) : (s.adopt k c).pending = s.pending :=
  by simp [State.adopt]
@[simp] theorem State.adopt_resetCause (s : State) (k : Chan) (c : Client) : (s.adopt k c).resetCause = s.resetCause :=
  by simp [State.adopt]
@[simp] theorem State.adopt_por (s : State) (k : Chan) (c : Client) : (s.adopt k c).por = s.por :=
  by simp [State.adopt]
@[simp] theorem State.adopt_nrstLow (s : State) (k : Chan) (c : Client) : (s.adopt k c).nrstLow = s.nrstLow :=
  by simp [State.adopt]
@[simp] theorem State.adopt_claims (s : State) (k : Chan) (c : Client) : (s.adopt k c).claims = s.claims :=
  by simp [State.adopt]
@[simp] theorem State.adopt_claimLists (s : State) (k : Chan) (c : Client) : (s.adopt k c).claimLists = s.claimLists :=
  by simp [State.adopt]
@[simp] theorem State.adopt_claimList (s : State) (k : Chan) (c : Client) (i : Pin) : (s.adopt k c).claimList i = s.claimList i :=
  State.claimList_congr (State.adopt_claimLists s k c) i
@[simp] theorem State.adopt_waitLists (s : State) (k : Chan) (c : Client) : (s.adopt k c).waitLists = s.waitLists :=
  by simp [State.adopt]
@[simp] theorem State.adopt_waitList (s : State) (k : Chan) (c : Client) (i : Chan) : (s.adopt k c).waitList i = s.waitList i :=
  State.waitList_congr (State.adopt_waitLists s k c) i
@[simp] theorem State.adopt_policies (s : State) (k : Chan) (c : Client) : (s.adopt k c).policies = s.policies :=
  by simp [State.adopt]
@[simp] theorem State.adopt_policy (s : State) (k : Chan) (c : Client) (i : Pin) : (s.adopt k c).policy i = s.policy i :=
  State.policy_congr (State.adopt_policies s k c) i
@[simp] theorem State.adopt_pads (s : State) (k : Chan) (c : Client) : (s.adopt k c).pads = s.pads :=
  by simp [State.adopt]
@[simp] theorem State.adopt_pad (s : State) (k : Chan) (c : Client) (i : Pin) : (s.adopt k c).pad i = s.pad i :=
  State.pad_congr (State.adopt_pads s k c) i
@[simp] theorem State.adopt_watches (s : State) (k : Chan) (c : Client) : (s.adopt k c).watches = s.watches :=
  by simp [State.adopt]
@[simp] theorem State.adopt_edgeOwed (s : State) (k : Chan) (c : Client) : (s.adopt k c).edgeOwed = s.edgeOwed :=
  by simp [State.adopt]

/-! ## addWatch -/

@[simp] theorem State.addWatch_pending (s : State) (w : Watch) : (s.addWatch w).pending = s.pending := rfl
@[simp] theorem State.addWatch_ports (s : State) (w : Watch) : (s.addWatch w).ports = s.ports := rfl
@[simp] theorem State.addWatch_port (s : State) (w : Watch) (i : Client) : (s.addWatch w).port i = s.port i :=
  State.port_congr (State.addWatch_ports s w) i
@[simp] theorem State.addWatch_resetCause (s : State) (w : Watch) : (s.addWatch w).resetCause = s.resetCause := rfl
@[simp] theorem State.addWatch_por (s : State) (w : Watch) : (s.addWatch w).por = s.por := rfl
@[simp] theorem State.addWatch_nrstLow (s : State) (w : Watch) : (s.addWatch w).nrstLow = s.nrstLow := rfl
@[simp] theorem State.addWatch_claims (s : State) (w : Watch) : (s.addWatch w).claims = s.claims := rfl
@[simp] theorem State.addWatch_claimLists (s : State) (w : Watch) : (s.addWatch w).claimLists = s.claimLists := rfl
@[simp] theorem State.addWatch_claimList (s : State) (w : Watch) (i : Pin) : (s.addWatch w).claimList i = s.claimList i :=
  State.claimList_congr (State.addWatch_claimLists s w) i
@[simp] theorem State.addWatch_waitLists (s : State) (w : Watch) : (s.addWatch w).waitLists = s.waitLists := rfl
@[simp] theorem State.addWatch_waitList (s : State) (w : Watch) (i : Chan) : (s.addWatch w).waitList i = s.waitList i :=
  State.waitList_congr (State.addWatch_waitLists s w) i
@[simp] theorem State.addWatch_policies (s : State) (w : Watch) : (s.addWatch w).policies = s.policies := rfl
@[simp] theorem State.addWatch_policy (s : State) (w : Watch) (i : Pin) : (s.addWatch w).policy i = s.policy i :=
  State.policy_congr (State.addWatch_policies s w) i
@[simp] theorem State.addWatch_pads (s : State) (w : Watch) : (s.addWatch w).pads = s.pads := rfl
@[simp] theorem State.addWatch_pad (s : State) (w : Watch) (i : Pin) : (s.addWatch w).pad i = s.pad i :=
  State.pad_congr (State.addWatch_pads s w) i
@[simp] theorem State.addWatch_queues (s : State) (w : Watch) : (s.addWatch w).queues = s.queues := rfl
@[simp] theorem State.addWatch_queue (s : State) (w : Watch) (i : Client) : (s.addWatch w).queue i = s.queue i :=
  State.queue_congr (State.addWatch_queues s w) i
@[simp] theorem State.addWatch_edgeOwed (s : State) (w : Watch) : (s.addWatch w).edgeOwed = s.edgeOwed := rfl

/-! ## setWatch -/

@[simp] theorem State.setWatch_pending (s : State) (w : Watch) : (s.setWatch w).pending = s.pending := rfl
@[simp] theorem State.setWatch_ports (s : State) (w : Watch) : (s.setWatch w).ports = s.ports := rfl
@[simp] theorem State.setWatch_port (s : State) (w : Watch) (i : Client) : (s.setWatch w).port i = s.port i :=
  State.port_congr (State.setWatch_ports s w) i
@[simp] theorem State.setWatch_sessions (s : State) (w : Watch) : (s.setWatch w).sessions = s.sessions := rfl
@[simp] theorem State.setWatch_session (s : State) (w : Watch) (i : Client) : (s.setWatch w).session i = s.session i :=
  State.session_congr (State.setWatch_sessions s w) i
@[simp] theorem State.setWatch_resetCause (s : State) (w : Watch) : (s.setWatch w).resetCause = s.resetCause := rfl
@[simp] theorem State.setWatch_por (s : State) (w : Watch) : (s.setWatch w).por = s.por := rfl
@[simp] theorem State.setWatch_nrstLow (s : State) (w : Watch) : (s.setWatch w).nrstLow = s.nrstLow := rfl
@[simp] theorem State.setWatch_claims (s : State) (w : Watch) : (s.setWatch w).claims = s.claims := rfl
@[simp] theorem State.setWatch_claimLists (s : State) (w : Watch) : (s.setWatch w).claimLists = s.claimLists := rfl
@[simp] theorem State.setWatch_claimList (s : State) (w : Watch) (i : Pin) : (s.setWatch w).claimList i = s.claimList i :=
  State.claimList_congr (State.setWatch_claimLists s w) i
@[simp] theorem State.setWatch_waitLists (s : State) (w : Watch) : (s.setWatch w).waitLists = s.waitLists := rfl
@[simp] theorem State.setWatch_waitList (s : State) (w : Watch) (i : Chan) : (s.setWatch w).waitList i = s.waitList i :=
  State.waitList_congr (State.setWatch_waitLists s w) i
@[simp] theorem State.setWatch_policies (s : State) (w : Watch) : (s.setWatch w).policies = s.policies := rfl
@[simp] theorem State.setWatch_policy (s : State) (w : Watch) (i : Pin) : (s.setWatch w).policy i = s.policy i :=
  State.policy_congr (State.setWatch_policies s w) i
@[simp] theorem State.setWatch_pads (s : State) (w : Watch) : (s.setWatch w).pads = s.pads := rfl
@[simp] theorem State.setWatch_pad (s : State) (w : Watch) (i : Pin) : (s.setWatch w).pad i = s.pad i :=
  State.pad_congr (State.setWatch_pads s w) i
@[simp] theorem State.setWatch_channels (s : State) (w : Watch) : (s.setWatch w).channels = s.channels := rfl
@[simp] theorem State.setWatch_channel (s : State) (w : Watch) (i : Chan) : (s.setWatch w).channel i = s.channel i :=
  State.channel_congr (State.setWatch_channels s w) i
@[simp] theorem State.setWatch_queues (s : State) (w : Watch) : (s.setWatch w).queues = s.queues := rfl
@[simp] theorem State.setWatch_queue (s : State) (w : Watch) (i : Client) : (s.setWatch w).queue i = s.queue i :=
  State.queue_congr (State.setWatch_queues s w) i
@[simp] theorem State.setWatch_edgeOwed (s : State) (w : Watch) : (s.setWatch w).edgeOwed = s.edgeOwed := rfl

/-! ## dropWatch -/

@[simp] theorem State.dropWatch_pending (s : State) (c : Client) (p : Pin) : (s.dropWatch c p).pending = s.pending := rfl
@[simp] theorem State.dropWatch_ports (s : State) (c : Client) (p : Pin) : (s.dropWatch c p).ports = s.ports := rfl
@[simp] theorem State.dropWatch_port (s : State) (c : Client) (p : Pin) (i : Client) : (s.dropWatch c p).port i = s.port i :=
  State.port_congr (State.dropWatch_ports s c p) i
@[simp] theorem State.dropWatch_resetCause (s : State) (c : Client) (p : Pin) : (s.dropWatch c p).resetCause = s.resetCause := rfl
@[simp] theorem State.dropWatch_por (s : State) (c : Client) (p : Pin) : (s.dropWatch c p).por = s.por := rfl
@[simp] theorem State.dropWatch_nrstLow (s : State) (c : Client) (p : Pin) : (s.dropWatch c p).nrstLow = s.nrstLow := rfl
@[simp] theorem State.dropWatch_claims (s : State) (c : Client) (p : Pin) : (s.dropWatch c p).claims = s.claims := rfl
@[simp] theorem State.dropWatch_claimLists (s : State) (c : Client) (p : Pin) : (s.dropWatch c p).claimLists = s.claimLists := rfl
@[simp] theorem State.dropWatch_claimList (s : State) (c : Client) (p : Pin) (i : Pin) : (s.dropWatch c p).claimList i = s.claimList i :=
  State.claimList_congr (State.dropWatch_claimLists s c p) i
@[simp] theorem State.dropWatch_waitLists (s : State) (c : Client) (p : Pin) : (s.dropWatch c p).waitLists = s.waitLists := rfl
@[simp] theorem State.dropWatch_waitList (s : State) (c : Client) (p : Pin) (i : Chan) : (s.dropWatch c p).waitList i = s.waitList i :=
  State.waitList_congr (State.dropWatch_waitLists s c p) i
@[simp] theorem State.dropWatch_policies (s : State) (c : Client) (p : Pin) : (s.dropWatch c p).policies = s.policies := rfl
@[simp] theorem State.dropWatch_policy (s : State) (c : Client) (p : Pin) (i : Pin) : (s.dropWatch c p).policy i = s.policy i :=
  State.policy_congr (State.dropWatch_policies s c p) i
@[simp] theorem State.dropWatch_pads (s : State) (c : Client) (p : Pin) : (s.dropWatch c p).pads = s.pads := rfl
@[simp] theorem State.dropWatch_pad (s : State) (c : Client) (p : Pin) (i : Pin) : (s.dropWatch c p).pad i = s.pad i :=
  State.pad_congr (State.dropWatch_pads s c p) i
@[simp] theorem State.dropWatch_queues (s : State) (c : Client) (p : Pin) : (s.dropWatch c p).queues = s.queues := rfl
@[simp] theorem State.dropWatch_queue (s : State) (c : Client) (p : Pin) (i : Client) : (s.dropWatch c p).queue i = s.queue i :=
  State.queue_congr (State.dropWatch_queues s c p) i
@[simp] theorem State.dropWatch_edgeOwed (s : State) (c : Client) (p : Pin) : (s.dropWatch c p).edgeOwed = s.edgeOwed := rfl

/-! ## ready -/

@[simp] theorem State.ready_pending (s : State) (k : Chan) : (s.ready k).pending = s.pending := by
  unfold State.ready; (repeat' split) <;> simp
@[simp] theorem State.ready_sessions (s : State) (k : Chan) : (s.ready k).sessions = s.sessions := by
  unfold State.ready; (repeat' split) <;> simp
@[simp] theorem State.ready_session (s : State) (k : Chan) (i : Client) : (s.ready k).session i = s.session i :=
  State.session_congr (State.ready_sessions s k) i
@[simp] theorem State.ready_resetCause (s : State) (k : Chan) : (s.ready k).resetCause = s.resetCause := by
  unfold State.ready; (repeat' split) <;> simp
@[simp] theorem State.ready_por (s : State) (k : Chan) : (s.ready k).por = s.por := by
  unfold State.ready; (repeat' split) <;> simp
@[simp] theorem State.ready_nrstLow (s : State) (k : Chan) : (s.ready k).nrstLow = s.nrstLow := by
  unfold State.ready; (repeat' split) <;> simp
@[simp] theorem State.ready_claims (s : State) (k : Chan) : (s.ready k).claims = s.claims := by
  unfold State.ready; (repeat' split) <;> simp
@[simp] theorem State.ready_claimLists (s : State) (k : Chan) : (s.ready k).claimLists = s.claimLists := by
  unfold State.ready; (repeat' split) <;> simp
@[simp] theorem State.ready_claimList (s : State) (k : Chan) (i : Pin) : (s.ready k).claimList i = s.claimList i :=
  State.claimList_congr (State.ready_claimLists s k) i
@[simp] theorem State.ready_waitLists (s : State) (k : Chan) : (s.ready k).waitLists = s.waitLists := by
  unfold State.ready; (repeat' split) <;> simp
@[simp] theorem State.ready_waitList (s : State) (k : Chan) (i : Chan) : (s.ready k).waitList i = s.waitList i :=
  State.waitList_congr (State.ready_waitLists s k) i
@[simp] theorem State.ready_policies (s : State) (k : Chan) : (s.ready k).policies = s.policies := by
  unfold State.ready; (repeat' split) <;> simp
@[simp] theorem State.ready_policy (s : State) (k : Chan) (i : Pin) : (s.ready k).policy i = s.policy i :=
  State.policy_congr (State.ready_policies s k) i
@[simp] theorem State.ready_watches (s : State) (k : Chan) : (s.ready k).watches = s.watches := by
  unfold State.ready; (repeat' split) <;> simp

/-! ## triggered -/

@[simp] theorem State.triggered_pending (s : State) (k : Chan) : (s.triggered k).pending = s.pending := by
  unfold State.triggered; simp only []; split <;> simp
@[simp] theorem State.triggered_sessions (s : State) (k : Chan) : (s.triggered k).sessions = s.sessions := by
  unfold State.triggered; simp only []; split <;> simp
@[simp] theorem State.triggered_session (s : State) (k : Chan) (i : Client) : (s.triggered k).session i = s.session i :=
  State.session_congr (State.triggered_sessions s k) i
@[simp] theorem State.triggered_resetCause (s : State) (k : Chan) : (s.triggered k).resetCause = s.resetCause := by
  unfold State.triggered; simp only []; split <;> simp
@[simp] theorem State.triggered_por (s : State) (k : Chan) : (s.triggered k).por = s.por := by
  unfold State.triggered; simp only []; split <;> simp
@[simp] theorem State.triggered_nrstLow (s : State) (k : Chan) : (s.triggered k).nrstLow = s.nrstLow := by
  unfold State.triggered; simp only []; split <;> simp
@[simp] theorem State.triggered_claims (s : State) (k : Chan) : (s.triggered k).claims = s.claims := by
  unfold State.triggered; simp only []; split <;> simp
@[simp] theorem State.triggered_claimLists (s : State) (k : Chan) : (s.triggered k).claimLists = s.claimLists := by
  unfold State.triggered; simp only []; split <;> simp
@[simp] theorem State.triggered_claimList (s : State) (k : Chan) (i : Pin) : (s.triggered k).claimList i = s.claimList i :=
  State.claimList_congr (State.triggered_claimLists s k) i
@[simp] theorem State.triggered_waitLists (s : State) (k : Chan) : (s.triggered k).waitLists = s.waitLists := by
  unfold State.triggered; simp only []; split <;> simp
@[simp] theorem State.triggered_waitList (s : State) (k : Chan) (i : Chan) : (s.triggered k).waitList i = s.waitList i :=
  State.waitList_congr (State.triggered_waitLists s k) i
@[simp] theorem State.triggered_policies (s : State) (k : Chan) : (s.triggered k).policies = s.policies := by
  unfold State.triggered; simp only []; split <;> simp
@[simp] theorem State.triggered_policy (s : State) (k : Chan) (i : Pin) : (s.triggered k).policy i = s.policy i :=
  State.policy_congr (State.triggered_policies s k) i
@[simp] theorem State.triggered_watches (s : State) (k : Chan) : (s.triggered k).watches = s.watches := by
  unfold State.triggered; simp only []; split <;> simp

/-! ## takeOne -/

@[simp] theorem State.takeOne_pending (s : State) (k : Chan) : (s.takeOne k).pending = s.pending := by
  unfold State.takeOne; (repeat' split) <;> simp
@[simp] theorem State.takeOne_resetCause (s : State) (k : Chan) : (s.takeOne k).resetCause = s.resetCause := by
  unfold State.takeOne; (repeat' split) <;> simp
@[simp] theorem State.takeOne_por (s : State) (k : Chan) : (s.takeOne k).por = s.por := by
  unfold State.takeOne; (repeat' split) <;> simp
@[simp] theorem State.takeOne_nrstLow (s : State) (k : Chan) : (s.takeOne k).nrstLow = s.nrstLow := by
  unfold State.takeOne; (repeat' split) <;> simp
@[simp] theorem State.takeOne_policies (s : State) (k : Chan) : (s.takeOne k).policies = s.policies := by
  unfold State.takeOne; (repeat' split) <;> simp
@[simp] theorem State.takeOne_policy (s : State) (k : Chan) (i : Pin) : (s.takeOne k).policy i = s.policy i :=
  State.policy_congr (State.takeOne_policies s k) i
@[simp] theorem State.takeOne_watches (s : State) (k : Chan) : (s.takeOne k).watches = s.watches := by
  unfold State.takeOne; (repeat' split) <;> simp
@[simp] theorem State.takeOne_edgeOwed (s : State) (k : Chan) : (s.takeOne k).edgeOwed = s.edgeOwed := by
  unfold State.takeOne; (repeat' split) <;> simp

/-! ## takeWaiting -/

@[simp] theorem State.takeWaiting_pending (s : State) (k : Chan) : (s.takeWaiting k).pending = s.pending := by
  unfold State.takeWaiting; split
  · exact repeat_keeps (g := State.pending) (fun _ => by simp) _ s
  · rfl
@[simp] theorem State.takeWaiting_resetCause (s : State) (k : Chan) : (s.takeWaiting k).resetCause = s.resetCause := by
  unfold State.takeWaiting; split
  · exact repeat_keeps (g := State.resetCause) (fun _ => by simp) _ s
  · rfl
@[simp] theorem State.takeWaiting_por (s : State) (k : Chan) : (s.takeWaiting k).por = s.por := by
  unfold State.takeWaiting; split
  · exact repeat_keeps (g := State.por) (fun _ => by simp) _ s
  · rfl
@[simp] theorem State.takeWaiting_nrstLow (s : State) (k : Chan) : (s.takeWaiting k).nrstLow = s.nrstLow := by
  unfold State.takeWaiting; split
  · exact repeat_keeps (g := State.nrstLow) (fun _ => by simp) _ s
  · rfl
@[simp] theorem State.takeWaiting_policies (s : State) (k : Chan) : (s.takeWaiting k).policies = s.policies := by
  unfold State.takeWaiting; split
  · exact repeat_keeps (g := State.policies) (fun _ => by simp) _ s
  · rfl
@[simp] theorem State.takeWaiting_policy (s : State) (k : Chan) (i : Pin) : (s.takeWaiting k).policy i = s.policy i :=
  State.policy_congr (State.takeWaiting_policies s k) i
@[simp] theorem State.takeWaiting_watches (s : State) (k : Chan) : (s.takeWaiting k).watches = s.watches := by
  unfold State.takeWaiting; split
  · exact repeat_keeps (g := State.watches) (fun _ => by simp) _ s
  · rfl

/-! ## takeAllWaiting -/

@[simp] theorem State.takeAllWaiting_pending (s : State) : (s.takeAllWaiting).pending = s.pending :=
  foldl_keeps (g := State.pending) (fun _ _ => by simp) _ s
@[simp] theorem State.takeAllWaiting_resetCause (s : State) : (s.takeAllWaiting).resetCause = s.resetCause :=
  foldl_keeps (g := State.resetCause) (fun _ _ => by simp) _ s
@[simp] theorem State.takeAllWaiting_por (s : State) : (s.takeAllWaiting).por = s.por :=
  foldl_keeps (g := State.por) (fun _ _ => by simp) _ s
@[simp] theorem State.takeAllWaiting_nrstLow (s : State) : (s.takeAllWaiting).nrstLow = s.nrstLow :=
  foldl_keeps (g := State.nrstLow) (fun _ _ => by simp) _ s
@[simp] theorem State.takeAllWaiting_policies (s : State) : (s.takeAllWaiting).policies = s.policies :=
  foldl_keeps (g := State.policies) (fun _ _ => by simp) _ s
@[simp] theorem State.takeAllWaiting_policy (s : State) (i : Pin) : (s.takeAllWaiting).policy i = s.policy i :=
  State.policy_congr (State.takeAllWaiting_policies s) i
@[simp] theorem State.takeAllWaiting_watches (s : State) : (s.takeAllWaiting).watches = s.watches :=
  foldl_keeps (g := State.watches) (fun _ _ => by simp) _ s

/-! ## catchUp -/

@[simp] theorem State.catchUp_pending (s : State) : (s.catchUp).pending = s.pending :=
  repeat_keeps (g := State.pending) (fun _ => by simp) _ s
@[simp] theorem State.catchUp_resetCause (s : State) : (s.catchUp).resetCause = s.resetCause :=
  repeat_keeps (g := State.resetCause) (fun _ => by simp) _ s
@[simp] theorem State.catchUp_por (s : State) : (s.catchUp).por = s.por :=
  repeat_keeps (g := State.por) (fun _ => by simp) _ s
@[simp] theorem State.catchUp_nrstLow (s : State) : (s.catchUp).nrstLow = s.nrstLow :=
  repeat_keeps (g := State.nrstLow) (fun _ => by simp) _ s
@[simp] theorem State.catchUp_policies (s : State) : (s.catchUp).policies = s.policies :=
  repeat_keeps (g := State.policies) (fun _ => by simp) _ s
@[simp] theorem State.catchUp_policy (s : State) (i : Pin) : (s.catchUp).policy i = s.policy i :=
  State.policy_congr (State.catchUp_policies s) i
@[simp] theorem State.catchUp_watches (s : State) : (s.catchUp).watches = s.watches :=
  repeat_keeps (g := State.watches) (fun _ => by simp) _ s

/-! ## clocked -/

/-- A clock input is taken from the state as it is, or from the base tick that comes once the last is caught up with. -/
theorem State.inputReady_cases {s t : State} {k : Chan} (h : s.inputReady k = some t) :
    t = s ∨ t = s.catchUp.baseTick := by
  unfold State.inputReady at h
  split at h
  · exact absurd h (by simp)
  split at h
  · exact .inl (Option.some.inj h).symm
  split at h
  · exact .inr (Option.some.inj h).symm
  · exact absurd h (by simp)

@[simp] theorem State.clocked_pending (s : State) (k : Chan) (asked : InputKind → Bool) : (s.clocked k asked).pending = s.pending := by
  unfold State.clocked; split
  · next t e => rcases State.inputReady_cases e with h | h <;> subst h <;> split <;> simp
  · simp
@[simp] theorem State.clocked_resetCause (s : State) (k : Chan) (asked : InputKind → Bool) : (s.clocked k asked).resetCause = s.resetCause := by
  unfold State.clocked; split
  · next t e => rcases State.inputReady_cases e with h | h <;> subst h <;> split <;> simp
  · simp
@[simp] theorem State.clocked_por (s : State) (k : Chan) (asked : InputKind → Bool) : (s.clocked k asked).por = s.por := by
  unfold State.clocked; split
  · next t e => rcases State.inputReady_cases e with h | h <;> subst h <;> split <;> simp
  · simp
@[simp] theorem State.clocked_nrstLow (s : State) (k : Chan) (asked : InputKind → Bool) : (s.clocked k asked).nrstLow = s.nrstLow := by
  unfold State.clocked; split
  · next t e => rcases State.inputReady_cases e with h | h <;> subst h <;> split <;> simp
  · simp
@[simp] theorem State.clocked_policies (s : State) (k : Chan) (asked : InputKind → Bool) : (s.clocked k asked).policies = s.policies := by
  unfold State.clocked; split
  · next t e => rcases State.inputReady_cases e with h | h <;> subst h <;> split <;> simp
  · simp
@[simp] theorem State.clocked_policy (s : State) (k : Chan) (asked : InputKind → Bool) (i : Pin) : (s.clocked k asked).policy i = s.policy i :=
  State.policy_congr (State.clocked_policies s k asked) i
@[simp] theorem State.clocked_watches (s : State) (k : Chan) (asked : InputKind → Bool) : (s.clocked k asked).watches = s.watches := by
  unfold State.clocked; split
  · next t e => rcases State.inputReady_cases e with h | h <;> subst h <;> split <;> simp
  · simp

/-! ## boardChange -/

@[simp] theorem State.boardChange_pending (s : State) (p : Pin) (b : BoardLevel) : (s.boardChange p b).pending = s.pending := rfl
@[simp] theorem State.boardChange_ports (s : State) (p : Pin) (b : BoardLevel) : (s.boardChange p b).ports = s.ports := rfl
@[simp] theorem State.boardChange_port (s : State) (p : Pin) (b : BoardLevel) (i : Client) : (s.boardChange p b).port i = s.port i :=
  State.port_congr (State.boardChange_ports s p b) i
@[simp] theorem State.boardChange_sessions (s : State) (p : Pin) (b : BoardLevel) : (s.boardChange p b).sessions = s.sessions := rfl
@[simp] theorem State.boardChange_session (s : State) (p : Pin) (b : BoardLevel) (i : Client) : (s.boardChange p b).session i = s.session i :=
  State.session_congr (State.boardChange_sessions s p b) i
@[simp] theorem State.boardChange_resetCause (s : State) (p : Pin) (b : BoardLevel) : (s.boardChange p b).resetCause = s.resetCause := rfl
@[simp] theorem State.boardChange_por (s : State) (p : Pin) (b : BoardLevel) : (s.boardChange p b).por = s.por := rfl
@[simp] theorem State.boardChange_nrstLow (s : State) (p : Pin) (b : BoardLevel) : (s.boardChange p b).nrstLow = s.nrstLow := rfl
@[simp] theorem State.boardChange_claims (s : State) (p : Pin) (b : BoardLevel) : (s.boardChange p b).claims = s.claims := rfl
@[simp] theorem State.boardChange_claimLists (s : State) (p : Pin) (b : BoardLevel) : (s.boardChange p b).claimLists = s.claimLists := rfl
@[simp] theorem State.boardChange_claimList (s : State) (p : Pin) (b : BoardLevel) (i : Pin) : (s.boardChange p b).claimList i = s.claimList i :=
  State.claimList_congr (State.boardChange_claimLists s p b) i
@[simp] theorem State.boardChange_waitLists (s : State) (p : Pin) (b : BoardLevel) : (s.boardChange p b).waitLists = s.waitLists := rfl
@[simp] theorem State.boardChange_waitList (s : State) (p : Pin) (b : BoardLevel) (i : Chan) : (s.boardChange p b).waitList i = s.waitList i :=
  State.waitList_congr (State.boardChange_waitLists s p b) i
@[simp] theorem State.boardChange_policies (s : State) (p : Pin) (b : BoardLevel) : (s.boardChange p b).policies = s.policies := rfl
@[simp] theorem State.boardChange_policy (s : State) (p : Pin) (b : BoardLevel) (i : Pin) : (s.boardChange p b).policy i = s.policy i :=
  State.policy_congr (State.boardChange_policies s p b) i
@[simp] theorem State.boardChange_channels (s : State) (p : Pin) (b : BoardLevel) : (s.boardChange p b).channels = s.channels := rfl
@[simp] theorem State.boardChange_channel (s : State) (p : Pin) (b : BoardLevel) (i : Chan) : (s.boardChange p b).channel i = s.channel i :=
  State.channel_congr (State.boardChange_channels s p b) i
@[simp] theorem State.boardChange_watches (s : State) (p : Pin) (b : BoardLevel) : (s.boardChange p b).watches = s.watches := rfl
@[simp] theorem State.boardChange_queues (s : State) (p : Pin) (b : BoardLevel) : (s.boardChange p b).queues = s.queues := rfl
@[simp] theorem State.boardChange_queue (s : State) (p : Pin) (b : BoardLevel) (i : Client) : (s.boardChange p b).queue i = s.queue i :=
  State.queue_congr (State.boardChange_queues s p b) i
@[simp] theorem State.boardChange_edgeOwed (s : State) (p : Pin) (b : BoardLevel) : (s.boardChange p b).edgeOwed = s.edgeOwed := rfl

/-! ## tickComes -/

@[simp] theorem State.tickComes_pending (s : State) : (s.tickComes).pending = s.pending := by
  unfold State.tickComes; dsimp only; (repeat' split) <;> simp
@[simp] theorem State.tickComes_ports (s : State) : (s.tickComes).ports = s.ports := by
  unfold State.tickComes; dsimp only; (repeat' split) <;> simp
@[simp] theorem State.tickComes_port (s : State) (i : Client) : (s.tickComes).port i = s.port i :=
  State.port_congr (State.tickComes_ports s) i
@[simp] theorem State.tickComes_resetCause (s : State) : (s.tickComes).resetCause = s.resetCause := by
  unfold State.tickComes; dsimp only; (repeat' split) <;> simp
@[simp] theorem State.tickComes_por (s : State) : (s.tickComes).por = s.por := by
  unfold State.tickComes; dsimp only; (repeat' split) <;> simp
@[simp] theorem State.tickComes_nrstLow (s : State) : (s.tickComes).nrstLow = s.nrstLow := by
  unfold State.tickComes; dsimp only; (repeat' split) <;> simp
@[simp] theorem State.tickComes_claimLists (s : State) : (s.tickComes).claimLists = s.claimLists := by
  unfold State.tickComes; dsimp only; (repeat' split) <;> simp
@[simp] theorem State.tickComes_claimList (s : State) (i : Pin) : (s.tickComes).claimList i = s.claimList i :=
  State.claimList_congr (State.tickComes_claimLists s) i
@[simp] theorem State.tickComes_waitLists (s : State) : (s.tickComes).waitLists = s.waitLists := by
  unfold State.tickComes; dsimp only; (repeat' split) <;> simp
@[simp] theorem State.tickComes_waitList (s : State) (i : Chan) : (s.tickComes).waitList i = s.waitList i :=
  State.waitList_congr (State.tickComes_waitLists s) i
@[simp] theorem State.tickComes_policies (s : State) : (s.tickComes).policies = s.policies := by
  unfold State.tickComes; dsimp only; (repeat' split) <;> simp
@[simp] theorem State.tickComes_policy (s : State) (i : Pin) : (s.tickComes).policy i = s.policy i :=
  State.policy_congr (State.tickComes_policies s) i
@[simp] theorem State.tickComes_channels (s : State) : (s.tickComes).channels = s.channels := by
  unfold State.tickComes; dsimp only; (repeat' split) <;> simp
@[simp] theorem State.tickComes_channel (s : State) (i : Chan) : (s.tickComes).channel i = s.channel i :=
  State.channel_congr (State.tickComes_channels s) i
@[simp] theorem State.tickComes_watches (s : State) : (s.tickComes).watches = s.watches := by
  unfold State.tickComes; dsimp only; (repeat' split) <;> simp
@[simp] theorem State.tickComes_queues (s : State) : (s.tickComes).queues = s.queues := by
  unfold State.tickComes; dsimp only; (repeat' split) <;> simp
@[simp] theorem State.tickComes_queue (s : State) (i : Client) : (s.tickComes).queue i = s.queue i :=
  State.queue_congr (State.tickComes_queues s) i
@[simp] theorem State.tickComes_edgeOwed (s : State) : (s.tickComes).edgeOwed = s.edgeOwed := by
  unfold State.tickComes; dsimp only; (repeat' split) <;> simp

/-! ## expireHold -/

@[simp] theorem State.expireHold_pending (s : State) (c : Client) (p : Pin) : (s.expireHold c p).pending = s.pending :=
  by simp [State.expireHold]
@[simp] theorem State.expireHold_resetCause (s : State) (c : Client) (p : Pin) : (s.expireHold c p).resetCause = s.resetCause :=
  by simp [State.expireHold]
@[simp] theorem State.expireHold_por (s : State) (c : Client) (p : Pin) : (s.expireHold c p).por = s.por :=
  by simp [State.expireHold]
@[simp] theorem State.expireHold_nrstLow (s : State) (c : Client) (p : Pin) : (s.expireHold c p).nrstLow = s.nrstLow :=
  by simp [State.expireHold]
@[simp] theorem State.expireHold_policies (s : State) (c : Client) (p : Pin) : (s.expireHold c p).policies = s.policies :=
  by simp [State.expireHold]
@[simp] theorem State.expireHold_policy (s : State) (c : Client) (p : Pin) (i : Pin) : (s.expireHold c p).policy i = s.policy i :=
  State.policy_congr (State.expireHold_policies s c p) i
@[simp] theorem State.expireHold_watches (s : State) (c : Client) (p : Pin) : (s.expireHold c p).watches = s.watches :=
  by simp [State.expireHold]
@[simp] theorem State.expireHold_edgeOwed (s : State) (c : Client) (p : Pin) : (s.expireHold c p).edgeOwed = s.edgeOwed :=
  by simp [State.expireHold]

/-! ## expireLease -/

@[simp] theorem State.expireLease_pending (s : State) (c : Client) : (s.expireLease c).pending = s.pending := rfl
@[simp] theorem State.expireLease_resetCause (s : State) (c : Client) : (s.expireLease c).resetCause = s.resetCause := rfl
@[simp] theorem State.expireLease_por (s : State) (c : Client) : (s.expireLease c).por = s.por := rfl
@[simp] theorem State.expireLease_nrstLow (s : State) (c : Client) : (s.expireLease c).nrstLow = s.nrstLow := rfl
@[simp] theorem State.expireLease_claims (s : State) (c : Client) : (s.expireLease c).claims = s.claims := rfl
@[simp] theorem State.expireLease_claimLists (s : State) (c : Client) : (s.expireLease c).claimLists = s.claimLists := rfl
@[simp] theorem State.expireLease_claimList (s : State) (c : Client) (i : Pin) : (s.expireLease c).claimList i = s.claimList i :=
  State.claimList_congr (State.expireLease_claimLists s c) i
@[simp] theorem State.expireLease_waitLists (s : State) (c : Client) : (s.expireLease c).waitLists = s.waitLists := rfl
@[simp] theorem State.expireLease_waitList (s : State) (c : Client) (i : Chan) : (s.expireLease c).waitList i = s.waitList i :=
  State.waitList_congr (State.expireLease_waitLists s c) i
@[simp] theorem State.expireLease_policies (s : State) (c : Client) : (s.expireLease c).policies = s.policies := rfl
@[simp] theorem State.expireLease_policy (s : State) (c : Client) (i : Pin) : (s.expireLease c).policy i = s.policy i :=
  State.policy_congr (State.expireLease_policies s c) i
@[simp] theorem State.expireLease_pads (s : State) (c : Client) : (s.expireLease c).pads = s.pads := rfl
@[simp] theorem State.expireLease_pad (s : State) (c : Client) (i : Pin) : (s.expireLease c).pad i = s.pad i :=
  State.pad_congr (State.expireLease_pads s c) i
@[simp] theorem State.expireLease_channels (s : State) (c : Client) : (s.expireLease c).channels = s.channels := rfl
@[simp] theorem State.expireLease_channel (s : State) (c : Client) (i : Chan) : (s.expireLease c).channel i = s.channel i :=
  State.channel_congr (State.expireLease_channels s c) i
@[simp] theorem State.expireLease_watches (s : State) (c : Client) : (s.expireLease c).watches = s.watches := rfl
@[simp] theorem State.expireLease_edgeOwed (s : State) (c : Client) : (s.expireLease c).edgeOwed = s.edgeOwed := rfl

/-! ## expireGrace -/

@[simp] theorem State.expireGrace_pending (s : State) (c : Client) : (s.expireGrace c).pending = s.pending :=
  by simp [State.expireGrace]
@[simp] theorem State.expireGrace_resetCause (s : State) (c : Client) : (s.expireGrace c).resetCause = s.resetCause :=
  by simp [State.expireGrace]
@[simp] theorem State.expireGrace_por (s : State) (c : Client) : (s.expireGrace c).por = s.por :=
  by simp [State.expireGrace]
@[simp] theorem State.expireGrace_nrstLow (s : State) (c : Client) : (s.expireGrace c).nrstLow = s.nrstLow :=
  by simp [State.expireGrace]
@[simp] theorem State.expireGrace_policies (s : State) (c : Client) : (s.expireGrace c).policies = s.policies :=
  by simp [State.expireGrace]
@[simp] theorem State.expireGrace_policy (s : State) (c : Client) (i : Pin) : (s.expireGrace c).policy i = s.policy i :=
  State.policy_congr (State.expireGrace_policies s c) i
@[simp] theorem State.expireGrace_edgeOwed (s : State) (c : Client) : (s.expireGrace c).edgeOwed = s.edgeOwed :=
  by simp [State.expireGrace]

/-! ## takeDue -/

@[simp] theorem State.takeDue_pending (s : State) : (s.takeDue).pending = s.pending := by
  unfold State.takeDue
  rw [foldl_keeps (g := State.pending) (fun _ _ => by split <;> simp), foldl_keeps (g := State.pending) (fun _ _ => by (repeat' split) <;> simp),
    foldl_keeps (g := State.pending) (fun _ _ => foldl_keeps (g := State.pending) (fun _ _ => by split <;> simp) _ _)]
@[simp] theorem State.takeDue_resetCause (s : State) : (s.takeDue).resetCause = s.resetCause := by
  unfold State.takeDue
  rw [foldl_keeps (g := State.resetCause) (fun _ _ => by split <;> simp), foldl_keeps (g := State.resetCause) (fun _ _ => by (repeat' split) <;> simp),
    foldl_keeps (g := State.resetCause) (fun _ _ => foldl_keeps (g := State.resetCause) (fun _ _ => by split <;> simp) _ _)]
@[simp] theorem State.takeDue_por (s : State) : (s.takeDue).por = s.por := by
  unfold State.takeDue
  rw [foldl_keeps (g := State.por) (fun _ _ => by split <;> simp), foldl_keeps (g := State.por) (fun _ _ => by (repeat' split) <;> simp),
    foldl_keeps (g := State.por) (fun _ _ => foldl_keeps (g := State.por) (fun _ _ => by split <;> simp) _ _)]
@[simp] theorem State.takeDue_nrstLow (s : State) : (s.takeDue).nrstLow = s.nrstLow := by
  unfold State.takeDue
  rw [foldl_keeps (g := State.nrstLow) (fun _ _ => by split <;> simp), foldl_keeps (g := State.nrstLow) (fun _ _ => by (repeat' split) <;> simp),
    foldl_keeps (g := State.nrstLow) (fun _ _ => foldl_keeps (g := State.nrstLow) (fun _ _ => by split <;> simp) _ _)]
@[simp] theorem State.takeDue_policies (s : State) : (s.takeDue).policies = s.policies := by
  unfold State.takeDue
  rw [foldl_keeps (g := State.policies) (fun _ _ => by split <;> simp), foldl_keeps (g := State.policies) (fun _ _ => by (repeat' split) <;> simp),
    foldl_keeps (g := State.policies) (fun _ _ => foldl_keeps (g := State.policies) (fun _ _ => by split <;> simp) _ _)]
@[simp] theorem State.takeDue_policy (s : State) (i : Pin) : (s.takeDue).policy i = s.policy i :=
  State.policy_congr (State.takeDue_policies s) i

/-! ## nextTick -/

@[simp] theorem State.nextTick_pending (s : State) : (s.nextTick).pending = s.pending := by
  unfold State.nextTick; (repeat' split) <;> simp
@[simp] theorem State.nextTick_resetCause (s : State) : (s.nextTick).resetCause = s.resetCause := by
  unfold State.nextTick; (repeat' split) <;> simp
@[simp] theorem State.nextTick_por (s : State) : (s.nextTick).por = s.por := by
  unfold State.nextTick; (repeat' split) <;> simp
@[simp] theorem State.nextTick_nrstLow (s : State) : (s.nextTick).nrstLow = s.nrstLow := by
  unfold State.nextTick; (repeat' split) <;> simp
@[simp] theorem State.nextTick_policies (s : State) : (s.nextTick).policies = s.policies := by
  unfold State.nextTick; (repeat' split) <;> simp
@[simp] theorem State.nextTick_policy (s : State) (i : Pin) : (s.nextTick).policy i = s.policy i :=
  State.policy_congr (State.nextTick_policies s) i

/-! ## busSelect -/

@[simp] theorem State.busSelect_pending (s : State) (c : Client) : (s.busSelect c).pending = s.pending := by
  unfold State.busSelect; dsimp only; (repeat' split) <;> simp
@[simp] theorem State.busSelect_sessions (s : State) (c : Client) : (s.busSelect c).sessions = s.sessions := by
  unfold State.busSelect; dsimp only; (repeat' split) <;> simp
@[simp] theorem State.busSelect_session (s : State) (c : Client) (i : Client) : (s.busSelect c).session i = s.session i :=
  State.session_congr (State.busSelect_sessions s c) i
@[simp] theorem State.busSelect_resetCause (s : State) (c : Client) : (s.busSelect c).resetCause = s.resetCause := by
  unfold State.busSelect; dsimp only; (repeat' split) <;> simp
@[simp] theorem State.busSelect_por (s : State) (c : Client) : (s.busSelect c).por = s.por := by
  unfold State.busSelect; dsimp only; (repeat' split) <;> simp
@[simp] theorem State.busSelect_nrstLow (s : State) (c : Client) : (s.busSelect c).nrstLow = s.nrstLow := by
  unfold State.busSelect; dsimp only; (repeat' split) <;> simp
@[simp] theorem State.busSelect_claims (s : State) (c : Client) : (s.busSelect c).claims = s.claims := by
  unfold State.busSelect; dsimp only; (repeat' split) <;> simp
@[simp] theorem State.busSelect_claimLists (s : State) (c : Client) : (s.busSelect c).claimLists = s.claimLists := by
  unfold State.busSelect; dsimp only; (repeat' split) <;> simp
@[simp] theorem State.busSelect_claimList (s : State) (c : Client) (i : Pin) : (s.busSelect c).claimList i = s.claimList i :=
  State.claimList_congr (State.busSelect_claimLists s c) i
@[simp] theorem State.busSelect_waitLists (s : State) (c : Client) : (s.busSelect c).waitLists = s.waitLists := by
  unfold State.busSelect; dsimp only; (repeat' split) <;> simp
@[simp] theorem State.busSelect_waitList (s : State) (c : Client) (i : Chan) : (s.busSelect c).waitList i = s.waitList i :=
  State.waitList_congr (State.busSelect_waitLists s c) i
@[simp] theorem State.busSelect_policies (s : State) (c : Client) : (s.busSelect c).policies = s.policies := by
  unfold State.busSelect; dsimp only; (repeat' split) <;> simp
@[simp] theorem State.busSelect_policy (s : State) (c : Client) (i : Pin) : (s.busSelect c).policy i = s.policy i :=
  State.policy_congr (State.busSelect_policies s c) i
@[simp] theorem State.busSelect_pads (s : State) (c : Client) : (s.busSelect c).pads = s.pads := by
  unfold State.busSelect; dsimp only; (repeat' split) <;> simp
@[simp] theorem State.busSelect_pad (s : State) (c : Client) (i : Pin) : (s.busSelect c).pad i = s.pad i :=
  State.pad_congr (State.busSelect_pads s c) i
@[simp] theorem State.busSelect_channels (s : State) (c : Client) : (s.busSelect c).channels = s.channels := by
  unfold State.busSelect; dsimp only; (repeat' split) <;> simp
@[simp] theorem State.busSelect_channel (s : State) (c : Client) (i : Chan) : (s.busSelect c).channel i = s.channel i :=
  State.channel_congr (State.busSelect_channels s c) i
@[simp] theorem State.busSelect_watches (s : State) (c : Client) : (s.busSelect c).watches = s.watches := by
  unfold State.busSelect; dsimp only; (repeat' split) <;> simp
@[simp] theorem State.busSelect_queues (s : State) (c : Client) : (s.busSelect c).queues = s.queues := by
  unfold State.busSelect; dsimp only; (repeat' split) <;> simp
@[simp] theorem State.busSelect_queue (s : State) (c : Client) (i : Client) : (s.busSelect c).queue i = s.queue i :=
  State.queue_congr (State.busSelect_queues s c) i
@[simp] theorem State.busSelect_edgeOwed (s : State) (c : Client) : (s.busSelect c).edgeOwed = s.edgeOwed := by
  unfold State.busSelect; dsimp only; (repeat' split) <;> simp

/-! ## busByte -/

@[simp] theorem State.busByte_pending (s : State) (c : Client) (b : Byte) : (s.busByte c b).pending = s.pending := by
  unfold State.busByte State.busKind; dsimp only; (repeat' split) <;> rfl
@[simp] theorem State.busByte_sessions (s : State) (c : Client) (b : Byte) : (s.busByte c b).sessions = s.sessions := by
  unfold State.busByte State.busKind; dsimp only; (repeat' split) <;> rfl
@[simp] theorem State.busByte_session (s : State) (c : Client) (b : Byte) (i : Client) : (s.busByte c b).session i = s.session i :=
  State.session_congr (State.busByte_sessions s c b) i
@[simp] theorem State.busByte_resetCause (s : State) (c : Client) (b : Byte) : (s.busByte c b).resetCause = s.resetCause := by
  unfold State.busByte State.busKind; dsimp only; (repeat' split) <;> rfl
@[simp] theorem State.busByte_por (s : State) (c : Client) (b : Byte) : (s.busByte c b).por = s.por := by
  unfold State.busByte State.busKind; dsimp only; (repeat' split) <;> rfl
@[simp] theorem State.busByte_nrstLow (s : State) (c : Client) (b : Byte) : (s.busByte c b).nrstLow = s.nrstLow := by
  unfold State.busByte State.busKind; dsimp only; (repeat' split) <;> rfl
@[simp] theorem State.busByte_claims (s : State) (c : Client) (b : Byte) : (s.busByte c b).claims = s.claims := by
  unfold State.busByte State.busKind; dsimp only; (repeat' split) <;> rfl
@[simp] theorem State.busByte_claimLists (s : State) (c : Client) (b : Byte) : (s.busByte c b).claimLists = s.claimLists := by
  unfold State.busByte State.busKind; dsimp only; (repeat' split) <;> rfl
@[simp] theorem State.busByte_claimList (s : State) (c : Client) (b : Byte) (i : Pin) : (s.busByte c b).claimList i = s.claimList i :=
  State.claimList_congr (State.busByte_claimLists s c b) i
@[simp] theorem State.busByte_waitLists (s : State) (c : Client) (b : Byte) : (s.busByte c b).waitLists = s.waitLists := by
  unfold State.busByte State.busKind; dsimp only; (repeat' split) <;> rfl
@[simp] theorem State.busByte_waitList (s : State) (c : Client) (b : Byte) (i : Chan) : (s.busByte c b).waitList i = s.waitList i :=
  State.waitList_congr (State.busByte_waitLists s c b) i
@[simp] theorem State.busByte_policies (s : State) (c : Client) (b : Byte) : (s.busByte c b).policies = s.policies := by
  unfold State.busByte State.busKind; dsimp only; (repeat' split) <;> rfl
@[simp] theorem State.busByte_policy (s : State) (c : Client) (b : Byte) (i : Pin) : (s.busByte c b).policy i = s.policy i :=
  State.policy_congr (State.busByte_policies s c b) i
@[simp] theorem State.busByte_pads (s : State) (c : Client) (b : Byte) : (s.busByte c b).pads = s.pads := by
  unfold State.busByte State.busKind; dsimp only; (repeat' split) <;> rfl
@[simp] theorem State.busByte_pad (s : State) (c : Client) (b : Byte) (i : Pin) : (s.busByte c b).pad i = s.pad i :=
  State.pad_congr (State.busByte_pads s c b) i
@[simp] theorem State.busByte_channels (s : State) (c : Client) (b : Byte) : (s.busByte c b).channels = s.channels := by
  unfold State.busByte State.busKind; dsimp only; (repeat' split) <;> rfl
@[simp] theorem State.busByte_channel (s : State) (c : Client) (b : Byte) (i : Chan) : (s.busByte c b).channel i = s.channel i :=
  State.channel_congr (State.busByte_channels s c b) i
@[simp] theorem State.busByte_watches (s : State) (c : Client) (b : Byte) : (s.busByte c b).watches = s.watches := by
  unfold State.busByte State.busKind; dsimp only; (repeat' split) <;> rfl
@[simp] theorem State.busByte_queues (s : State) (c : Client) (b : Byte) : (s.busByte c b).queues = s.queues := by
  unfold State.busByte State.busKind; dsimp only; (repeat' split) <;> rfl
@[simp] theorem State.busByte_queue (s : State) (c : Client) (b : Byte) (i : Client) : (s.busByte c b).queue i = s.queue i :=
  State.queue_congr (State.busByte_queues s c b) i
@[simp] theorem State.busByte_edgeOwed (s : State) (c : Client) (b : Byte) : (s.busByte c b).edgeOwed = s.edgeOwed := by
  unfold State.busByte State.busKind; dsimp only; (repeat' split) <;> rfl

/-! ## busDeselect -/

@[simp] theorem State.busDeselect_pending (s : State) (c : Client) : (s.busDeselect c).pending = s.pending := by
  unfold State.busDeselect State.endWrite State.endRead; (repeat' split) <;> rfl
@[simp] theorem State.busDeselect_sessions (s : State) (c : Client) : (s.busDeselect c).sessions = s.sessions := by
  unfold State.busDeselect State.endWrite State.endRead; (repeat' split) <;> rfl
@[simp] theorem State.busDeselect_session (s : State) (c : Client) (i : Client) : (s.busDeselect c).session i = s.session i :=
  State.session_congr (State.busDeselect_sessions s c) i
@[simp] theorem State.busDeselect_resetCause (s : State) (c : Client) : (s.busDeselect c).resetCause = s.resetCause := by
  unfold State.busDeselect State.endWrite State.endRead; (repeat' split) <;> rfl
@[simp] theorem State.busDeselect_por (s : State) (c : Client) : (s.busDeselect c).por = s.por := by
  unfold State.busDeselect State.endWrite State.endRead; (repeat' split) <;> rfl
@[simp] theorem State.busDeselect_nrstLow (s : State) (c : Client) : (s.busDeselect c).nrstLow = s.nrstLow := by
  unfold State.busDeselect State.endWrite State.endRead; (repeat' split) <;> rfl
@[simp] theorem State.busDeselect_claims (s : State) (c : Client) : (s.busDeselect c).claims = s.claims := by
  unfold State.busDeselect State.endWrite State.endRead; (repeat' split) <;> rfl
@[simp] theorem State.busDeselect_claimLists (s : State) (c : Client) : (s.busDeselect c).claimLists = s.claimLists := by
  unfold State.busDeselect State.endWrite State.endRead; (repeat' split) <;> rfl
@[simp] theorem State.busDeselect_claimList (s : State) (c : Client) (i : Pin) : (s.busDeselect c).claimList i = s.claimList i :=
  State.claimList_congr (State.busDeselect_claimLists s c) i
@[simp] theorem State.busDeselect_waitLists (s : State) (c : Client) : (s.busDeselect c).waitLists = s.waitLists := by
  unfold State.busDeselect State.endWrite State.endRead; (repeat' split) <;> rfl
@[simp] theorem State.busDeselect_waitList (s : State) (c : Client) (i : Chan) : (s.busDeselect c).waitList i = s.waitList i :=
  State.waitList_congr (State.busDeselect_waitLists s c) i
@[simp] theorem State.busDeselect_policies (s : State) (c : Client) : (s.busDeselect c).policies = s.policies := by
  unfold State.busDeselect State.endWrite State.endRead; (repeat' split) <;> rfl
@[simp] theorem State.busDeselect_policy (s : State) (c : Client) (i : Pin) : (s.busDeselect c).policy i = s.policy i :=
  State.policy_congr (State.busDeselect_policies s c) i
@[simp] theorem State.busDeselect_pads (s : State) (c : Client) : (s.busDeselect c).pads = s.pads := by
  unfold State.busDeselect State.endWrite State.endRead; (repeat' split) <;> rfl
@[simp] theorem State.busDeselect_pad (s : State) (c : Client) (i : Pin) : (s.busDeselect c).pad i = s.pad i :=
  State.pad_congr (State.busDeselect_pads s c) i
@[simp] theorem State.busDeselect_channels (s : State) (c : Client) : (s.busDeselect c).channels = s.channels := by
  unfold State.busDeselect State.endWrite State.endRead; (repeat' split) <;> rfl
@[simp] theorem State.busDeselect_channel (s : State) (c : Client) (i : Chan) : (s.busDeselect c).channel i = s.channel i :=
  State.channel_congr (State.busDeselect_channels s c) i
@[simp] theorem State.busDeselect_watches (s : State) (c : Client) : (s.busDeselect c).watches = s.watches := by
  unfold State.busDeselect State.endWrite State.endRead; (repeat' split) <;> rfl
@[simp] theorem State.busDeselect_queues (s : State) (c : Client) : (s.busDeselect c).queues = s.queues := by
  unfold State.busDeselect State.endWrite State.endRead; (repeat' split) <;> rfl
@[simp] theorem State.busDeselect_queue (s : State) (c : Client) (i : Client) : (s.busDeselect c).queue i = s.queue i :=
  State.queue_congr (State.busDeselect_queues s c) i
@[simp] theorem State.busDeselect_edgeOwed (s : State) (c : Client) : (s.busDeselect c).edgeOwed = s.edgeOwed := by
  unfold State.busDeselect State.endWrite State.endRead; (repeat' split) <;> rfl

/-! ## busWhole -/

@[simp] theorem State.busWhole_pending (s : State) (c : Client) (kind : Byte) (bytes : List Byte) : (s.busWhole c kind bytes).pending = s.pending := by
  unfold State.busWhole; split
  · rw [State.busDeselect_pending, foldl_keeps (g := State.pending) (fun _ _ => by simp), State.busSelect_pending]
  · rfl
@[simp] theorem State.busWhole_sessions (s : State) (c : Client) (kind : Byte) (bytes : List Byte) : (s.busWhole c kind bytes).sessions = s.sessions := by
  unfold State.busWhole; split
  · rw [State.busDeselect_sessions, foldl_keeps (g := State.sessions) (fun _ _ => by simp), State.busSelect_sessions]
  · rfl
@[simp] theorem State.busWhole_session (s : State) (c : Client) (kind : Byte) (bytes : List Byte) (i : Client) : (s.busWhole c kind bytes).session i = s.session i :=
  State.session_congr (State.busWhole_sessions s c kind bytes) i
@[simp] theorem State.busWhole_resetCause (s : State) (c : Client) (kind : Byte) (bytes : List Byte) : (s.busWhole c kind bytes).resetCause = s.resetCause := by
  unfold State.busWhole; split
  · rw [State.busDeselect_resetCause, foldl_keeps (g := State.resetCause) (fun _ _ => by simp), State.busSelect_resetCause]
  · rfl
@[simp] theorem State.busWhole_por (s : State) (c : Client) (kind : Byte) (bytes : List Byte) : (s.busWhole c kind bytes).por = s.por := by
  unfold State.busWhole; split
  · rw [State.busDeselect_por, foldl_keeps (g := State.por) (fun _ _ => by simp), State.busSelect_por]
  · rfl
@[simp] theorem State.busWhole_nrstLow (s : State) (c : Client) (kind : Byte) (bytes : List Byte) : (s.busWhole c kind bytes).nrstLow = s.nrstLow := by
  unfold State.busWhole; split
  · rw [State.busDeselect_nrstLow, foldl_keeps (g := State.nrstLow) (fun _ _ => by simp), State.busSelect_nrstLow]
  · rfl
@[simp] theorem State.busWhole_claims (s : State) (c : Client) (kind : Byte) (bytes : List Byte) : (s.busWhole c kind bytes).claims = s.claims := by
  unfold State.busWhole; split
  · rw [State.busDeselect_claims, foldl_keeps (g := State.claims) (fun _ _ => by simp), State.busSelect_claims]
  · rfl
@[simp] theorem State.busWhole_claimLists (s : State) (c : Client) (kind : Byte) (bytes : List Byte) : (s.busWhole c kind bytes).claimLists = s.claimLists := by
  unfold State.busWhole; split
  · rw [State.busDeselect_claimLists, foldl_keeps (g := State.claimLists) (fun _ _ => by simp), State.busSelect_claimLists]
  · rfl
@[simp] theorem State.busWhole_claimList (s : State) (c : Client) (kind : Byte) (bytes : List Byte) (i : Pin) : (s.busWhole c kind bytes).claimList i = s.claimList i :=
  State.claimList_congr (State.busWhole_claimLists s c kind bytes) i
@[simp] theorem State.busWhole_waitLists (s : State) (c : Client) (kind : Byte) (bytes : List Byte) : (s.busWhole c kind bytes).waitLists = s.waitLists := by
  unfold State.busWhole; split
  · rw [State.busDeselect_waitLists, foldl_keeps (g := State.waitLists) (fun _ _ => by simp), State.busSelect_waitLists]
  · rfl
@[simp] theorem State.busWhole_waitList (s : State) (c : Client) (kind : Byte) (bytes : List Byte) (i : Chan) : (s.busWhole c kind bytes).waitList i = s.waitList i :=
  State.waitList_congr (State.busWhole_waitLists s c kind bytes) i
@[simp] theorem State.busWhole_policies (s : State) (c : Client) (kind : Byte) (bytes : List Byte) : (s.busWhole c kind bytes).policies = s.policies := by
  unfold State.busWhole; split
  · rw [State.busDeselect_policies, foldl_keeps (g := State.policies) (fun _ _ => by simp), State.busSelect_policies]
  · rfl
@[simp] theorem State.busWhole_policy (s : State) (c : Client) (kind : Byte) (bytes : List Byte) (i : Pin) : (s.busWhole c kind bytes).policy i = s.policy i :=
  State.policy_congr (State.busWhole_policies s c kind bytes) i
@[simp] theorem State.busWhole_pads (s : State) (c : Client) (kind : Byte) (bytes : List Byte) : (s.busWhole c kind bytes).pads = s.pads := by
  unfold State.busWhole; split
  · rw [State.busDeselect_pads, foldl_keeps (g := State.pads) (fun _ _ => by simp), State.busSelect_pads]
  · rfl
@[simp] theorem State.busWhole_pad (s : State) (c : Client) (kind : Byte) (bytes : List Byte) (i : Pin) : (s.busWhole c kind bytes).pad i = s.pad i :=
  State.pad_congr (State.busWhole_pads s c kind bytes) i
@[simp] theorem State.busWhole_channels (s : State) (c : Client) (kind : Byte) (bytes : List Byte) : (s.busWhole c kind bytes).channels = s.channels := by
  unfold State.busWhole; split
  · rw [State.busDeselect_channels, foldl_keeps (g := State.channels) (fun _ _ => by simp), State.busSelect_channels]
  · rfl
@[simp] theorem State.busWhole_channel (s : State) (c : Client) (kind : Byte) (bytes : List Byte) (i : Chan) : (s.busWhole c kind bytes).channel i = s.channel i :=
  State.channel_congr (State.busWhole_channels s c kind bytes) i
@[simp] theorem State.busWhole_watches (s : State) (c : Client) (kind : Byte) (bytes : List Byte) : (s.busWhole c kind bytes).watches = s.watches := by
  unfold State.busWhole; split
  · rw [State.busDeselect_watches, foldl_keeps (g := State.watches) (fun _ _ => by simp), State.busSelect_watches]
  · rfl
@[simp] theorem State.busWhole_queues (s : State) (c : Client) (kind : Byte) (bytes : List Byte) : (s.busWhole c kind bytes).queues = s.queues := by
  unfold State.busWhole; split
  · rw [State.busDeselect_queues, foldl_keeps (g := State.queues) (fun _ _ => by simp), State.busSelect_queues]
  · rfl
@[simp] theorem State.busWhole_queue (s : State) (c : Client) (kind : Byte) (bytes : List Byte) (i : Client) : (s.busWhole c kind bytes).queue i = s.queue i :=
  State.queue_congr (State.busWhole_queues s c kind bytes) i
@[simp] theorem State.busWhole_edgeOwed (s : State) (c : Client) (kind : Byte) (bytes : List Byte) : (s.busWhole c kind bytes).edgeOwed = s.edgeOwed := by
  unfold State.busWhole; split
  · rw [State.busDeselect_edgeOwed, foldl_keeps (g := State.edgeOwed) (fun _ _ => by simp), State.busSelect_edgeOwed]
  · rfl

/-! ## bus -/

@[simp] theorem State.bus_pending (s : State) (c : Client) (kind : Byte) (part : BusPart) : (s.bus c kind part).pending = s.pending := by
  cases part <;> simp [State.bus]
@[simp] theorem State.bus_sessions (s : State) (c : Client) (kind : Byte) (part : BusPart) : (s.bus c kind part).sessions = s.sessions := by
  cases part <;> simp [State.bus]
@[simp] theorem State.bus_session (s : State) (c : Client) (kind : Byte) (part : BusPart) (i : Client) : (s.bus c kind part).session i = s.session i :=
  State.session_congr (State.bus_sessions s c kind part) i
@[simp] theorem State.bus_resetCause (s : State) (c : Client) (kind : Byte) (part : BusPart) : (s.bus c kind part).resetCause = s.resetCause := by
  cases part <;> simp [State.bus]
@[simp] theorem State.bus_por (s : State) (c : Client) (kind : Byte) (part : BusPart) : (s.bus c kind part).por = s.por := by
  cases part <;> simp [State.bus]
@[simp] theorem State.bus_nrstLow (s : State) (c : Client) (kind : Byte) (part : BusPart) : (s.bus c kind part).nrstLow = s.nrstLow := by
  cases part <;> simp [State.bus]
@[simp] theorem State.bus_claims (s : State) (c : Client) (kind : Byte) (part : BusPart) : (s.bus c kind part).claims = s.claims := by
  cases part <;> simp [State.bus]
@[simp] theorem State.bus_claimLists (s : State) (c : Client) (kind : Byte) (part : BusPart) : (s.bus c kind part).claimLists = s.claimLists := by
  cases part <;> simp [State.bus]
@[simp] theorem State.bus_claimList (s : State) (c : Client) (kind : Byte) (part : BusPart) (i : Pin) : (s.bus c kind part).claimList i = s.claimList i :=
  State.claimList_congr (State.bus_claimLists s c kind part) i
@[simp] theorem State.bus_waitLists (s : State) (c : Client) (kind : Byte) (part : BusPart) : (s.bus c kind part).waitLists = s.waitLists := by
  cases part <;> simp [State.bus]
@[simp] theorem State.bus_waitList (s : State) (c : Client) (kind : Byte) (part : BusPart) (i : Chan) : (s.bus c kind part).waitList i = s.waitList i :=
  State.waitList_congr (State.bus_waitLists s c kind part) i
@[simp] theorem State.bus_policies (s : State) (c : Client) (kind : Byte) (part : BusPart) : (s.bus c kind part).policies = s.policies := by
  cases part <;> simp [State.bus]
@[simp] theorem State.bus_policy (s : State) (c : Client) (kind : Byte) (part : BusPart) (i : Pin) : (s.bus c kind part).policy i = s.policy i :=
  State.policy_congr (State.bus_policies s c kind part) i
@[simp] theorem State.bus_pads (s : State) (c : Client) (kind : Byte) (part : BusPart) : (s.bus c kind part).pads = s.pads := by
  cases part <;> simp [State.bus]
@[simp] theorem State.bus_pad (s : State) (c : Client) (kind : Byte) (part : BusPart) (i : Pin) : (s.bus c kind part).pad i = s.pad i :=
  State.pad_congr (State.bus_pads s c kind part) i
@[simp] theorem State.bus_channels (s : State) (c : Client) (kind : Byte) (part : BusPart) : (s.bus c kind part).channels = s.channels := by
  cases part <;> simp [State.bus]
@[simp] theorem State.bus_channel (s : State) (c : Client) (kind : Byte) (part : BusPart) (i : Chan) : (s.bus c kind part).channel i = s.channel i :=
  State.channel_congr (State.bus_channels s c kind part) i
@[simp] theorem State.bus_watches (s : State) (c : Client) (kind : Byte) (part : BusPart) : (s.bus c kind part).watches = s.watches := by
  cases part <;> simp [State.bus]
@[simp] theorem State.bus_queues (s : State) (c : Client) (kind : Byte) (part : BusPart) : (s.bus c kind part).queues = s.queues := by
  cases part <;> simp [State.bus]
@[simp] theorem State.bus_queue (s : State) (c : Client) (kind : Byte) (part : BusPart) (i : Client) : (s.bus c kind part).queue i = s.queue i :=
  State.queue_congr (State.bus_queues s c kind part) i
@[simp] theorem State.bus_edgeOwed (s : State) (c : Client) (kind : Byte) (part : BusPart) : (s.bus c kind part).edgeOwed = s.edgeOwed := by
  cases part <;> simp [State.bus]

end Sys2Proof.Machine
end

