-- ==== Sys2Proof/Laws/Notices.lean ====
section
/-! SUPPORT. Notices: what a placement does to a queue, what the placements of an event do to every queue and
port, and that TOP_CHANGE notices are those of `topNotices`. -/

namespace Sys2Proof.Machine

open Sys2Proof

/-! ## Queues -/

/-- The kinds and objects a queue holds, from head to tail. -/
def Queue.keys (q : Queue) : List NoticeKey := q.entries.map fun e => e.notice.key

theorem Queue.mem_keys {q : Queue} {x : NoticeKey} : x ∈ q.keys ↔ ∃ e ∈ q.entries, e.notice.key = x := by
  simp [Queue.keys]

theorem Queue.any_key {q : Queue} {n : Notice} :
    (q.entries.any fun e => e.notice.key = n.key) = decide (n.key ∈ q.keys) := by
  rw [Bool.eq_iff_iff]; simp [Queue.mem_keys]

/-- A coalescing placement (R142, R143). -/
theorem Queue.place_of_mem {q : Queue} {n : Notice} (h : n.key ∈ q.keys) :
    q.place n = { q with entries := q.entries.map fun e =>
      if e.notice.key = n.key then { notice := n, repeats := min Config.countMax (e.repeats + 1) } else e } := by
  simp only [Queue.place, Queue.any_key, h, decide_true, if_true]

/-- A placement that joins at the tail (R142). -/
theorem Queue.place_of_room {q : Queue} {n : Notice} (h : n.key ∉ q.keys)
    (room : q.entries.length < Config.queueSize) :
    q.place n = { q with entries := q.entries ++ [{ notice := n, repeats := 1 }] } := by
  simp [Queue.place, Queue.any_key, h, room]

/-- A placement that is dropped (R142, R145). -/
theorem Queue.place_of_full {q : Queue} {n : Notice} (h : n.key ∉ q.keys)
    (full : Config.queueSize ≤ q.entries.length) :
    q.place n = { q with dropped := min Config.countMax (q.dropped + 1) } := by
  simp [Queue.place, Queue.any_key, h, Nat.not_lt.mpr full]

/-- The kinds and objects after a placement: no key moves, and none is held twice. -/
theorem Queue.place_keys (q : Queue) (n : Notice) :
    (q.place n).keys = if n.key ∈ q.keys ∨ Config.queueSize ≤ q.entries.length then q.keys
      else q.keys ++ [n.key] := by
  by_cases h : n.key ∈ q.keys
  · rw [Queue.place_of_mem h, if_pos (.inl h)]
    simp only [Queue.keys, List.map_map]
    refine List.map_congr_left fun e _ => ?_
    simp only [Function.comp]; split <;> simp_all
  · by_cases f : Config.queueSize ≤ q.entries.length
    · rw [Queue.place_of_full h f, if_pos (.inr f)]; rfl
    · rw [Queue.place_of_room h (Nat.not_le.mp f), if_neg (by simp [h, f])]; simp [Queue.keys]

/-- The depth after a placement. -/
theorem Queue.place_length (q : Queue) (n : Notice) :
    (q.place n).entries.length = if n.key ∈ q.keys ∨ Config.queueSize ≤ q.entries.length
      then q.entries.length else q.entries.length + 1 := by
  have h := congrArg List.length (Queue.place_keys q n)
  rw [apply_ite List.length] at h
  simpa [Queue.keys] using h

/-- A placement leaves a queue non-empty. -/
theorem Queue.place_ne_nil (q : Queue) (n : Notice) : (q.place n).entries ≠ [] := by
  intro e
  have h := Queue.place_length q n
  rw [e] at h
  by_cases k : n.key ∈ q.keys
  · obtain ⟨x, hx, -⟩ := Queue.mem_keys.mp k
    rw [if_pos (.inl k)] at h
    exact absurd (List.length_eq_zero_iff.mp h.symm) (List.ne_nil_of_mem hx)
  · split at h
    · next hc =>
      obtain hc | hc := hc
      · exact k hc
      · rw [← h] at hc; exact absurd hc (by decide)
    · simp at h

@[simp] theorem Queue.place_isEmpty (q : Queue) (n : Notice) : (q.place n).entries.isEmpty = false := by
  have h := Queue.place_ne_nil q n
  revert h; cases (q.place n).entries <;> simp

/-- FETCH of an empty queue or of one that dropped nothing (R146). -/
theorem Queue.fetch_of_none {q : Queue} {n : Nat} (h : (q.entries.take n).isEmpty = true ∨ q.dropped = 0) :
    q.fetch n = { q with entries := q.entries.drop n } := by
  simp only [Queue.fetch]; rw [if_pos (by simpa using h)]

/-- FETCH that makes room in a queue that dropped notices (R147). -/
theorem Queue.fetch_of_dropped {q : Queue} {n : Nat} (h : (q.entries.take n).isEmpty = false)
    (hd : q.dropped ≠ 0) :
    q.fetch n = { ({ q with entries := q.entries.drop n } : Queue).place (.overflow q.dropped) with dropped := 0 } := by
  simp only [Queue.fetch]; rw [if_neg (by simp [h, hd])]

/-! ## Placements in a state -/

theorem State.port_syncAttention (s : State) (c d : Client) :
    (s.syncAttention c).port d = if c = d then
      { s.port c with attention := (s.port c).state = .answered || !(s.queue c).entries.isEmpty }
    else s.port d := by
  simp [State.syncAttention, State.port_setPort]

theorem State.queue_place (s : State) (c d : Client) (n : Notice) :
    (s.place c n).queue d = if c = d then (s.queue c).place n else s.queue d := by
  simp [State.place, State.queue_setQueue]

theorem State.port_place (s : State) (c d : Client) (n : Notice) :
    (s.place c n).port d = if c = d then { s.port c with attention := true } else s.port d := by
  simp [State.place, State.port_syncAttention]

/-- What any run of placements does: queues take placements, and a port's attention line may rise. -/
structure Placed (s t : State) : Prop where
  ports : ∀ c : Client, t.port c = { s.port c with attention := (t.port c).attention }
  attention : ∀ c : Client, t.queue c = s.queue c ∧ (t.port c).attention = (s.port c).attention ∨
    (t.queue c).entries ≠ [] ∧ (t.port c).attention = true
  frame : t = { s with ports := t.ports, queues := t.queues }

theorem Placed.refl (s : State) : Placed s s := ⟨fun _ => rfl, fun _ => .inl ⟨rfl, rfl⟩, rfl⟩

theorem Placed.place (s : State) (c : Client) (n : Notice) : Placed s (s.place c n) where
  ports d := by rw [State.port_place]; split <;> simp_all
  attention d := by
    rw [State.port_place, State.queue_place]
    by_cases h : c = d <;> simp [h, Queue.place_ne_nil]
  frame := rfl

theorem Placed.trans {s t u : State} (a : Placed s t) (b : Placed t u) : Placed s u where
  ports c := by rw [b.ports c, a.ports c]
  attention c := by
    obtain ⟨hq, ha⟩ | h := b.attention c
    · obtain ⟨hq', ha'⟩ | ⟨h1, h2⟩ := a.attention c
      · exact .inl ⟨hq.trans hq', ha.trans ha'⟩
      · exact .inr ⟨hq ▸ h1, ha.trans h2⟩
    · exact .inr h
  frame := by rw [b.frame, a.frame]

theorem Placed.foldl {α : Type} {f : State → α → State} (h : ∀ s a, Placed s (f s a)) (l : List α) (s : State) :
    Placed s (l.foldl f s) := by
  induction l generalizing s with
  | nil => exact .refl s
  | cons a l ih => exact (h s a).trans (ih _)

/-- The attention law survives placements. -/
theorem Placed.attentionOk {s t : State} (h : Placed s t) (hs : s.AttentionOk) : t.AttentionOk := by
  intro c
  obtain ⟨hq, ha⟩ | ⟨hq, ha⟩ := h.attention c
  · rw [ha, hq, hs c, h.ports c]
  · rw [ha]; cases hc : (t.queue c).entries <;> simp_all

theorem Placed.samePorts {s t : State} (h : Placed s t) : SamePorts s t := fun c => by rw [h.ports c]

theorem Placed.placeAll (s : State) (cs : List Client) (n : Notice) : Placed s (s.placeAll cs n) :=
  Placed.foldl (fun s c => .place s c n) cs s

/-- A notice placed once in the queue of each listed client. -/
theorem State.queue_placeAll (s : State) {cs : List Client} (h : cs.Nodup) (n : Notice) (d : Client) :
    (s.placeAll cs n).queue d = if d ∈ cs then (s.queue d).place n else s.queue d := by
  induction cs generalizing s with
  | nil => rfl
  | cons c cs ih =>
    obtain ⟨hc, hn⟩ := List.nodup_cons.mp h
    show ((s.place c n).placeAll cs n).queue d = _
    rw [ih _ hn, State.queue_place]
    by_cases e : c = d
    · subst e; simp [hc]
    · simp [e, Ne.symm e]

theorem Placed.noteOwner (s : State) (k : Chan) (n : Notice) : Placed s (s.noteOwner k n) := by
  unfold State.noteOwner; split
  · exact .place ..
  · exact .refl s

theorem State.queue_noteOwner (s : State) (k : Chan) (n : Notice) (d : Client) :
    (s.noteOwner k n).queue d = if (s.channel k).owner = some d then (s.queue d).place n else s.queue d := by
  unfold State.noteOwner
  cases h : (s.channel k).owner with
  | none => simp
  | some c => by_cases e : c = d <;> simp [State.queue_place, e]

theorem Placed.noteSource (s : State) (k : Chan) (excl : Option Client) : Placed s (s.noteSource k excl) :=
  .placeAll ..

theorem allClients_nodup : allClients.Nodup := List.nodup_finRange 4
theorem allPins_nodup : allPins.Nodup := List.nodup_finRange 16
theorem allChans_nodup : allChans.Nodup := List.nodup_finRange 6
@[simp] theorem mem_allClients (c : Client) : c ∈ allClients := List.mem_finRange c
@[simp] theorem mem_allPins (p : Pin) : p ∈ allPins := List.mem_finRange p
@[simp] theorem mem_allChans (k : Chan) : k ∈ allChans := List.mem_finRange k

/-- SOURCE_CHANGE reaches every client that relies on the channel, less one (R102, R103). -/
theorem State.queue_noteSource (s : State) (k : Chan) (excl : Option Client) (d : Client) :
    (s.noteSource k excl).queue d = if excl ≠ some d ∧ s.relies d k = true then
        (s.queue d).place (.sourceChange k (s.channel k).state (s.channel k).owner.isSome)
      else s.queue d := by
  rw [State.noteSource, State.queue_placeAll _ (allClients_nodup.filter _)]
  simp

/-! ## TOP_CHANGE -/

theorem Placed.noteTop (b : State) (x : Option Client) (s : State) (p : Pin) : Placed s (State.noteTop b x s p) := by
  unfold State.noteTop
  (repeat' split) <;> (try exact .refl _) <;> (try exact .place ..)
  all_goals exact (Placed.place ..).trans (.place ..)

theorem Placed.noteTops (b : State) (x : Option Client) (s : State) : Placed s (State.noteTops b x s) :=
  Placed.foldl (fun t p => .noteTop b x t p) _ _

/-- One pin's TOP_CHANGE notices, seen from one queue (R10, R11). -/
theorem State.queue_noteTop (b : State) (x : Option Client) (s : State) (p : Pin) (d : Client) :
    (State.noteTop b x s p).queue d = topNotice b s x d (s.queue d) p := by
  unfold State.noteTop topNotice
  cases hs : s.top p with
  | none => simp
  | some y =>
    by_cases h : b.top p = some y
    · simp [h]
    simp only [h, if_false]
    suffices ∀ u : State, (∀ c : Client, u.queue c =
        if b.top p = some c ∧ c ∈ s.claimList p ∧ x ≠ some c then
          (s.queue c).place (.topChange p false y (s.rankAt y p)) else s.queue c) →
        (if x = some y then u else u.place y (.topChange p true y (s.rankAt y p))).queue d = _ by
      refine this _ fun c => ?_
      cases b.top p with
      | none => simp
      | some o =>
        by_cases e : o = c
        · subst e; by_cases m : o ∈ s.claimList p <;> by_cases xo : x = some o <;> simp [m, xo, State.queue_place]
        · by_cases m : o ∈ s.claimList p <;> by_cases xo : x = some o <;> simp [m, xo, State.queue_place, e]
    intro u q
    split
    · next e => rw [q]; subst e; by_cases yd : y = d <;> simp_all [and_comm]
    · next e =>
      rw [State.queue_place]
      by_cases yd : y = d
      · subst yd; rw [if_pos rfl, q]; simp [h, e]
      · rw [if_neg yd, q]; simp [h, yd, and_comm, and_assoc]

theorem State.rankAt_congr {s t : State} (h : t.claims = s.claims) (c : Client) (p : Pin) :
    t.rankAt c p = s.rankAt c p := by simp [State.rankAt, State.claimAt, h]

/-- What `topNotice` looks at in the state after the event. -/
theorem topNotice_congr {b t u : State} (hl : u.claimLists = t.claimLists) (hc : u.claims = t.claims)
    (x : Option Client) (d : Client) (q : Queue) (p : Pin) : topNotice b u x d q p = topNotice b t x d q p := by
  simp only [topNotice, State.top, State.claimList_congr hl, State.rankAt_congr hc]; rfl

/-- What `topNotice` looks at in the state before the event. -/
theorem topNotice_congr_before {b b' t : State} (hl : b'.claimLists = b.claimLists)
    (x : Option Client) (d : Client) (q : Queue) (p : Pin) : topNotice b' t x d q p = topNotice b t x d q p := by
  simp only [topNotice, State.top, State.claimList_congr hl]; rfl

theorem topNotices_congr {b t u : State} (hl : u.claimLists = t.claimLists) (hc : u.claims = t.claims)
    (x : Option Client) (d : Client) (q : Queue) : topNotices b u x d q = topNotices b t x d q := by
  exact congrArg (fun f => allPins.foldl f q) (funext₂ fun q p => topNotice_congr hl hc x d q p)

theorem topNotices_congr_before {b b' t : State} (hl : b'.claimLists = b.claimLists)
    (x : Option Client) (d : Client) (q : Queue) : topNotices b' t x d q = topNotices b t x d q := by
  exact congrArg (fun f => allPins.foldl f q) (funext₂ fun q p => topNotice_congr_before hl x d q p)

/-- The TOP_CHANGE notices of an event, seen from one queue (R10, R11, R144). -/
theorem State.queue_noteTops (b : State) (x : Option Client) (s : State) (d : Client) :
    (State.noteTops b x s).queue d = topNotices b s x d (s.queue d) := by
  unfold State.noteTops topNotices
  suffices ∀ (l : List Pin) (u : State), u.claimLists = s.claimLists → u.claims = s.claims →
      (l.foldl (fun t p => State.noteTop b x t p) u).queue d = l.foldl (topNotice b s x d) (u.queue d) from
    this _ _ rfl rfl
  intro l
  induction l with
  | nil => intros; rfl
  | cons p l ih =>
    intro u hl hc
    simp only [List.foldl_cons]
    rw [ih _ (by simp [hl]) (by simp [hc]), State.queue_noteTop, topNotice_congr hl hc]

/-- An event that changes no top places no TOP_CHANGE. -/
theorem topNotice_of_same_top {b t : State} {p : Pin} (h : b.top p = t.top p) (x : Option Client) (d : Client)
    (q : Queue) : topNotice b t x d q p = q := by
  unfold topNotice; split
  · rfl
  · next y hy => rw [if_neg (by rw [h, hy]; simp)]

/-- An event that may change the top of one pin alone. -/
theorem topNotices_of_one {b t : State} {p : Pin} (h : ∀ r : Pin, r ≠ p → b.top r = t.top r) (x : Option Client)
    (d : Client) (q : Queue) : topNotices b t x d q = topNotice b t x d q p := by
  unfold topNotices
  suffices ∀ (l : List Pin) (q : Queue), l.Nodup →
      l.foldl (topNotice b t x d) q = if p ∈ l then topNotice b t x d q p else q by
    rw [this _ _ allPins_nodup, if_pos (mem_allPins p)]
  intro l
  induction l with
  | nil => intros; rfl
  | cons r l ih =>
    intro q hn
    obtain ⟨hr, hn⟩ := List.nodup_cons.mp hn
    rw [List.foldl_cons, ih _ hn]
    by_cases e : r = p
    · subst e; simp [hr]
    · rw [topNotice_of_same_top (h r e)]; simp [Ne.symm e]

end Sys2Proof.Machine
end

