-- ==== Sys2Proof/Laws/Claims.lean ====
section
/-! SUPPORT. The claim pool and its lists: finding a client's claim on a pin after each change of the pool, the
rank order of insertion, and what an activation does to the pool. -/

namespace Sys2Proof.Machine

open Sys2Proof

/-! ## A client's claim on a pin -/

theorem State.claimAt_congr {s t : State} (h : t.claims = s.claims) (c : Client) (p : Pin) :
    t.claimAt c p = s.claimAt c p := by simp [State.claimAt, h]

theorem State.claimAt_mem {s : State} {c : Client} {p : Pin} {q : Claim} (h : s.claimAt c p = some q) :
    q ∈ s.claims ∧ q.client = c ∧ q.pin = p := by
  refine ⟨List.mem_of_find?_eq_some h, ?_⟩
  simpa using List.find?_some h

theorem State.claimAt_eq_none {s : State} {c : Client} {p : Pin} :
    s.claimAt c p = none ↔ ∀ q ∈ s.claims, ¬(q.client = c ∧ q.pin = p) := by
  simp [State.claimAt]

/-- Where the pool holds one claim per pin and client, membership finds it (R2). -/
theorem State.claimAt_of_mem {s : State} (hn : (s.claims.map fun q => (q.client, q.pin)).Nodup) {q : Claim}
    (hq : q ∈ s.claims) : s.claimAt q.client q.pin = some q := by
  cases h : s.claimAt q.client q.pin with
  | none => exact absurd ⟨rfl, rfl⟩ (State.claimAt_eq_none.mp h q hq)
  | some r =>
    obtain ⟨hr, hc, hp⟩ := State.claimAt_mem h
    rw [List.inj_on_of_nodup_map hn hr hq (by rw [hc, hp])]

theorem State.claimAt_iff {s : State} (hn : (s.claims.map fun q => (q.client, q.pin)).Nodup) {c : Client}
    {p : Pin} {q : Claim} : s.claimAt c p = some q ↔ q ∈ s.claims ∧ q.client = c ∧ q.pin = p :=
  ⟨State.claimAt_mem, fun ⟨h, hc, hp⟩ => by subst hc hp; exact State.claimAt_of_mem hn h⟩

theorem isAt_iff (q : Claim) (c : Client) (p : Pin) :
    (decide (q.client = c) && decide (q.pin = p)) = decide (q.client = c ∧ q.pin = p) := by
  rw [Bool.decide_and]

/-- A replaced record is found in place of the old one. -/
theorem State.claimAt_setClaim (s : State) (q : Claim) (c : Client) (p : Pin) :
    (s.setClaim q).claimAt c p =
      if q.client = c ∧ q.pin = p then (s.claimAt c p).map fun _ => q else s.claimAt c p := by
  have same : (fun r : Claim => decide (r.client = c) && decide (r.pin = p)) ∘
      (fun r => if r.client = q.client && r.pin = q.pin then q else r) =
      fun r => decide (r.client = c) && decide (r.pin = p) := by
    funext r
    have f : (if r.client = q.client && r.pin = q.pin then q else r).client = r.client ∧
        (if r.client = q.client && r.pin = q.pin then q else r).pin = r.pin := by split <;> simp_all
    simp only [Function.comp, f.1, f.2]
  simp only [State.claimAt, State.setClaim, List.find?_map]
  rw [same]
  cases h : s.claims.find? fun r => decide (r.client = c) && decide (r.pin = p) with
  | none => simp
  | some r =>
    obtain ⟨hc, hp⟩ : r.client = c ∧ r.pin = p := by simpa using List.find?_some h
    subst hc hp
    by_cases e : q.client = r.client ∧ q.pin = r.pin
    · simp [e]
    · have e' : ¬(r.client = q.client ∧ r.pin = q.pin) := fun h => e ⟨h.1.symm, h.2.symm⟩
      rw [if_neg e, Option.map_some, if_neg (by simpa using e')]

/-- The claims that leave are found no more. -/
theorem State.claimAt_dropClaims (s : State) (gone : Client → Pin → Bool) (c : Client) (p : Pin) :
    (s.dropClaims gone).claimAt c p = if gone c p = true then none else s.claimAt c p := by
  simp only [State.claimAt, State.dropClaims, isAt_iff]
  generalize s.claims = l
  induction l with
  | nil => simp
  | cons r l ih =>
    by_cases e : r.client = c ∧ r.pin = p
    · by_cases hr : gone c p = true
      · rw [List.filter_cons_of_neg (by simp [e, hr]), ih]; simp [hr]
      · rw [List.filter_cons_of_pos (by simp [e, hr]), List.find?_cons, List.find?_cons]; simp [e, hr]
    · by_cases hr : gone r.client r.pin = true
      · rw [List.filter_cons_of_neg (by simp [hr]), ih, List.find?_cons, decide_eq_false e]
      · rw [List.filter_cons_of_pos (by simp [hr]), List.find?_cons, List.find?_cons, decide_eq_false e]
        exact ih

/-- A claim appended to the pool is found behind the others. -/
theorem State.claimAt_append (s : State) (q : Claim) (c : Client) (p : Pin) :
    ({ s with claims := s.claims ++ [q] } : State).claimAt c p =
      (s.claimAt c p).or (if q.client = c ∧ q.pin = p then some q else none) := by
  simp only [State.claimAt, List.find?_append, List.find?_singleton]
  simp

/-! ## Claim lists -/

theorem insertRanked_mem (rk : Client → Rank) (c : Client) (r : Rank) (l : List Client) (d : Client) :
    d ∈ insertRanked rk c r l ↔ d = c ∨ d ∈ l := by
  induction l with
  | nil => simp [insertRanked]
  | cons x l ih => unfold insertRanked; split <;> simp [ih]; tauto

theorem insertRanked_length (rk : Client → Rank) (c : Client) (r : Rank) (l : List Client) :
    (insertRanked rk c r l).length = l.length + 1 := by
  induction l with
  | nil => rfl
  | cons x l ih => unfold insertRanked; split <;> simp [ih]

theorem insertRanked_nodup {rk : Client → Rank} {c : Client} {r : Rank} {l : List Client} (h : l.Nodup)
    (hc : c ∉ l) : (insertRanked rk c r l).Nodup := by
  induction l with
  | nil => simp [insertRanked]
  | cons x l ih =>
    obtain ⟨hx, hl⟩ := List.nodup_cons.mp h
    obtain ⟨hcx, hcl⟩ : c ≠ x ∧ c ∉ l := by simpa using hc
    unfold insertRanked; split
    · exact List.nodup_cons.mpr ⟨by simp [insertRanked_mem, hx, Ne.symm hcx], ih hl hcl⟩
    · exact List.nodup_cons.mpr ⟨hc, h⟩

/-- Insertion looks at the ranks of the list's members only. -/
theorem insertRanked_congr {rk rk' : Client → Rank} {l : List Client} (h : ∀ y ∈ l, rk' y = rk y) (c : Client)
    (r : Rank) : insertRanked rk' c r l = insertRanked rk c r l := by
  induction l with
  | nil => rfl
  | cons x l ih =>
    have e : ((x :: l).any fun y => r ≤ rk' y) = (x :: l).any fun y => r ≤ rk y := by
      rw [Bool.eq_iff_iff]; simp only [List.any_eq_true]
      exact exists_congr fun y => and_congr_right fun hy => by rw [h y hy]
    unfold insertRanked
    rw [e, ih fun y hy => h y (List.mem_cons_of_mem _ hy)]

/-- Insertion stands immediately after the last claim of equal or higher rank (R4). -/
theorem insertRanked_inserted (rk : Client → Rank) (c : Client) (r : Rank) (l : List Client) :
    Inserted l (insertRanked rk c r l) rk c r := by
  induction l with
  | nil => exact ⟨0, by simp, rfl, by simp, by simp⟩
  | cons x l ih =>
    unfold insertRanked
    split
    · next h =>
      obtain ⟨i, hi, he, hlow, hlast⟩ := ih
      refine ⟨i + 1, by simpa using hi, by simp [he], by simpa using hlow, ?_⟩
      rw [List.take_succ_cons]
      cases ht : l.take i with
      | nil =>
        obtain rfl | hnil := List.take_eq_nil_iff.mp ht
        · have hl : ∀ y ∈ l, rk y < r := by simpa using hlow
          simp only [List.any_cons, List.any_eq_true, Bool.or_eq_true, decide_eq_true_eq] at h
          obtain h | ⟨y, hy, hr⟩ := h
          · simpa using h
          · exact absurd (hl y hy) (not_lt.mpr hr)
        · subst hnil; simpa using h
      | cons a t => rw [ht] at hlast; simpa [List.getLast?_cons_cons] using hlast
    · next h =>
      refine ⟨0, by simp, rfl, ?_, by simp⟩
      simpa using h

/-- Insertion keeps the order of rank, from the highest down (R4). -/
theorem insertRanked_pairwise {rk : Client → Rank} {c : Client} {r : Rank} {l : List Client}
    (h : l.Pairwise fun a b => rk b ≤ rk a) (hc : rk c = r) :
    (insertRanked rk c r l).Pairwise fun a b => rk b ≤ rk a := by
  induction l with
  | nil => simp [insertRanked]
  | cons x l ih =>
    obtain ⟨hx, hl⟩ := List.pairwise_cons.mp h
    unfold insertRanked; split
    · next hany =>
      refine List.pairwise_cons.mpr ⟨fun y hy => ?_, ih hl⟩
      obtain rfl | hy := (insertRanked_mem rk c r l y).mp hy
      · rw [hc]
        simp only [List.any_cons, List.any_eq_true, Bool.or_eq_true, decide_eq_true_eq] at hany
        obtain hr | ⟨z, hz, hr⟩ := hany
        · exact hr
        · exact hr.trans (hx z hz)
      · exact hx y hy
    · next hany =>
      refine List.pairwise_cons.mpr ⟨fun y hy => ?_, h⟩
      rw [hc]
      have : ∀ y ∈ x :: l, rk y < r := by simpa using hany
      exact (this y hy).le

theorem State.claimList_enterList (s : State) (c : Client) (p x : Pin) :
    (s.enterList c p).claimList x = if p = x then
      insertRanked (fun y => s.rankAt y p) c (s.rankAt c p) ((s.claimList p).filter (· ≠ c))
    else s.claimList x := by
  simp [State.enterList, State.claimList_setClaimList]

theorem State.claimList_dropClaims (s : State) (gone : Client → Pin → Bool) (p : Pin) :
    (s.dropClaims gone).claimList p = (s.claimList p).filter fun c => !gone c p := by
  simp [State.dropClaims, State.claimList]

theorem State.claims_dropClaims (s : State) (gone : Client → Pin → Bool) :
    (s.dropClaims gone).claims = s.claims.filter fun q => !gone q.client q.pin := rfl

/-! ## Waiting lists -/

theorem State.waitList_dropClaims (s : State) (gone : Client → Pin → Bool) (k : Chan) :
    (s.dropClaims gone).waitList k = (s.waitList k).filter fun w => !gone w.1 w.2 := by
  simp [State.dropClaims, State.waitList]

theorem State.waitList_leaveWait (s : State) (c : Client) (p : Pin) (k : Chan) :
    (s.leaveWait c p).waitList k = (s.waitList k).filter (· ≠ (c, p)) := by
  simp [State.leaveWait, State.waitList]

theorem State.waitList_enterWait (s : State) (c : Client) (p : Pin) (k j : Chan) :
    (s.enterWait c p k).waitList j = (s.waitList j).filter (· ≠ (c, p)) ++ if k = j then [(c, p)] else [] := by
  simp only [State.enterWait, State.waitList_setWaitList, State.waitList_leaveWait]
  by_cases h : k = j
  · subst h; simp
  · simp [h]

/-! ## Activation (R22) -/

theorem claims_setClaim_of_claimAt {s : State} (hn : (s.claims.map fun q => (q.client, q.pin)).Nodup)
    {c : Client} {p : Pin} {q : Claim} (hq : s.claimAt c p = some q) (f : Claim → Claim)
    (hf : (f q).client = q.client ∧ (f q).pin = q.pin) :
    (s.setClaim (f q)).claims = s.claims.map fun r => if (r.client, r.pin) = (c, p) then f r else r := by
  obtain ⟨hm, hc, hp⟩ := State.claimAt_mem hq
  simp only [State.setClaim]
  refine List.map_congr_left fun r hr => ?_
  rw [hf.1, hf.2, hc, hp]
  by_cases e : r.client = c ∧ r.pin = p
  · have : r = q := List.inj_on_of_nodup_map hn hr hm (by simp [e, hc, hp])
    subst this; simp [e]
  · have e' : ¬((r.client, r.pin) = (c, p)) := by simpa using e
    rw [if_neg e', if_neg (by simpa using e)]

/-- The pool after the activation of one claim of a waiting list. -/
theorem State.claims_activateOne {s : State} (hn : (s.claims.map fun q => (q.client, q.pin)).Nodup)
    (id : Client × Pin) :
    (s.activateOne id).claims = s.claims.map fun q => if (q.client, q.pin) = id then q.activated else q := by
  unfold State.activateOne
  cases h : s.claimAt id.1 id.2 with
  | none =>
    have := State.claimAt_eq_none.mp h
    refine (List.map_id _).symm.trans (List.map_congr_left fun q hq => ?_)
    rw [if_neg fun e => this q hq (by rw [← e]; exact ⟨rfl, rfl⟩)]; rfl
  | some q =>
    have := claims_setClaim_of_claimAt hn h Claim.activated ⟨rfl, rfl⟩
    dsimp only
    split <;> simpa using this

theorem activated_ids (l : List Claim) (P : Client × Pin → Prop) [DecidablePred P] :
    ((l.map fun q => if P (q.client, q.pin) then q.activated else q).map fun q => (q.client, q.pin)) =
      l.map fun q => (q.client, q.pin) := by
  rw [List.map_map]
  refine List.map_congr_left fun q _ => ?_
  simp only [Function.comp]; split <;> rfl

/-- The pool after the activation of a list of claims. -/
theorem State.claims_foldl_activateOne (ids : List (Client × Pin)) (hi : ids.Nodup) {s : State}
    (hn : (s.claims.map fun q => (q.client, q.pin)).Nodup) :
    (ids.foldl State.activateOne s).claims =
      s.claims.map fun q => if (q.client, q.pin) ∈ ids then q.activated else q := by
  induction ids generalizing s with
  | nil => simp
  | cons id ids ih =>
    obtain ⟨hid, hi⟩ := List.nodup_cons.mp hi
    have one := State.claims_activateOne hn id
    rw [List.foldl_cons, ih hi (by rw [one, activated_ids _ (· = id)]; exact hn), one, List.map_map]
    refine List.map_congr_left fun q _ => ?_
    simp only [Function.comp]
    by_cases e : (q.client, q.pin) = id
    · have e' : (q.activated.client, q.activated.pin) = id := e
      simp [e, e', hid]
    · simp [e]

theorem State.claims_activate_eq (s : State) (k : Chan) :
    (s.activate k).claims = ((s.waitList k).foldl State.activateOne s).claims := by
  have h : ∀ (l : List (Client × Pin)) (a b : State), a.claims = b.claims → a.claimLists = b.claimLists →
      (l.foldl State.activateOne a).claims = (l.foldl State.activateOne b).claims := by
    intro l
    induction l with
    | nil => intro a b h _; exact h
    | cons id l ih =>
      intro a b h hl
      have step : ∀ t : State, (t.activateOne id).claims = (match t.claimAt id.1 id.2 with
          | none => t.claims
          | some q => (t.setClaim q.activated).claims) := fun t => by
        unfold State.activateOne
        rcases t.claimAt id.1 id.2 with _ | q
        · rfl
        · dsimp only; split <;> simp
      have lists : (a.activateOne id).claimLists = (b.activateOne id).claimLists := by
        unfold State.activateOne
        rw [State.claimAt_congr h]
        split
        · exact hl
        · next q _ =>
          have hs : (a.setClaim q.activated).claims = (b.setClaim q.activated).claims := by
            simp only [State.setClaim, h]
          dsimp only; split
          · refine State.claimLists_ext fun x => ?_
            rw [State.claimList_enterList, State.claimList_enterList]
            have r : ∀ y, (a.setClaim q.activated).rankAt y id.2 = (b.setClaim q.activated).rankAt y id.2 :=
              fun y => State.rankAt_congr hs y id.2
            simp only [r, State.setClaim_claimList, State.claimList_congr hl]
          · simpa using hl
      refine ih _ _ ?_ lists
      rw [step, step, State.claimAt_congr h]
      split
      · exact h
      · simp only [State.setClaim, h]
  unfold State.activate
  rw [State.noteTops_claims]
  exact h _ _ _ rfl rfl

/-- The pool once the waiting list of a channel has been activated (R22). -/
theorem State.claims_activate {s : State} (hp : s.PoolOk) (hw : s.WaitsOk) (k : Chan) :
    (s.activate k).claims = activatedClaims s.claims k := by
  rw [State.claims_activate_eq, State.claims_foldl_activateOne _ (hw k).1 hp.2.1]
  unfold activatedClaims
  refine List.map_congr_left fun q hq => ?_
  have : (q.client, q.pin) ∈ s.waitList k ↔ q.wait = some k := by
    rw [(hw k).2.1]
    refine ⟨fun ⟨r, hr, hc, hpn, hwt⟩ => ?_, fun h => ⟨q, hq, rfl, rfl, h⟩⟩
    rw [← List.inj_on_of_nodup_map hp.2.1 hr hq (by rw [hc, hpn])]; exact hwt
  simp only [this, Claim.activated]

theorem State.waitList_activate (s : State) (k j : Chan) :
    (s.activate k).waitList j = if k = j then [] else s.waitList j := by
  unfold State.activate
  rw [State.noteTops_waitList, foldl_keeps (g := fun t => t.waitList j) (fun _ _ => by simp),
    State.waitList_setWaitList]

/-- A pin whose claims do not wait on the channel keeps its claim list. -/
theorem State.claimList_activate {s : State} {k : Chan} {p : Pin} (h : ∀ d : Client, (d, p) ∉ s.waitList k) :
    (s.activate k).claimList p = s.claimList p := by
  have keep : ∀ (l : List (Client × Pin)) (t : State), (∀ d : Client, (d, p) ∉ l) →
      (l.foldl State.activateOne t).claimList p = t.claimList p := by
    intro l
    induction l with
    | nil => intros; rfl
    | cons id l ih =>
      intro t hl
      rw [List.foldl_cons, ih _ fun d hd => hl d (List.mem_cons_of_mem _ hd)]
      have ne : id.2 ≠ p := fun e => hl id.1 (by rw [← e]; exact List.mem_cons_self)
      unfold State.activateOne
      split
      · rfl
      · dsimp only; split
        · rw [State.claimList_enterList, if_neg ne, State.setClaim_claimList]
        · simp
  unfold State.activate
  rw [State.noteTops_claimList, keep _ _ h, State.claimList_setWaitList]

end Sys2Proof.Machine
end

