-- ==== Sys2Proof/Laws/Pads.lean ====
section
/-! SUPPORT. Pads and edges: what the resolution of a pin looks at, what carrying it out leaves, what a filtered
edge does, and that a calm state settles as itself. -/

namespace Sys2Proof.Machine

open Sys2Proof

/-! ## Resolution (R7 to R9, R39 to R41) -/

theorem State.levelOf_congr {s t : State} (h : ∀ k : Chan, (t.channel k).output = (s.channel k).output)
    (src : Source) : t.levelOf src = s.levelOf src := by
  cases src <;> simp only [State.levelOf, h]

/-- What a pin's resolution looks at. -/
theorem State.resolve_congr {s t : State} {p : Pin} (hp : t.policy p = s.policy p)
    (hl : t.claimList p = s.claimList p) (hc : ∀ c : Client, t.claimAt c p = s.claimAt c p)
    (ho : ∀ k : Chan, (t.channel k).output = (s.channel k).output) : t.resolve p = s.resolve p := by
  have ht : t.topClaim p = s.topClaim p := by simp only [State.topClaim, State.top, hl, hc]
  simp only [State.resolve, hp, ht, State.levelOf_congr ho]

@[simp] theorem State.pad_resolvePads (s : State) (p : Pin) :
    s.resolvePads.pad p = (s.pad p).take (s.resolve p) := by simp [State.resolvePads]

@[simp] theorem State.resolve_resolvePads (s : State) (p : Pin) : s.resolvePads.resolve p = s.resolve p :=
  State.resolve_congr (by simp) (by simp) (State.claimAt_congr (by simp) · p) (by simp)

/-- A pad that carries out its resolution stays as it is (R9). -/
theorem Pad.take_of_ok {pad : Pad} {d : Driven × Pull} (h : (pad.driven, pad.pull) = d)
    (hr : pad.raw = rawLevel pad.driven pad.pull pad.board) : pad.take d = pad := by
  subst h; simp only [Pad.take, ← hr]

theorem State.PadsOk.take {s : State} (h : s.PadsOk) {p : Pin} {d : Driven × Pull} (hd : d = s.resolve p) :
    (s.pad p).take d = s.pad p := Pad.take_of_ok ((h p).1.trans hd.symm) (h p).2.1

/-- A pin whose resolution an event leaves alone keeps its pad. -/
theorem State.pad_resolvePads_of_same {s t : State} (h : s.PadsOk) {p : Pin} (hp : t.pad p = s.pad p)
    (hr : t.resolve p = s.resolve p) : t.resolvePads.pad p = s.pad p := by
  rw [State.pad_resolvePads, hp, h.take hr]

@[simp] theorem Pad.take_run (pad : Pad) (d : Driven × Pull) : (pad.take d).run = pad.run := rfl
@[simp] theorem Pad.take_filtered (pad : Pad) (d : Driven × Pull) : (pad.take d).filtered = pad.filtered := rfl
@[simp] theorem Pad.take_tickDue (pad : Pad) (d : Driven × Pull) : (pad.take d).tickDue = pad.tickDue := rfl
@[simp] theorem Pad.take_board (pad : Pad) (d : Driven × Pull) : (pad.take d).board = pad.board := rfl
@[simp] theorem Pad.take_driven (pad : Pad) (d : Driven × Pull) : (pad.take d).driven = d.1 := rfl
@[simp] theorem Pad.take_pull (pad : Pad) (d : Driven × Pull) : (pad.take d).pull = d.2 := rfl
@[simp] theorem Pad.take_raw (pad : Pad) (d : Driven × Pull) :
    (pad.take d).raw = rawLevel d.1 d.2 pad.board := rfl

/-! ## Filtered edges (R42 to R44, R113) -/

/-- A filtered edge at its pad. -/
theorem State.pad_takeEdge (s : State) (p x : Pin) :
    (s.takeEdge p).pad x = if p = x then
      { s.pad p with filtered := flipLevel (s.pad p).filtered, run := 0, tickDue := false }
    else s.pad x := by
  simp [State.takeEdge, State.pad_setPad]

/-- A filtered edge at the channels. -/
theorem State.channel_takeEdge (s : State) (p : Pin) (k : Chan) :
    (s.takeEdge p).channel k = (s.channel k).handEdge p (edgeTo (flipLevel (s.pad p).filtered)) := by
  simp [State.takeEdge]

/-- A filtered edge at the queues: every client with a matching watch takes EDGE (R113). -/
theorem State.queue_takeEdge {s : State} (h : (s.watches.map fun w => (w.client, w.pin)).Nodup) (p : Pin)
    (d : Client) :
    (s.takeEdge p).queue d =
      if ∃ w ∈ s.watches, w.client = d ∧ w.pin = p ∧
          w.edges.includes (edgeTo (flipLevel (s.pad p).filtered)) = true then
        (s.queue d).place (.edge p (flipLevel (s.pad p).filtered))
      else s.queue d := by
  simp only [State.takeEdge, State.queue_mapChannels]
  have nd : (s.watchers p (edgeTo (flipLevel (s.pad p).filtered))).Nodup := by
    unfold State.watchers
    refine List.Nodup.map_on (fun a ha b hb e => ?_) (List.Nodup.of_map _ h |>.filter _)
    simp only [List.mem_filter, Bool.and_eq_true, decide_eq_true_eq] at ha hb
    exact List.inj_on_of_nodup_map h ha.1 hb.1 (by rw [e, ha.2.1, hb.2.1])
  have wat : ∀ v : Pad, (s.setPad p v).watchers p = s.watchers p := fun _ => rfl
  rw [wat, State.queue_placeAll _ nd, State.queue_setPad]
  refine if_congr ?_ rfl rfl
  simp only [State.watchers, List.mem_map, List.mem_filter, Bool.and_eq_true, decide_eq_true_eq]
  exact ⟨fun ⟨w, ⟨hw, hp, hi⟩, hc⟩ => ⟨w, hw, hc, hp, hi⟩, fun ⟨w, hw, hc, hp, hi⟩ => ⟨w, ⟨hw, hp, hi⟩, hc⟩⟩

/-- A filtered edge places notices and no more at the ports. -/
theorem State.takeEdge_placed (s : State) (p : Pin) :
    Placed { s with pads := (s.takeEdge p).pads, channels := (s.takeEdge p).channels } (s.takeEdge p) := by
  have h := Placed.placeAll (s.setPad p { s.pad p with filtered := flipLevel (s.pad p).filtered, run := 0, tickDue := false })
    ((s.setPad p { s.pad p with filtered := flipLevel (s.pad p).filtered, run := 0, tickDue := false }).watchers p
      (edgeTo (flipLevel (s.pad p).filtered))) (.edge p (flipLevel (s.pad p).filtered))
  exact ⟨h.ports, h.attention, State.eq_of_fields (by simp) rfl (by simp) (by simp) (by simp) (by simp) (by simp)
    (by simp) (by simp) (by simp) rfl rfl (by simp) rfl (by simp)⟩

theorem State.takeEdge_samePorts (s : State) (p : Pin) : SamePorts s (s.takeEdge p) :=
  (s.takeEdge_placed p).samePorts

/-! ## An edge whose notices are owed (R44, R153) -/

theorem State.placeAll_mapChannels (s : State) (f : Chan → Channel → Channel) (cs : List Client) (n : Notice) :
    (s.mapChannels f).placeAll cs n = (s.placeAll cs n).mapChannels f := by
  unfold State.placeAll
  induction cs generalizing s with
  | nil => rfl
  | cons c cs ih => exact ih (s.place c n)

@[simp] theorem State.pad_beginEdge (s : State) (p x : Pin) : (s.beginEdge p).pad x = (s.takeEdge p).pad x := by
  rw [State.pad_takeEdge]
  exact State.pad_setPad s p x _

@[simp] theorem State.channel_beginEdge (s : State) (p : Pin) (k : Chan) :
    (s.beginEdge p).channel k = (s.takeEdge p).channel k := by
  rw [State.channel_takeEdge]
  refine Eq.trans (State.channel_congr (t := (s.setPad p { s.pad p with
    filtered := flipLevel (s.pad p).filtered, run := 0, tickDue := false }).mapChannels
      fun _ ch => ch.handEdge p (edgeTo (flipLevel (s.pad p).filtered))) rfl k).symm ?_
  simp

theorem State.beginEdge_edgeOwed (s : State) (p : Pin) :
    (s.beginEdge p).edgeOwed = some (p, flipLevel (s.pad p).filtered) := rfl

theorem State.endEdge_of_none {s : State} (h : s.edgeOwed = none) : s.endEdge = s := by
  simp [State.endEdge, h]

@[simp] theorem State.edgeOwed_endEdge (s : State) : s.endEdge.edgeOwed = none := by
  unfold State.endEdge; split
  · assumption
  · simp

/-- An edge begun and ended at once is the edge taken whole. -/
theorem State.endEdge_beginEdge {s : State} (h : s.edgeOwed = none) (p : Pin) :
    (s.beginEdge p).endEdge = s.takeEdge p := by
  have e : (s.beginEdge p).endEdge =
      ((s.setPad p { s.pad p with
          filtered := flipLevel (s.pad p).filtered, run := 0, tickDue := false }).mapChannels
        fun _ ch => ch.handEdge p (edgeTo (flipLevel (s.pad p).filtered))).placeAll
        (s.watchers p (edgeTo (flipLevel (s.pad p).filtered))) (.edge p (flipLevel (s.pad p).filtered)) := by
    simp only [State.endEdge, State.beginEdge]
    congr 1
    cases s; subst h; rfl
  rw [e, State.placeAll_mapChannels]; rfl

@[simp] theorem flipLevel_ne (l : Level) : flipLevel l ≠ l := by cases l <;> decide

theorem flipLevel_of_ne {a b : Level} (h : a ≠ b) : flipLevel b = a := by cases a <;> cases b <;> simp_all [flipLevel]

/-! ## Settling (R43) -/

@[simp] theorem State.inReset_congr {s t : State} (hp : t.por = s.por) (hn : t.nrstLow = s.nrstLow) :
    t.inReset = s.inReset := by simp [State.inReset, hp, hn]

theorem State.lags_congr {s t : State} {p : Pin} (hp : t.policy p = s.policy p) (hd : t.pad p = s.pad p) :
    t.lags p = s.lags p := by simp only [State.lags, hp, hd]

theorem State.follow_of_not_lags {s : State} {p : Pin} (h : s.lags p = false) : s.follow p = s := by
  simp [State.follow, h]

theorem State.foldl_follow_of_calm {s : State} (h : ∀ p : Pin, s.lags p = false) (l : List Pin) :
    l.foldl State.follow s = s := by
  induction l with
  | nil => rfl
  | cons p l ih => rw [List.foldl_cons, State.follow_of_not_lags (h p), ih]

/-- A state in which no pad of length 0 lags and no notice is owed settles as itself. -/
theorem State.settle_of_calm {s : State} (h : ∀ p : Pin, s.lags p = false) (ho : s.edgeOwed = none) :
    s.settle = s := by
  unfold State.settle; split
  · rfl
  · rw [State.endEdge_of_none ho, State.foldl_follow_of_calm h]

theorem State.Calm.settle {s : State} (h : s.Calm) : s.settle = s := State.settle_of_calm h.2.1 h.2.2

theorem State.settle_of_inReset {s : State} (h : s.inReset = true) : s.settle = s := by simp [State.settle, h]

theorem State.lags_follow (s : State) (p x : Pin) :
    (s.follow p).lags x = if p = x then false else s.lags x := by
  unfold State.follow
  split
  · next h =>
    by_cases e : p = x
    · subst e
      simp only [State.lags, Bool.and_eq_true, decide_eq_true_eq, State.pad_takeEdge, if_true,
        State.takeEdge_policy] at h ⊢
      rw [flipLevel_of_ne h.2]; simp
    · rw [if_neg e]
      exact State.lags_congr (by simp) (by rw [State.pad_takeEdge, if_neg e])
  · next h =>
    by_cases e : p = x
    · subst e; simpa using h
    · rw [if_neg e]

theorem State.lags_foldl_follow (l : List Pin) (s : State) (x : Pin) :
    (l.foldl State.follow s).lags x = if x ∈ l then false else s.lags x := by
  induction l generalizing s with
  | nil => simp
  | cons p l ih =>
    rw [List.foldl_cons, ih, State.lags_follow]
    by_cases e : p = x
    · subst e; simp
    · simp [e, Ne.symm e]

/-- Out of reset a settled state is calm. -/
theorem State.settle_calm {s : State} (h : s.inReset = false) : s.settle.Calm := by
  refine ⟨by rw [State.inReset_congr (State.settle_por s) (State.settle_nrstLow s), h], fun p => ?_, ?_⟩
  · simp [State.settle, h, State.lags_foldl_follow]
  · simp only [State.settle, h]
    exact (foldl_keeps (g := State.edgeOwed) (fun _ _ => State.follow_edgeOwed ..) _ _).trans s.edgeOwed_endEdge

/-- What an edge and the placing of owed notices keep, settling keeps. -/
theorem State.settle_keeps {Q : State → Prop} (h : ∀ (s : State) (p : Pin), Q s → s.lags p = true → Q (s.takeEdge p))
    (ho : ∀ s : State, Q s → Q s.endEdge) {s : State} (hs : Q s) : Q s.settle := by
  unfold State.settle; split
  · exact hs
  · next hr =>
    replace hs := ho s hs
    revert hs
    generalize s.endEdge = t
    clear hr s
    generalize allPins = l
    intro hs
    induction l generalizing t with
    | nil => exact hs
    | cons p l ih =>
      refine ih _ ?_
      unfold State.follow; split
      · next hl => exact h t p hs hl
      · exact hs

end Sys2Proof.Machine
end

