-- ==== Sys2Proof/Laws/Payloads.lean ====
section
/-! SUPPORT. Payloads: each decoder reads back what the layouts of "Frame and Record Formats, Pins" write, and
each layout has a length its command allows. -/

namespace Sys2Proof.Machine

open Sys2Proof

/-! ## One byte -/

theorem toNat_byteOf {n : Nat} (h : n < 256) : (byteOf n).toNat = n := by
  simp only [byteOf, BitVec.toNat_ofNat]; omega

theorem byteOf_injective {m n : Nat} (hm : m < 256) (hn : n < 256) (h : byteOf m = byteOf n) : m = n := by
  rw [← toNat_byteOf hm, ← toNat_byteOf hn, h]

@[simp] theorem byteAt_zero (b : Byte) (bs : List Byte) : byteAt (b :: bs) 0 = b := rfl
@[simp] theorem byteAt_succ (b : Byte) (bs : List Byte) (i : Nat) : byteAt (b :: bs) (i + 1) = byteAt bs i := rfl

@[simp] theorem pinOf?_byteOf (p : Pin) : pinOf? (byteOf p.val) = some p := by revert p; decide
@[simp] theorem chanOf?_byteOf (k : Chan) : chanOf? (byteOf k.val) = some k := by revert k; decide
@[simp] theorem ceilingOf?_byteOf (r : Rank) : ceilingOf? (byteOf r.val) = some r := by revert r; decide
@[simp] theorem prescaleOf?_byteOf (e : Fin 9) : prescaleOf? (byteOf e.val) = some e := by revert e; decide
@[simp] theorem filterOf?_byteOf (n : Fin 16) : filterOf? (byteOf n.val) = some n := by revert n; decide
@[simp] theorem modeOf?_modeByte (m : Mode) : modeOf? (modeByte m) = some m := by cases m <;> decide
@[simp] theorem roleOf?_roleByte (r : Role) : roleOf? (roleByte r) = some r := by cases r <;> decide
@[simp] theorem defaultOf?_defaultByte (d : DefaultState) : defaultOf? (defaultByte d) = some d := by
  cases d <;> decide
@[simp] theorem driveOf?_driveByte (d : DriveType) : driveOf? (driveByte d) = some d := by cases d <;> decide
@[simp] theorem boolOf?_flagByte (b : Bool) : boolOf? (flagByte b) = some b := by cases b <;> decide
@[simp] theorem edgeOf?_edgeByte (e : Edge) : edgeOf? (edgeByte e) = some e := by cases e <;> decide
@[simp] theorem edgeSelOf?_edgeSelByte (e : EdgeSel) : edgeSelOf? (edgeSelByte e) = some e := by cases e <;> decide
@[simp] theorem clockOf?_clockByte (s : ClockSource) : clockOf? (clockByte s) = some s := by
  cases s with
  | base => rfl
  | pin n e => revert n; cases e <;> decide
  | chain j => revert j; decide

theorem rankOf?_byteOf (r : Rank) : rankOf? (byteOf r.val) = if r = 0 then none else some r := by
  revert r; decide

/-- A byte that is no pin. -/
theorem pinOf?_eq_none {b : Byte} : pinOf? b = none ↔ 16 ≤ b.toNat := by
  unfold pinOf?; split <;> simp <;> omega

theorem chanOf?_eq_none {b : Byte} : chanOf? b = none ↔ 6 ≤ b.toNat := by
  unfold chanOf?; split <;> simp <;> omega

theorem pinOf?_eq_some {b : Byte} {p : Pin} : pinOf? b = some p ↔ b = byteOf p.val := by
  refine ⟨fun h => ?_, fun h => by rw [h, pinOf?_byteOf]⟩
  unfold pinOf? at h; split at h
  · simp only [Option.some.injEq] at h
    subst h; simp [byteOf]
  · exact absurd h (by simp)

theorem chanOf?_eq_some {b : Byte} {k : Chan} : chanOf? b = some k ↔ b = byteOf k.val := by
  refine ⟨fun h => ?_, fun h => by rw [h, chanOf?_byteOf]⟩
  unfold chanOf? at h; split at h
  · simp only [Option.some.injEq] at h
    subst h; simp [byteOf]
  · exact absurd h (by simp)

theorem byteOf_pin_injective {p q : Pin} (h : byteOf p.val = byteOf q.val) : p = q :=
  Fin.ext (byteOf_injective (by omega) (by omega) h)

theorem byteOf_chan_injective {k m : Chan} (h : byteOf k.val = byteOf m.val) : k = m :=
  Fin.ext (byteOf_injective (by omega) (by omega) h)

/-! ## Two bytes -/

theorem wordOf_wordBytes (w : Word) : wordOf (w.extractLsb' 8 8) (w.extractLsb' 0 8) = w := by
  apply BitVec.eq_of_toNat_eq
  have := w.isLt
  simp only [wordOf, BitVec.toNat_append, BitVec.extractLsb'_toNat, Nat.shiftRight_zero]
  rw [Nat.shiftLeft_eq, ← Nat.shiftLeft_eq, ← Nat.shiftLeft_add_eq_or_of_lt (by omega), Nat.shiftLeft_eq,
    Nat.shiftRight_eq_div_pow]
  omega

@[simp] theorem sourceOf?_bytes (src : Source) (h : src.formed = true) :
    sourceOf? (byteAt (sourceBytes src) 0) (byteAt (sourceBytes src) 1) = some src := by
  cases src with
  | high | low | float => rfl
  | ch k => revert k; decide
  | chn k => revert k; decide
  | gate k m => revert k m; decide

/-- A GATE that names one channel twice is no source (R13). -/
theorem sourceOf?_unformed (src : Source) (h : src.formed = false) :
    sourceOf? (byteAt (sourceBytes src) 0) (byteAt (sourceBytes src) 1) = none := by
  cases src with
  | high | low | float | ch | chn => exact absurd h (by simp [Source.formed])
  | gate k m => revert k m; decide

theorem sourceBytes_eq (src : Source) :
    sourceBytes src = [byteAt (sourceBytes src) 0, byteAt (sourceBytes src) 1] := by cases src <;> rfl

/-- A decoded source is one `sourceBytes` writes. -/
theorem sourceOf?_formed {a b : Byte} {src : Source} (h : sourceOf? a b = some src) : src.formed = true := by
  unfold sourceOf? at h
  split at h <;> (try split at h) <;> (try split at h) <;> simp_all
  · subst h; rfl
  · subst h; rfl
  · subst h; rfl
  · obtain ⟨k, -, rfl⟩ := h; rfl
  · obtain ⟨k, -, rfl⟩ := h; rfl
  · subst h; simp [Source.formed]; assumption

/-! ## Whole payloads -/

theorem decodeConfigure_bytes (k : Chan) (r : Settings) :
    decodeConfigure (byteOf k.val :: settingsBytes r) = some (k, r) := by
  simp only [decodeConfigure, settingsBytes, wordBytes, List.cons_append, List.nil_append, byteAt_zero,
    byteAt_succ, chanOf?_byteOf, modeOf?_modeByte, prescaleOf?_byteOf, clockOf?_clockByte, boolOf?_flagByte,
    wordOf_wordBytes]

theorem ceilings_toList (v : Vector Rank 4) : v.toList = [v[0], v[1], v[2], v[3]] := by
  obtain ⟨⟨l⟩, h⟩ := v
  match l, h with
  | [a, b, c, d], _ => rfl

theorem policyBytes_eq (p : Pin) (e : Policy) : policyBytes p e =
    [byteOf p.val, roleByte e.role, defaultByte e.dflt, driveByte e.drive, byteOf e.filterLen.val,
      byteOf e.ceilings[0].val, byteOf e.ceilings[1].val, byteOf e.ceilings[2].val, byteOf e.ceilings[3].val] := by
  simp [policyBytes, ceilings_toList]

theorem ceilings_ext (v : Vector Rank 4) : (#v[v[0], v[1], v[2], v[3]] : Vector Rank 4) = v := by
  apply Vector.toList_inj.mp; rw [ceilings_toList v]; rfl

theorem decodePolicy_bytes (p : Pin) (e : Policy) :
    decodePolicy (policyBytes p e) = if policyOk e then some (p, e) else none := by
  rw [policyBytes_eq]
  simp only [decodePolicy, ceilingsOf?, byteAt_zero, byteAt_succ, pinOf?_byteOf, roleOf?_roleByte,
    defaultOf?_defaultByte, driveOf?_driveByte, filterOf?_byteOf, ceilingOf?_byteOf]
  rw [ceilings_ext]

theorem decodeClaim_bytes (p : Pin) (r : Rank) (src : Source) (hold : Option Word) (wait : Option Chan) :
    decodeClaim (claimPayload p r src hold wait) =
      if r ≠ 0 ∧ src.formed = true ∧ hold ≠ some 0 then
        some { pin := p, rank := r, source := src, hold := hold, wait := wait }
      else none := by
  unfold claimPayload
  rw [sourceBytes_eq src]
  generalize hs : byteAt (sourceBytes src) 0 = a
  generalize hs' : byteAt (sourceBytes src) 1 = b
  have src? : sourceOf? a b = if src.formed = true then some src else none := by
    rw [← hs, ← hs']; split
    · next h => exact sourceOf?_bytes src h
    · next h => exact sourceOf?_unformed src (by simpa using h)
  rcases hold with _ | h <;> rcases wait with _ | w <;>
    simp [decodeClaim, rankOf?_byteOf, src?, presenceByte, flagByte, optWord, optByte, holdField, optField,
      wordBytes, wordOf_wordBytes] <;>
    by_cases hr : r = 0 <;> by_cases hf : src.formed = true <;> simp [hr, hf] <;>
    by_cases h0 : h = 0#16 <;> simp [h0]

theorem decodeModify_bytes (p : Pin) (r : Option Rank) (src : Option Source) (hold : Option Word)
    (wait : Option Chan) :
    decodeModify (modifyPayload p r src hold wait) =
      if (r.isSome ∨ src.isSome) ∧ r ≠ some 0 ∧ src.all Source.formed = true ∧ hold ≠ some 0 then
        some { pin := p, rank := r, source := src, hold := hold, wait := wait }
      else none := by
  unfold modifyPayload
  have src? : ∀ s : Source, sourceOf? (byteAt (sourceBytes s) 0) (byteAt (sourceBytes s) 1) =
      if s.formed = true then some s else none := fun s => by
    split
    · next h => exact sourceOf?_bytes s h
    · next h => exact sourceOf?_unformed s (by simpa using h)
  have two : ∀ s : Source, ∃ a b, sourceBytes s = [a, b] ∧
      sourceOf? a b = if s.formed = true then some s else none :=
    fun s => ⟨_, _, sourceBytes_eq s, src? s⟩
  rcases src with _ | s
  · rcases r with _ | r <;> rcases hold with _ | h <;> rcases wait with _ | w <;>
      simp [decodeModify, rankOf?_byteOf, presenceByte, flagByte, optWord, optByte, optSource, holdField,
        optField, wordBytes, wordOf_wordBytes] <;>
      by_cases hr : r = 0 <;> simp [hr] <;> by_cases h0 : h = 0#16 <;> simp [h0]
  · obtain ⟨a, b, hab, hs⟩ := two s
    rcases r with _ | r <;> rcases hold with _ | h <;> rcases wait with _ | w <;>
      simp [decodeModify, rankOf?_byteOf, presenceByte, flagByte, optWord, optByte, optSource, holdField,
        optField, wordBytes, wordOf_wordBytes, hab, hs] <;>
      by_cases hf : s.formed = true <;> simp [hf] <;>
      (try (by_cases hr : r = 0 <;> simp [hr])) <;> (try (by_cases h0 : h = 0#16 <;> simp [h0]))

theorem decodeStage_bytes (b : Byte) (r : Staged) :
    decodeStage (b :: stagedBytes r) =
      if r.reload.isSome ∨ r.compare.isSome ∨ r.prescaleExp.isSome ∨ r.mode.isSome then some r else none := by
  obtain ⟨rl, cm, ex, md⟩ := r
  rcases rl with _ | rl <;> rcases cm with _ | cm <;> rcases ex with _ | ex <;> rcases md with _ | md <;>
    simp [decodeStage, stagedBytes, presenceByte, flagByte, optWord, optByte, optField, wordBytes,
      wordOf_wordBytes]

theorem decodeArm_bytes (k : Chan) (p : Pin) (e : Edge) :
    decodeArm [byteOf k.val, byteOf p.val, edgeByte e] = some (k, p, e) := by
  simp [decodeArm]

theorem decodeWatch_bytes (p : Pin) (e : EdgeSel) : decodeWatch [byteOf p.val, edgeSelByte e] = some (p, e) := by
  simp [decodeWatch]

/-! ## Lengths (R170) -/

theorem lengthOk_configure (k : Chan) (r : Settings) :
    lengthOk .configure (byteOf k.val :: settingsBytes r) = true := by
  simp [lengthOk, settingsBytes, wordBytes]

theorem lengthOk_policy (p : Pin) (e : Policy) : lengthOk .setPolicy (policyBytes p e) = true := by
  simp [lengthOk, policyBytes_eq]

theorem lengthOk_claim (p : Pin) (r : Rank) (src : Source) (hold : Option Word) (wait : Option Chan) :
    lengthOk .claim (claimPayload p r src hold wait) = true := by
  unfold claimPayload
  rw [sourceBytes_eq src]
  rcases hold with _ | h <;> rcases wait with _ | w <;>
    simp [lengthOk, presenceByte, flagByte, marked, wordBytes]

theorem lengthOk_modify (p : Pin) (r : Option Rank) (src : Option Source) (hold : Option Word)
    (wait : Option Chan) : lengthOk .modify (modifyPayload p r src hold wait) = true := by
  unfold modifyPayload
  have len : ∀ s : Source, (sourceBytes s).length = 2 := fun s => by rw [sourceBytes_eq]; rfl
  rcases r with _ | r <;> rcases src with _ | s <;> rcases hold with _ | h <;> rcases wait with _ | w <;>
    simp [lengthOk, presenceByte, flagByte, marked, wordBytes, len]

theorem lengthOk_stage (b : Byte) (r : Staged) : lengthOk .stage (b :: stagedBytes r) = true := by
  obtain ⟨rl, cm, ex, md⟩ := r
  rcases rl with _ | rl <;> rcases cm with _ | cm <;> rcases ex with _ | ex <;> rcases md with _ | md <;>
    simp [lengthOk, stagedBytes, presenceByte, flagByte, marked, wordBytes]

/-! ## The length field of a frame -/

/-- The declared length of a frame of at most 56 payload bytes is its payload's length (R158). -/
theorem toNat_byteOf_length {pl : List Byte} (h : pl.length ≤ Config.maxPayload) :
    (byteOf pl.length).toNat = pl.length := toNat_byteOf (by simp only [Config.maxPayload] at h; omega)

end Sys2Proof.Machine
end

