-- ==== Sys2Proof/Laws/Refs.lean ====
section
/-! SUPPORT. Reference counts and session counts: what `recount` writes, when it writes nothing, and that
`settleRefs` leaves every channel as `Channel.settled` says. -/

namespace Sys2Proof.Machine

open Sys2Proof

/-! ## refsOf and recount -/

/-- The reference count looks at the claims and the clock sources only (R95). -/
theorem State.refsOf_congr {s t : State} (hc : t.claims = s.claims)
    (hk : ∀ j : Chan, (t.channel j).settings.clock = (s.channel j).settings.clock) (k : Chan) :
    t.refsOf k = s.refsOf k := by simp only [State.refsOf, hc, hk]

theorem State.channel_recount (s : State) (k : Chan) :
    s.recount.channel k = { s.channel k with refs := s.refsOf k } := by
  simp [State.recount, State.channel]

theorem State.session_recount (s : State) (c : Client) :
    s.recount.session c = { s.session c with
      claimsHeld := s.claims.countP (·.client = c)
      watchesHeld := s.watches.countP (·.client = c)
      channelsOwned := allChans.countP fun k => (s.channel k).owner = some c } := by
  simp [State.recount, State.session]

@[simp] theorem State.refsOf_recount (s : State) (k : Chan) : s.recount.refsOf k = s.refsOf k :=
  State.refsOf_congr (State.recount_claims s) (fun j => by rw [State.channel_recount]) k

/-- After a recount every count equals its definition. -/
theorem State.recount_countsOk (s : State) : s.recount.CountsOk := by
  refine ⟨fun k => by simp [State.channel_recount], fun c => ⟨?_, ?_, ?_⟩⟩ <;>
    simp [State.session_recount, State.channel_recount]

/-- A recount writes nothing where every count equals its definition. -/
theorem State.recount_of_countsOk {s : State} (h : s.CountsOk) : s.recount = s := by
  have hk : s.recount.channels = s.channels := State.channels_ext fun k => by
    rw [State.channel_recount, ← h.1 k]
  have hs : s.recount.sessions = s.sessions := State.sessions_ext fun c => by
    rw [State.session_recount, ← (h.2 c).1, ← (h.2 c).2.1, ← (h.2 c).2.2]
  calc s.recount = { s with channels := s.recount.channels, sessions := s.recount.sessions } := rfl
    _ = s := by rw [hk, hs]

/-- What the count laws look at. -/
theorem State.countsOk_congr {s t : State} (hc : t.claims = s.claims) (hw : t.watches = s.watches)
    (hk : t.channels = s.channels) (hs : t.sessions = s.sessions) : t.CountsOk ↔ s.CountsOk := by
  have ch := State.channel_congr hk
  have se := State.session_congr hs
  have rf : ∀ k, t.refsOf k = s.refsOf k := State.refsOf_congr hc fun j => by rw [ch]
  simp only [State.CountsOk, ch, se, rf, hc, hw]

/-! ## Freeing (R96, R97) -/

/-- One freeing: nothing where no orphan is without references, else one such orphan goes FREE. -/
theorem State.freeOne_cases (s : State) :
    (∀ k : Chan, (s.channel k).forsaken = false) ∧ s.freeOne = s ∨
    ∃ k : Chan, (s.channel k).forsaken = true ∧ s.freeOne = (s.setChannel k Channel.cleared).recount := by
  unfold State.freeOne
  cases h : allChans.find? fun k => (s.channel k).forsaken with
  | none =>
    refine .inl ⟨fun k => ?_, rfl⟩
    simpa using List.find?_eq_none.mp h k (List.mem_finRange k)
  | some k => exact .inr ⟨k, by simpa using List.find?_some h, rfl⟩

theorem Channel.forsaken_iff {ch : Channel} :
    ch.forsaken = true ↔ ch.owner = none ∧ ch.state ≠ .free ∧ ch.refs = 0 := by
  simp [Channel.forsaken, and_assoc]

/-- A freed channel chains from nothing, so no count rises. -/
theorem State.refsOf_free_le (s : State) (k j : Chan) :
    (s.setChannel k Channel.cleared).recount.refsOf j ≤ s.refsOf j := by
  rw [State.refsOf_recount]
  simp only [State.refsOf, State.setChannel_claims]
  refine Nat.add_le_add_left (List.countP_mono_left fun i _ hi => ?_) _
  rw [State.channel_setChannel] at hi
  by_cases e : k = i
  · rw [if_pos e] at hi; simp [Channel.cleared, Settings.cleared] at hi
  · rwa [if_neg e] at hi

/-- How many channels are not FREE. -/
def State.inUse (s : State) : Nat := allChans.countP fun k => (s.channel k).state ≠ .free

theorem State.inUse_le (s : State) : s.inUse ≤ 6 := by
  have := List.countP_le_length (p := fun k => decide ((s.channel k).state ≠ .free)) (l := allChans)
  simpa [State.inUse, allChans] using this

theorem countP_lt_of_imp {α : Type} {p q : α → Bool} {l : List α} (h : ∀ x ∈ l, p x = true → q x = true)
    {a : α} (ha : a ∈ l) (hp : p a = false) (hq : q a = true) : l.countP p < l.countP q := by
  induction l with
  | nil => simp at ha
  | cons x l ih =>
    simp only [List.countP_cons]
    have mono := List.countP_mono_left (p := p) (q := q) fun y hy => h y (List.mem_cons_of_mem _ hy)
    rcases List.mem_cons.mp ha with rfl | ha
    · simp [hp, hq]; omega
    · have := ih (fun y hy => h y (List.mem_cons_of_mem _ hy)) ha
      have hx := h x List.mem_cons_self
      cases hpx : p x <;> cases hqx : q x <;> simp_all

theorem State.inUse_freeOne (s : State) :
    (∀ k : Chan, (s.channel k).forsaken = false) ∧ s.freeOne = s ∨ s.freeOne.inUse < s.inUse := by
  obtain h | ⟨k, hk, e⟩ := s.freeOne_cases
  · exact .inl h
  · refine .inr ?_
    rw [e]
    refine countP_lt_of_imp (a := k) (fun j _ hj => ?_) (List.mem_finRange k) ?_ ?_
    · simp only [State.channel_recount, State.channel_setChannel] at hj
      by_cases h : k = j
      · simp [h, Channel.cleared] at hj
      · simpa [h] using hj
    · simp [State.channel_recount, Channel.cleared]
    · simp [(Channel.forsaken_iff.mp hk).2.1]

/-- After the freeing no orphan is without references. -/
theorem State.freeOrphans_done (s : State) (k : Chan) : (s.freeOrphans.channel k).forsaken = false := by
  have fix : ∀ t : State, (∀ k : Chan, (t.channel k).forsaken = false) → t.freeOne = t := fun t h => by
    obtain h' | ⟨k, hk, -⟩ := t.freeOne_cases
    · exact h'.2
    · rw [h k] at hk; exact absurd hk (by decide)
  have six : ∀ n : Nat, ∀ t : State, t.inUse ≤ n → ∀ k : Chan, ((State.freeOne^[n] t).channel k).forsaken = false := by
    intro n
    induction n with
    | zero =>
      intro t ht k
      have := List.countP_eq_zero.mp (Nat.le_zero.mp ht) k (List.mem_finRange k)
      simp only [Function.iterate_zero, id_eq, Channel.forsaken]
      simp_all
    | succ n ih =>
      intro t ht k
      rw [Function.iterate_succ_apply]
      obtain ⟨h, e⟩ | h := t.inUse_freeOne
      · rw [e]
        have : State.freeOne^[n] t = t := Function.iterate_fixed e n
        rw [this]; exact h k
      · exact ih _ (by omega) k
  have := six 6 s s.inUse_le k
  simpa only [State.freeOrphans, Function.iterate_succ_apply, Function.iterate_zero, id_eq] using this

/-- Where no orphan is without references, nothing is freed. -/
theorem State.freeOrphans_of_none {s : State} (h : ∀ k : Chan, (s.channel k).forsaken = false) :
    s.freeOrphans = s := by
  have e : s.freeOne = s := by
    obtain h' | ⟨k, hk, -⟩ := s.freeOne_cases
    · exact h'.2
    · rw [h k] at hk; exact absurd hk (by decide)
  simp only [State.freeOrphans, e]

/-- What a rule of freeing keeps, the freeing keeps. -/
theorem State.freeOrphans_keeps {Q : State → Prop}
    (h : ∀ (t : State) (k : Chan), Q t → (t.channel k).forsaken = true → Q (t.setChannel k Channel.cleared).recount)
    {s : State} (hs : Q s) : Q s.freeOrphans := by
  have one : ∀ t : State, Q t → Q t.freeOne := fun t ht => by
    obtain ⟨-, e⟩ | ⟨k, hk, e⟩ := t.freeOne_cases
    · rwa [e]
    · rw [e]; exact h t k ht hk
  unfold State.freeOrphans
  exact one _ (one _ (one _ (one _ (one _ (one _ hs)))))

theorem State.settleRefs_keeps {Q : State → Prop}
    (h : ∀ (t : State) (k : Chan), Q t → (t.channel k).forsaken = true → Q (t.setChannel k Channel.cleared).recount)
    {s : State} (hs : Q s.recount) : Q s.settleRefs := State.freeOrphans_keeps h hs

/-- After the settling of references every count equals its definition. -/
theorem State.settleRefs_countsOk (s : State) : s.settleRefs.CountsOk :=
  State.settleRefs_keeps (fun _ _ _ _ => State.recount_countsOk _) s.recount_countsOk

/-- A channel once references are settled: as it was with its count, or freed. -/
theorem State.settleRefs_cases (s : State) (k : Chan) :
    s.settleRefs.channel k = { s.channel k with refs := s.settleRefs.refsOf k } ∨
    s.settleRefs.channel k = Channel.cleared ∧ (s.channel k).owner = none ∧ (s.channel k).state ≠ .free ∧
      s.settleRefs.refsOf k = 0 := by
  refine State.settleRefs_keeps (Q := fun t => ∀ k : Chan,
    t.channel k = { s.channel k with refs := t.refsOf k } ∨
    t.channel k = Channel.cleared ∧ (s.channel k).owner = none ∧ (s.channel k).state ≠ .free ∧ t.refsOf k = 0)
    (fun t i ht hi k => ?_) (fun k => .inl ?_) k
  · obtain ⟨ho, hf, hr⟩ := Channel.forsaken_iff.mp hi
    have le := t.refsOf_free_le i k
    simp only [State.channel_recount, State.channel_setChannel, State.refsOf_recount] at le ⊢
    by_cases e : i = k
    · subst e
      obtain h | ⟨h, -⟩ := ht i
      · rw [h] at ho hf hr
        refine .inr ⟨?_, ho, hf, ?_⟩ <;> simp only [if_true] at * <;> rw [hr] at le
        · rw [Nat.le_zero.mp le]; rfl
        · exact Nat.le_zero.mp le
      · rw [h] at hf; exact absurd rfl hf
    · rw [if_neg e]
      obtain h | ⟨h, h1, h2, h3⟩ := ht k
      · exact .inl (by rw [h])
      · refine .inr ⟨?_, h1, h2, ?_⟩ <;> rw [h3] at le
        · rw [h, Nat.le_zero.mp le]; rfl
        · exact Nat.le_zero.mp le
  · rw [State.channel_recount, State.refsOf_recount]

/-- Every channel after the settling of references (R95 to R97), where FREE channels hold the cleared values. -/
theorem State.channel_settleRefs {s : State}
    (h : ∀ k : Chan, (s.channel k).state = .free → { s.channel k with refs := 0 } = Channel.cleared) (k : Chan) :
    s.settleRefs.channel k = (s.channel k).settled (s.settleRefs.refsOf k) := by
  unfold Channel.settled
  obtain e | ⟨e, ho, -, hr⟩ := s.settleRefs_cases k
  · split
    · next hc =>
      have done : (s.settleRefs.channel k).forsaken = false := State.freeOrphans_done s.recount k
      rw [e] at done
      by_cases hf : (s.channel k).state = .free
      · rw [e, hc.2]; exact h k hf
      · have lost := (Channel.forsaken_iff (ch := { s.channel k with refs := s.settleRefs.refsOf k })).mpr
          ⟨hc.1, hf, hc.2⟩
        rw [lost] at done; exact absurd done (by decide)
    · exact e
  · rw [if_pos ⟨ho, hr⟩, e]

/-- The hypothesis of `channel_settleRefs`, from the channel laws. -/
theorem State.ChannelsOk.freeCleared {s : State} (h : s.ChannelsOk) (k : Chan)
    (hf : (s.channel k).state = .free) : { s.channel k with refs := 0 } = Channel.cleared := by
  rw [(h k).2.1 hf]; rfl

/-- The sessions after the settling of references: the claims and watches held are counted, the owners stay. -/
theorem State.session_settleRefs (s : State) (c : Client) :
    s.settleRefs.session c = { s.session c with
      claimsHeld := s.claims.countP (·.client = c)
      watchesHeld := s.watches.countP (·.client = c)
      channelsOwned := allChans.countP fun k => (s.channel k).owner = some c } := by
  obtain ⟨Q, hQ⟩ : ∃ Q : State → Prop, ∀ t, Q t ↔ ∀ c : Client, t.session c = { s.session c with
      claimsHeld := (t.session c).claimsHeld, watchesHeld := (t.session c).watchesHeld
      channelsOwned := (t.session c).channelsOwned } := ⟨_, fun _ => Iff.rfl⟩
  have all : Q s.settleRefs := State.settleRefs_keeps
    (fun t k ht _ => (hQ _).mpr fun c => by
      rw [State.session_recount, State.session_setChannel, (hQ t).mp ht c])
    ((hQ _).mpr fun c => by rw [State.session_recount])
  have key := (hQ _).mp all c
  have hc := s.settleRefs_countsOk.2 c
  have ow : ∀ k : Chan, (s.settleRefs.channel k).owner = (s.channel k).owner := fun k => by
    obtain e | ⟨e, ho, -⟩ := s.settleRefs_cases k
    · rw [e]
    · rw [e, ho]; rfl
  rw [key, hc.1, hc.2.1, hc.2.2]
  simp only [ow, State.settleRefs_claims, State.settleRefs_watches]

/-- Settling references changes nothing where the counts are right and no orphan is without references. -/
theorem State.settleRefs_of_ok {s : State} (h : s.CountsOk) (hf : ∀ k : Chan, (s.channel k).forsaken = false) :
    s.settleRefs = s := by
  rw [State.settleRefs, State.recount_of_countsOk h, State.freeOrphans_of_none hf]

/-- The outputs, which the pins look at, survive the settling wherever a channel that is not RUNNING has none. -/
theorem State.output_settleRefs {s : State} (k : Chan)
    (h : (s.channel k).owner = none → s.settleRefs.refsOf k = 0 → (s.channel k).output = false) :
    (s.settleRefs.channel k).output = (s.channel k).output := by
  obtain e | ⟨e, ho, -, hr⟩ := s.settleRefs_cases k
  · rw [e]
  · rw [e, h ho hr]; rfl

end Sys2Proof.Machine
end

