-- ==== Sys2Proof/Laws/Requests.lean ====
section
/-! SUPPORT. The taking of a request: from `State.Asks` to one equation for `exec`, the reply that stands in the
slot afterwards, and that a refusal changes nothing but the port and the lease. -/

namespace Sys2Proof.Machine

open Sys2Proof

/-! ## Ports and sessions at a taking -/

theorem State.port_passing (s : State) (c d : Client) :
    (s.passing c).port d = if d ≠ c ∧ (s.port d).state = .held then
      { s.port d with passedBy := c :: (s.port d).passedBy }
    else s.port d := by
  simp [State.passing]

theorem State.session_renew (s : State) (c d : Client) :
    (s.renew c).session d = if c = d then (s.session c).renewed else s.session d := by
  simp [State.renew, State.session_setSession]

theorem State.port_answer (s : State) (c d : Client) (tag : Byte) (st : Status) (pl : List Byte) :
    (s.answer c tag st pl).port d = if c = d then
      { s.port c with
        state := .answered, held := none, attention := true, passedBy := []
        reply := some { status := st, tag := tag, session := (s.session c).state,
                        depth := (s.queue c).entries.length, payload := pl } }
    else s.port d := by
  simp [State.answer, State.port_setPort]

/-- A renewal changes the state of a GRACE session and no other. -/
theorem Session.renewed_state (e : Session) : e.renewed.state = if e.state = .closed then .closed else .opened := by
  unfold Session.renewed; split <;> simp_all

theorem Session.renewed_closed {e : Session} (h : e.state = .closed) : e.renewed = e := by
  simp [Session.renewed, h]

theorem Session.renewed_open {e : Session} (h : e.state ≠ .closed) : e.renewed =
    { e with
      state := .opened, leaseRemaining := some ((e.lease.getD 0).toNat * Config.leaseUnit)
      graceRemaining := none, tickDue := false } := by
  unfold Session.renewed; split <;> simp_all

@[simp] theorem Session.renewed_closed_iff (e : Session) : e.renewed.state = .closed ↔ e.state = .closed := by
  rw [Session.renewed_state]; split <;> simp_all

@[simp] theorem Session.renewed_lease (e : Session) : e.renewed.lease = e.lease := by
  unfold Session.renewed; split <;> rfl
@[simp] theorem Session.renewed_priorEnd (e : Session) : e.renewed.priorEnd = e.priorEnd := by
  unfold Session.renewed; split <;> rfl
@[simp] theorem Session.renewed_claimsHeld (e : Session) : e.renewed.claimsHeld = e.claimsHeld := by
  unfold Session.renewed; split <;> rfl
@[simp] theorem Session.renewed_watchesHeld (e : Session) : e.renewed.watchesHeld = e.watchesHeld := by
  unfold Session.renewed; split <;> rfl
@[simp] theorem Session.renewed_channelsOwned (e : Session) : e.renewed.channelsOwned = e.channelsOwned := by
  unfold Session.renewed; split <;> rfl

/-! ## What a taking leaves to be seen

The renewal, the passing and the answer write sessions and ports only, so everything else is seen as before. -/

/-! ### renew -/

@[simp] theorem State.claimAt_renew (s : State) (c : Client) (i : Client) (p : Pin) :
    (s.renew c).claimAt i p = s.claimAt i p := rfl
@[simp] theorem State.rankAt_renew (s : State) (c : Client) (i : Client) (p : Pin) :
    (s.renew c).rankAt i p = s.rankAt i p := rfl
@[simp] theorem State.top_renew (s : State) (c : Client) (p : Pin) :
    (s.renew c).top p = s.top p := rfl
@[simp] theorem State.topClaim_renew (s : State) (c : Client) (p : Pin) :
    (s.renew c).topClaim p = s.topClaim p := rfl
@[simp] theorem State.isTop_renew (s : State) (c : Client) (i : Client) (p : Pin) :
    (s.renew c).isTop i p = s.isTop i p := rfl
@[simp] theorem State.refsOf_renew (s : State) (c : Client) (k : Chan) :
    (s.renew c).refsOf k = s.refsOf k := rfl
@[simp] theorem State.levelOf_renew (s : State) (c : Client) (src : Source) :
    (s.renew c).levelOf src = s.levelOf src := rfl
@[simp] theorem State.resolve_renew (s : State) (c : Client) (p : Pin) :
    (s.renew c).resolve p = s.resolve p := rfl
@[simp] theorem State.watchAt_renew (s : State) (c : Client) (i : Client) (p : Pin) :
    (s.renew c).watchAt i p = s.watchAt i p := rfl
@[simp] theorem State.pinInUse_renew (s : State) (c : Client) (p : Pin) :
    (s.renew c).pinInUse p = s.pinInUse p := rfl
@[simp] theorem State.lowestFree_renew (s : State) (c : Client) :
    (s.renew c).lowestFree = s.lowestFree := rfl
@[simp] theorem State.relies_renew (s : State) (c : Client) (i : Client) (k : Chan) :
    (s.renew c).relies i k = s.relies i k := rfl
@[simp] theorem State.namesFree_renew (s : State) (c : Client) (src : Option Source) (wait : Option Chan) :
    (s.renew c).namesFree src wait = s.namesFree src wait := rfl
@[simp] theorem State.waitsOn_renew (s : State) (c : Client) (wait : Option Chan) :
    (s.renew c).waitsOn wait = s.waitsOn wait := rfl
@[simp] theorem State.pinLevels_renew (s : State) (c : Client) :
    (s.renew c).pinLevels = s.pinLevels := rfl
@[simp] theorem State.lags_renew (s : State) (c : Client) (p : Pin) :
    (s.renew c).lags p = s.lags p := rfl
@[simp] theorem State.chainCheck_renew (s : State) (c : Client) (k : Chan) (src : ClockSource) :
    (s.renew c).chainCheck k src = s.chainCheck k src := rfl
@[simp] theorem State.claimsIn_renew (s : State) (c : Client) (p : Pin) (st : ClaimState) :
    (s.renew c).claimsIn p st = s.claimsIn p st := rfl

/-! ### passing -/

@[simp] theorem State.claimAt_passing (s : State) (c : Client) (i : Client) (p : Pin) :
    (s.passing c).claimAt i p = s.claimAt i p := rfl
@[simp] theorem State.rankAt_passing (s : State) (c : Client) (i : Client) (p : Pin) :
    (s.passing c).rankAt i p = s.rankAt i p := rfl
@[simp] theorem State.top_passing (s : State) (c : Client) (p : Pin) :
    (s.passing c).top p = s.top p := rfl
@[simp] theorem State.topClaim_passing (s : State) (c : Client) (p : Pin) :
    (s.passing c).topClaim p = s.topClaim p := rfl
@[simp] theorem State.isTop_passing (s : State) (c : Client) (i : Client) (p : Pin) :
    (s.passing c).isTop i p = s.isTop i p := rfl
@[simp] theorem State.refsOf_passing (s : State) (c : Client) (k : Chan) :
    (s.passing c).refsOf k = s.refsOf k := rfl
@[simp] theorem State.levelOf_passing (s : State) (c : Client) (src : Source) :
    (s.passing c).levelOf src = s.levelOf src := rfl
@[simp] theorem State.resolve_passing (s : State) (c : Client) (p : Pin) :
    (s.passing c).resolve p = s.resolve p := rfl
@[simp] theorem State.watchAt_passing (s : State) (c : Client) (i : Client) (p : Pin) :
    (s.passing c).watchAt i p = s.watchAt i p := rfl
@[simp] theorem State.pinInUse_passing (s : State) (c : Client) (p : Pin) :
    (s.passing c).pinInUse p = s.pinInUse p := rfl
@[simp] theorem State.lowestFree_passing (s : State) (c : Client) :
    (s.passing c).lowestFree = s.lowestFree := rfl
@[simp] theorem State.relies_passing (s : State) (c : Client) (i : Client) (k : Chan) :
    (s.passing c).relies i k = s.relies i k := rfl
@[simp] theorem State.namesFree_passing (s : State) (c : Client) (src : Option Source) (wait : Option Chan) :
    (s.passing c).namesFree src wait = s.namesFree src wait := rfl
@[simp] theorem State.waitsOn_passing (s : State) (c : Client) (wait : Option Chan) :
    (s.passing c).waitsOn wait = s.waitsOn wait := rfl
@[simp] theorem State.pinLevels_passing (s : State) (c : Client) :
    (s.passing c).pinLevels = s.pinLevels := rfl
@[simp] theorem State.lags_passing (s : State) (c : Client) (p : Pin) :
    (s.passing c).lags p = s.lags p := rfl
@[simp] theorem State.chainCheck_passing (s : State) (c : Client) (k : Chan) (src : ClockSource) :
    (s.passing c).chainCheck k src = s.chainCheck k src := rfl
@[simp] theorem State.claimsIn_passing (s : State) (c : Client) (p : Pin) (st : ClaimState) :
    (s.passing c).claimsIn p st = s.claimsIn p st := rfl

/-! ### answer -/

@[simp] theorem State.claimAt_answer (s : State) (c : Client) (tag : Byte) (u : Status) (pl : List Byte) (i : Client) (p : Pin) :
    (s.answer c tag u pl).claimAt i p = s.claimAt i p := rfl
@[simp] theorem State.rankAt_answer (s : State) (c : Client) (tag : Byte) (u : Status) (pl : List Byte) (i : Client) (p : Pin) :
    (s.answer c tag u pl).rankAt i p = s.rankAt i p := rfl
@[simp] theorem State.top_answer (s : State) (c : Client) (tag : Byte) (u : Status) (pl : List Byte) (p : Pin) :
    (s.answer c tag u pl).top p = s.top p := rfl
@[simp] theorem State.topClaim_answer (s : State) (c : Client) (tag : Byte) (u : Status) (pl : List Byte) (p : Pin) :
    (s.answer c tag u pl).topClaim p = s.topClaim p := rfl
@[simp] theorem State.isTop_answer (s : State) (c : Client) (tag : Byte) (u : Status) (pl : List Byte) (i : Client) (p : Pin) :
    (s.answer c tag u pl).isTop i p = s.isTop i p := rfl
@[simp] theorem State.refsOf_answer (s : State) (c : Client) (tag : Byte) (u : Status) (pl : List Byte) (k : Chan) :
    (s.answer c tag u pl).refsOf k = s.refsOf k := rfl
@[simp] theorem State.levelOf_answer (s : State) (c : Client) (tag : Byte) (u : Status) (pl : List Byte) (src : Source) :
    (s.answer c tag u pl).levelOf src = s.levelOf src := rfl
@[simp] theorem State.resolve_answer (s : State) (c : Client) (tag : Byte) (u : Status) (pl : List Byte) (p : Pin) :
    (s.answer c tag u pl).resolve p = s.resolve p := rfl
@[simp] theorem State.watchAt_answer (s : State) (c : Client) (tag : Byte) (u : Status) (pl : List Byte) (i : Client) (p : Pin) :
    (s.answer c tag u pl).watchAt i p = s.watchAt i p := rfl
@[simp] theorem State.pinInUse_answer (s : State) (c : Client) (tag : Byte) (u : Status) (pl : List Byte) (p : Pin) :
    (s.answer c tag u pl).pinInUse p = s.pinInUse p := rfl
@[simp] theorem State.lowestFree_answer (s : State) (c : Client) (tag : Byte) (u : Status) (pl : List Byte) :
    (s.answer c tag u pl).lowestFree = s.lowestFree := rfl
@[simp] theorem State.relies_answer (s : State) (c : Client) (tag : Byte) (u : Status) (pl : List Byte) (i : Client) (k : Chan) :
    (s.answer c tag u pl).relies i k = s.relies i k := rfl
@[simp] theorem State.namesFree_answer (s : State) (c : Client) (tag : Byte) (u : Status) (pl : List Byte) (src : Option Source) (wait : Option Chan) :
    (s.answer c tag u pl).namesFree src wait = s.namesFree src wait := rfl
@[simp] theorem State.waitsOn_answer (s : State) (c : Client) (tag : Byte) (u : Status) (pl : List Byte) (wait : Option Chan) :
    (s.answer c tag u pl).waitsOn wait = s.waitsOn wait := rfl
@[simp] theorem State.pinLevels_answer (s : State) (c : Client) (tag : Byte) (u : Status) (pl : List Byte) :
    (s.answer c tag u pl).pinLevels = s.pinLevels := rfl
@[simp] theorem State.lags_answer (s : State) (c : Client) (tag : Byte) (u : Status) (pl : List Byte) (p : Pin) :
    (s.answer c tag u pl).lags p = s.lags p := rfl
@[simp] theorem State.chainCheck_answer (s : State) (c : Client) (tag : Byte) (u : Status) (pl : List Byte) (k : Chan) (src : ClockSource) :
    (s.answer c tag u pl).chainCheck k src = s.chainCheck k src := rfl
@[simp] theorem State.claimsIn_answer (s : State) (c : Client) (tag : Byte) (u : Status) (pl : List Byte) (p : Pin) (st : ClaimState) :
    (s.answer c tag u pl).claimsIn p st = s.claimsIn p st := rfl

/-! ## The taking of a request (R166 to R171) -/

/-- What the owning block does for each request. -/
def actOf (c : Client) : Command → List Byte → State → Result
  | .openSession => openAct c
  | .closeSession => closeAct c
  | .ping => pingAct c
  | .resetAll => resetAllAct c
  | .getPolicy => getPolicyAct
  | .setPolicy => setPolicyAct c
  | .claim => claimAct c
  | .modify => modifyAct c
  | .release => releaseAct c
  | .queryPin => queryPinAct c
  | .bind => bindAct c
  | .configure => configureAct c
  | .stage => stageAct c
  | .commit => commitAct c
  | .cancel => cancelAct c
  | .start => startAct c
  | .arm => armAct c
  | .stop => stopAct c
  | .startGroup => startGroupAct c
  | .releaseChannel => releaseChannelAct c
  | .adopt => adoptAct c
  | .readChannel => readChannelAct
  | .watch => watchAct c
  | .unwatch => unwatchAct c
  | .readPins => readPinsAct
  | .fetch => fetchAct c

/-- A request command is a taking, whatever the request. -/
theorem exec_requestAt (c : Client) (cmd : Command) (s : State) :
    exec (requestAt c cmd) s = .next (s.take c cmd (actOf c cmd)) := by cases cmd <;> rfl

/-- The state a request's owning block finds: the lease renewed, the other held ports passed by (R166, R168). -/
def State.taken (s : State) (c : Client) : State := (s.renew c).passing c

/-- What the dispatcher answers for a request. -/
def State.served (s : State) (c : Client) (cmd : Command) (pl : List Byte) : Result :=
  (s.taken c).serve c cmd pl (actOf c cmd)

theorem State.Asks.heldFrame {s : State} {c : Client} {f : Frame} (h : s.Asks c f) : s.heldFrame c = some f := by
  obtain ⟨⟨hr, -⟩, hs, hf, hm⟩ := h
  simp [State.heldFrame, hr, hs, hm, hf]

/-- The taking of a request that is held and may be taken. -/
theorem State.take_of_asks {s : State} {c : Client} {cmd : Command} {tag : Byte} {pl : List Byte}
    (h : s.Asks c (frameOf cmd tag pl)) (act : List Byte → State → Result) :
    s.take c cmd act =
      ((s.taken c).serve c cmd pl act).state.answer c tag ((s.taken c).serve c cmd pl act).status
        ((s.taken c).serve c cmd pl act).payload := by
  have hc : s.settle = s := State.Calm.settle h.1
  simp only [State.take, hc, h.heldFrame, frameOf, if_true, State.taken]

/-- One equation for every request that is held and may be taken. -/
theorem exec_of_asks {s : State} {c : Client} {cmd : Command} {tag : Byte} {pl : List Byte}
    (h : s.Asks c (frameOf cmd tag pl)) :
    exec (requestAt c cmd) s =
      .next ((s.served c cmd pl).state.answer c tag (s.served c cmd pl).status (s.served c cmd pl).payload) := by
  rw [exec_requestAt, State.take_of_asks h]; rfl

/-- The dispatcher's second check (R169). -/
theorem State.served_noSession {s : State} {c : Client} {cmd : Command} {pl : List Byte}
    (hn : needsSession cmd = true) (hs : (s.session c).state = .closed) :
    s.served c cmd pl = refuse (s.taken c) .noSession := by
  have : ((s.taken c).session c).state = .closed := by
    simp [State.taken, State.session_renew, hs]
  simp [State.served, State.serve, hn, this]

/-- The dispatcher's third check (R170). -/
theorem State.served_badLength {s : State} {c : Client} {cmd : Command} {pl : List Byte}
    (hs : needsSession cmd = true → s.InSession c) (hl : lengthOk cmd pl = false) :
    s.served c cmd pl = refuse (s.taken c) .badArg := by
  have : ¬(needsSession cmd = true ∧ ((s.taken c).session c).state = .closed) := fun ⟨h, e⟩ =>
    hs h (by simpa [State.taken, State.session_renew] using e)
  simp only [State.served, State.serve, hl]
  rw [if_neg (by simpa using this)]; rfl

/-- A request that passes the common checks reaches its owning block (R167). -/
theorem State.served_act {s : State} {c : Client} {cmd : Command} {pl : List Byte}
    (hs : needsSession cmd = true → s.InSession c) (hl : lengthOk cmd pl = true) :
    s.served c cmd pl = actOf c cmd pl (s.taken c) := by
  have : ¬(needsSession cmd = true ∧ ((s.taken c).session c).state = .closed) := fun ⟨h, e⟩ =>
    hs h (by simpa [State.taken, State.session_renew] using e)
  simp only [State.served, State.serve, hl]
  rw [if_neg (by simpa using this)]; rfl

/-! ## The reply in the slot (R164, R171) -/

/-- Where the owning block left every port but for attention lines, the reply stands in the slot and every other
port is as it was. -/
theorem answered_of_ports {s u : State} {c : Client}
    (h : ∀ d : Client, u.port d = { (s.taken c).port d with attention := (u.port d).attention })
    (tag : Byte) (st : Status) (pl : List Byte) : Answered s (u.answer c tag st pl) c tag st pl := by
  refine ⟨?_, fun d hd => ?_⟩
  · rw [State.port_answer, if_pos rfl, h c]
    simp [State.taken, State.port_passing]
  · simp only [SamePort]
    rw [State.port_answer, if_neg (Ne.symm hd), h d]
    simp only [State.taken, State.port_passing, State.renew_port]
    split <;> rfl

/-- The same where notices were placed. -/
theorem answered_of_placed {s u : State} {c : Client} (h : SamePorts (s.taken c) u)
    (tag : Byte) (st : Status) (pl : List Byte) : Answered s (u.answer c tag st pl) c tag st pl :=
  answered_of_ports (fun d => by
    have := h d
    rw [← this]) tag st pl

theorem onlyRenewed_of_sessions {s u : State} {c : Client} (h : u.sessions = (s.taken c).sessions)
    (tag : Byte) (st : Status) (pl : List Byte) : OnlyRenewed s (u.answer c tag st pl) c := by
  refine ⟨?_, fun d hd => ?_⟩
  · rw [State.answer_session, State.session_congr h]; simp [State.taken, State.session_renew]
  · rw [State.answer_session, State.session_congr h]; simp [State.taken, State.session_renew, Ne.symm hd]

/-- An answer given with the state as the taking found it changes nothing but the port and the lease. -/
theorem onlyAnswered (s : State) (c : Client) (tag : Byte) (st : Status) (pl : List Byte) :
    OnlyAnswered s ((s.taken c).answer c tag st pl) c tag st pl :=
  ⟨answered_of_ports (fun _ => rfl) tag st pl, onlyRenewed_of_sessions rfl tag st pl,
    ⟨by simp [State.taken], by simp [State.taken], by simp [State.taken]⟩,
    ⟨by simp [State.taken], by simp [State.taken]⟩, by simp [State.taken], by simp [State.taken],
    by simp [State.taken],
    ⟨by simp [State.taken], by simp [State.taken], by simp [State.taken], by simp [State.taken]⟩⟩

/-- A request that its block answers with the state unchanged. -/
theorem exec_onlyAnswered {s : State} {c : Client} {cmd : Command} {tag : Byte} {pl reply : List Byte} {st : Status}
    (h : s.Asks c (frameOf cmd tag pl))
    (hr : s.served c cmd pl = { state := s.taken c, status := st, payload := reply }) :
    ∃ t, exec (requestAt c cmd) s = .next t ∧ OnlyAnswered s t c tag st reply :=
  ⟨_, exec_of_asks h, by rw [hr]; exact onlyAnswered s c tag st reply⟩

/-- A refused request. -/
theorem exec_refused {s : State} {c : Client} {cmd : Command} {tag : Byte} {pl : List Byte} {st : Status}
    (h : s.Asks c (frameOf cmd tag pl)) (hr : s.served c cmd pl = refuse (s.taken c) st) :
    ∃ t, exec (requestAt c cmd) s = .next t ∧ OnlyAnswered s t c tag st [] := exec_onlyAnswered h hr

/-! ## Steps -/

/-- A step that answers a next state idles on an empty queue, or is the front command's. -/
theorem step_cases {s t : State} (h : step s = .next t) :
    (s.pending = [] ∧ t = s) ∨
    ∃ i rest, s.pending = i :: rest ∧ exec i { s with pending := rest } = .next t := by
  unfold step at h
  split at h
  · next e => injection h with h; exact .inl ⟨e, h.symm⟩
  · next i rest e => exact .inr ⟨i, rest, e, h⟩

/-- What every command keeps, and the waiting commands do not touch, every step keeps. -/
theorem step_keeps {Inv : State → Prop} (pend : ∀ (s : State) (l : List Instr), Inv s → Inv { s with pending := l })
    (h : ∀ (i : Instr) (s t : State), Inv s → exec i s = .next t → Inv t) {s t : State} (hs : Inv s)
    (ht : step s = .next t) : Inv t := by
  obtain ⟨-, rfl⟩ | ⟨i, rest, -, he⟩ := step_cases ht
  · exact hs
  · exact h i _ _ (pend s rest hs) he

end Sys2Proof.Machine
end

