-- ==== Sys2Proof/Laws/Bus.lean ====
section
/-! SUPPORT. Transactions: what a run of bytes does in each place a transaction can stand, and how many bytes of a
WRITE make its frame. -/

namespace Sys2Proof.Machine

open Sys2Proof

/-- A run of bytes. -/
abbrev State.busBytes (s : State) (c : Client) (bs : List Byte) : State := bs.foldl (fun t b => t.busByte c b) s

/-- A port written back as it stands. -/
theorem State.setPort_self_eq (s : State) (c : Client) :
    s.setPort c { s.port c with out := (s.port c).out } = s := State.setPort_port s c

/-! ## Ignored and shifted out (R156, R161) -/

theorem State.busBytes_ignore {s : State} {c : Client} (h : (s.port c).transaction = .ignore) (bs : List Byte) :
    s.busBytes c bs =
      s.setPort c { s.port c with out := (s.port c).out ++ List.replicate bs.length Config.filler } := by
  induction bs generalizing s with
  | nil => simp [State.busBytes, State.setPort_self_eq]
  | cons b bs ih =>
    have one : s.busByte c b = s.setPort c { s.port c with out := (s.port c).out ++ [Config.filler] } := by
      simp only [State.busByte, h]
    rw [State.busBytes, List.foldl_cons, one, ← State.busBytes, ih (by simpa using h)]
    simp [List.replicate_succ]

theorem State.busBytes_send {s : State} {c : Client} (h : (s.port c).transaction = .send) (bs : List Byte) :
    s.busBytes c bs = s.setPort c { s.port c with
      tx := (s.port c).tx.drop bs.length
      out := (s.port c).out ++ ((s.port c).tx ++ List.replicate bs.length Config.filler).take bs.length } := by
  induction bs generalizing s with
  | nil => simp [State.busBytes, State.setPort_self_eq]
  | cons b bs ih =>
    have one : s.busByte c b = s.setPort c { s.port c with
        tx := (s.port c).tx.drop 1, out := (s.port c).out ++ [(s.port c).tx.headD Config.filler] } := by
      simp only [State.busByte, h]
    rw [State.busBytes, List.foldl_cons, one, ← State.busBytes, ih (by simpa using h)]
    simp only [State.port_setPort_self, State.setPort_setPort, List.drop_drop, List.length_cons,
      List.append_assoc]
    congr 2
    · rw [Nat.add_comm]
    · cases (s.port c).tx with
      | nil => simp [List.replicate_succ]
      | cons x tx =>
        simp only [List.headD_cons, List.drop_succ_cons, List.drop_zero, List.cons_append, List.take_succ_cons,
          List.nil_append]
        congr 2
        rw [List.take_append, List.take_append, List.take_replicate, List.take_replicate]
        congr 2; omega

/-! ## Received (R158, R159) -/

/-- The bytes a frame takes of a run of bytes. -/
def takeFrame (rx bs : List Byte) : List Byte := bs.foldl (fun r b => if frameOpen r then r ++ [b] else r) rx

theorem State.busBytes_receive {s : State} {c : Client} (h : (s.port c).transaction = .receive) (bs : List Byte) :
    s.busBytes c bs = s.setPort c { s.port c with
      rx := takeFrame (s.port c).rx bs
      out := (s.port c).out ++ List.replicate bs.length Config.filler } := by
  induction bs generalizing s with
  | nil => simp [State.busBytes, takeFrame, State.setPort_self_eq]
  | cons b bs ih =>
    have one : s.busByte c b = s.setPort c { s.port c with
        rx := if frameOpen (s.port c).rx then (s.port c).rx ++ [b] else (s.port c).rx
        out := (s.port c).out ++ [Config.filler] } := by
      simp only [State.busByte, h]
    rw [State.busBytes, List.foldl_cons, one, ← State.busBytes, ih (by simpa using h)]
    simp [List.replicate_succ, takeFrame]

/-- How many bytes a frame takes, by its header: three where the declared length is above 56 (R159). -/
def frameSize (bs : List Byte) : Nat :=
  if 3 ≤ bs.length ∧ (byteAt bs 2).toNat ≤ Config.maxPayload then 4 + (byteAt bs 2).toNat else 3

theorem byteAt_append {a b : List Byte} {i : Nat} (h : i < a.length) : byteAt (a ++ b) i = byteAt a i := by
  simp [byteAt, List.getElem?_append_left h]

theorem byteAt_take {l : List Byte} {n i : Nat} (h : i < n) : byteAt (l.take n) i = byteAt l i := by
  simp [byteAt, h]

theorem frameOpen_iff (rx : List Byte) : frameOpen rx = true ↔ rx.length < frameSize rx ∨ rx.length < 3 := by
  unfold frameOpen frameSize
  by_cases h : rx.length < 3
  · simp [h]
  · have h' : 3 ≤ rx.length := by omega
    by_cases hl : (byteAt rx 2).toNat ≤ Config.maxPayload <;> simp [h, h', hl]

theorem frameSize_append {rx : List Byte} (h : 3 ≤ rx.length) (b : List Byte) :
    frameSize (rx ++ b) = frameSize rx := by
  unfold frameSize
  rw [byteAt_append (by omega)]
  simp only [List.length_append]
  congr 1
  simp only [eq_iff_iff]
  constructor <;> rintro ⟨-, h2⟩ <;> exact ⟨by omega, h2⟩

theorem three_le_frameSize (bs : List Byte) : 3 ≤ frameSize bs := by unfold frameSize; split <;> omega

/-- A frame takes the first bytes of a WRITE, up to its size. -/
theorem takeFrame_nil (bs : List Byte) : takeFrame [] bs = bs.take (frameSize bs) := by
  suffices ∀ pre : List Byte, takeFrame (pre.take (frameSize pre)) bs = (pre ++ bs).take (frameSize (pre ++ bs)) by
    simpa using this []
  induction bs with
  | nil => intro pre; simp [takeFrame]
  | cons b bs ih =>
    intro pre
    have step : takeFrame (pre.take (frameSize pre)) (b :: bs) =
        takeFrame ((pre ++ [b]).take (frameSize (pre ++ [b]))) bs := by
      unfold takeFrame
      rw [List.foldl_cons]
      congr 1
      by_cases hp : pre.length < 3
      · have e : pre.take (frameSize pre) = pre := List.take_of_length_le (by have := three_le_frameSize pre; omega)
        rw [e, if_pos ((frameOpen_iff pre).mpr (.inr hp))]
        exact (List.take_of_length_le (by have := three_le_frameSize (pre ++ [b]); simp; omega)).symm
      · rw [frameSize_append (by omega)]
        by_cases hs : pre.length < frameSize pre
        · have e : pre.take (frameSize pre) = pre := List.take_of_length_le (by omega)
          rw [e, if_pos ((frameOpen_iff pre).mpr (.inl hs))]
          exact (List.take_of_length_le (by simp; omega)).symm
        · have len : (pre.take (frameSize pre)).length = frameSize pre := by simp; omega
          have sz : frameSize (pre.take (frameSize pre)) = frameSize pre := by
            conv_rhs => rw [← List.take_append_drop (frameSize pre) pre]
            exact (frameSize_append (by rw [len]; exact three_le_frameSize pre) _).symm
          have closed : ¬frameOpen (pre.take (frameSize pre)) = true := fun h => by
            rw [frameOpen_iff, sz, len] at h
            have := three_le_frameSize pre
            omega
          rw [if_neg closed, List.take_append_of_le_length (by omega)]
    rw [step, ih]; simp

/-- A WRITE holds a good frame exactly where its declared length is at most 56, all its bytes and the CRC byte
came, and the CRC agrees (R159). -/
theorem goodFrame_takeFrame (bs : List Byte) : goodFrame (takeFrame [] bs) =
    if 3 ≤ bs.length ∧ (byteAt bs 2).toNat ≤ Config.maxPayload ∧ 4 + (byteAt bs 2).toNat ≤ bs.length ∧
        crc8 (bs.take (3 + (byteAt bs 2).toNat)) = byteAt bs (3 + (byteAt bs 2).toNat) then
      some { command := byteAt bs 0, tag := byteAt bs 1, payload := (bs.drop 3).take (byteAt bs 2).toNat }
    else none := by
  rw [takeFrame_nil]
  by_cases h : 3 ≤ bs.length ∧ (byteAt bs 2).toNat ≤ Config.maxPayload
  · have sz : frameSize bs = 4 + (byteAt bs 2).toNat := by simp [frameSize, h]
    have b0 : byteAt (bs.take (frameSize bs)) 0 = byteAt bs 0 := byteAt_take (by omega)
    have b1 : byteAt (bs.take (frameSize bs)) 1 = byteAt bs 1 := byteAt_take (by omega)
    have b2 : byteAt (bs.take (frameSize bs)) 2 = byteAt bs 2 := byteAt_take (by omega)
    have b3 : byteAt (bs.take (frameSize bs)) (3 + (byteAt bs 2).toNat) = byteAt bs (3 + (byteAt bs 2).toNat) :=
      byteAt_take (by omega)
    have ht : (bs.take (frameSize bs)).take (3 + (byteAt bs 2).toNat) = bs.take (3 + (byteAt bs 2).toNat) := by
      rw [List.take_take]; congr 1; omega
    have hd : ((bs.take (frameSize bs)).drop 3).take (byteAt bs 2).toNat = (bs.drop 3).take (byteAt bs 2).toNat := by
      rw [List.drop_take, List.take_take]; congr 1; omega
    have len : (bs.take (frameSize bs)).length = min (4 + (byteAt bs 2).toNat) bs.length := by rw [List.length_take, sz]
    unfold goodFrame
    simp only [b0, b1, b2, b3, ht, hd, len, h.1, h.2, true_and]
    by_cases hl : 4 + (byteAt bs 2).toNat ≤ bs.length
    · have h3 : 3 ≤ min (4 + (byteAt bs 2).toNat) bs.length := by omega
      have h4 : 4 + (byteAt bs 2).toNat ≤ min (4 + (byteAt bs 2).toNat) bs.length := by omega
      simp only [h3, h4, hl, true_and, decide_true, Bool.true_and, decide_eq_true_eq]
    · have h4 : ¬4 + (byteAt bs 2).toNat ≤ min (4 + (byteAt bs 2).toNat) bs.length := by omega
      simp [h4, hl]
  · rw [if_neg fun h' => h ⟨h'.1, h'.2.1⟩]
    have sz : frameSize bs = 3 := by simp only [frameSize, h, if_false]
    unfold goodFrame
    rw [sz]
    by_cases h3 : 3 ≤ bs.length
    · have : ¬(byteAt (bs.take 3) 2).toNat ≤ Config.maxPayload := by
        rw [byteAt_take (by omega)]; exact fun e => h ⟨h3, e⟩
      simp [this]
    · have : ¬3 ≤ (bs.take 3).length := by simp; omega
      simp only [this, decide_false, Bool.false_and, Bool.false_eq_true, if_false]

/-- The byte 1 of what a frame takes is the WRITE's tag byte, 0 where none came (R159). -/
theorem byteAt_takeFrame_one (bs : List Byte) : byteAt (takeFrame [] bs) 1 = byteAt bs 1 := by
  rw [takeFrame_nil]; exact byteAt_take (by have := three_le_frameSize bs; omega)

/-! ## Ports and the quiet of the pads -/

/-- A port's transactions make no pad lag. -/
theorem State.calm_setPort {s : State} (h : s.Calm) (c : Client) (v : Port) : (s.setPort c v).Calm := h

end Sys2Proof.Machine
end

