-- ==== Sys2Proof/Laws/Events.lean ====
section
/-! SUPPORT. The events of the channels, the sessions and the device: what each step of a boundary, a start, a
release of a channel, a teardown and a device reset leaves at the channels, the queues and the tables. -/

namespace Sys2Proof.Machine

open Sys2Proof

/-! ## Starts (R62, R64, R68) -/

theorem Channel.start_eq_fresh (ch : Channel) : ch.start = ch.fresh := by
  have out : ({ ch with
      state := .running, count := ch.settings.reload, startValue := ch.settings.reload, phase := 0,
      trigger := none, inputsDue := 0, triggerDue := false } : Channel).outputNow =
      decide (ch.settings.compare ≠ 0) := by
    unfold Channel.outputNow
    dsimp only
    by_cases h : ch.settings.compare = 0
    · rw [if_pos h]; simp [h]
    · rw [if_neg h, BitVec.sub_self, decide_eq_true h]
      have pos : (0#16) < ch.settings.compare := by
        have : ch.settings.compare ≠ 0#16 := h
        bv_omega
      split
      · rfl
      · exact decide_eq_true pos
  simp only [Channel.start, Channel.evalOutput, out, Channel.fresh]
  simp

theorem State.channel_startChans (s : State) (ks : List Chan) (excl : Option Client) (j : Chan) :
    (s.startChans ks excl).channel j = if j ∈ ks then (s.channel j).fresh else s.channel j := by
  unfold State.startChans
  rw [State.resolvePads_channel, foldl_keeps (g := fun t => t.channel j) (fun _ _ => by simp)]
  simp [Channel.start_eq_fresh]

theorem Channel.fresh_owner (ch : Channel) : ch.fresh.owner = ch.owner := rfl

/-- The reports of a start, where the started channels are already RUNNING. -/
theorem State.queue_foldl_noteSource {s t : State} {ks : List Chan} (hc : t.claims = s.claims)
    (hch : ∀ k, k ∈ ks → (t.channel k).state = .running ∧ (t.channel k).owner = (s.channel k).owner)
    (excl : Option Client) (d : Client) (l : List Chan) :
    ((l.filter ks.contains).foldl (fun u k => u.noteSource k excl) t).queue d =
      l.foldl (fun q k =>
        if k ∈ ks ∧ excl ≠ some d ∧ s.relies d k = true then
          q.place (.sourceChange k .running (s.channel k).owner.isSome)
        else q) (t.queue d) := by
  induction l generalizing t with
  | nil => rfl
  | cons k l ih =>
    have rel : t.relies d k = s.relies d k := by simp only [State.relies, hc]
    by_cases m : k ∈ ks
    · rw [List.filter_cons_of_pos (by simpa using m), List.foldl_cons, List.foldl_cons,
        ih (by simp [hc]) (fun j hj => by rw [State.noteSource_channel]; exact hch j hj), State.queue_noteSource,
        rel, (hch k m).1, (hch k m).2]
      simp [m]
    · rw [List.filter_cons_of_neg (by simpa using m), List.foldl_cons, ih hc hch]
      simp [m]

/-- A start reports SOURCE_CHANGE(RUNNING) for each started channel, in ascending order (R102, R144). -/
theorem State.queue_startChans (s : State) (ks : List Chan) (excl : Option Client) (d : Client) :
    (s.startChans ks excl).queue d = allChans.foldl (fun q k =>
        if k ∈ ks ∧ excl ≠ some d ∧ s.relies d k = true then
          q.place (.sourceChange k .running (s.channel k).owner.isSome)
        else q) (s.queue d) := by
  unfold State.startChans
  rw [State.resolvePads_queue, State.queue_foldl_noteSource (s := s) (by simp)
    (fun k hk => by simp [hk, Channel.start_eq_fresh, Channel.fresh]), State.queue_mapChannels]

theorem State.startChans_placed (s : State) (ks : List Chan) (excl : Option Client) :
    SamePorts s (s.startChans ks excl) := by
  intro c
  have h := Placed.foldl (f := fun u k => State.noteSource u k excl) (fun u k => .noteSource u k excl)
    (allChans.filter ks.contains) (s.mapChannels fun k ch => if ks.contains k then ch.start else ch)
  have := h.samePorts c
  rw [State.port_mapChannels] at this
  unfold State.startChans
  rw [State.resolvePads_port]; exact this

/-! ## Boundaries (R80 to R84) -/

theorem State.channel_boundaryCommit (s : State) (k j : Chan) :
    (s.boundaryCommit k).channel j = if k = j then
      { s.channel k with
        settings := match (s.channel k).commit with
          | none => (s.channel k).settings
          | some st => (s.channel k).settings.apply st
        commit := none }
    else s.channel j := by
  unfold State.boundaryCommit
  cases h : (s.channel k).commit with
  | none =>
    by_cases e : k = j
    · subst e; dsimp only; rw [if_pos rfl, ← h]
    · rw [if_neg e]
  | some st =>
    dsimp only
    rw [State.noteOwner_channel, State.channel_setChannel]

theorem State.queue_boundaryCommit (s : State) (k : Chan) (d : Client) :
    (s.boundaryCommit k).queue d =
      if (s.channel k).owner = some d ∧ (s.channel k).commit.isSome then
        (s.queue d).place (.commitEnd k true)
      else s.queue d := by
  unfold State.boundaryCommit
  cases h : (s.channel k).commit with
  | none => simp
  | some st => simp [State.queue_noteOwner]

theorem State.boundaryCommit_samePorts (s : State) (k : Chan) : SamePorts s (s.boundaryCommit k) := by
  unfold State.boundaryCommit; split
  · intro c; rfl
  · next st _ => exact (Placed.noteOwner (s.setChannel k { s.channel k with
      settings := (s.channel k).settings.apply st, commit := none }) k (.commitEnd k true)).samePorts

theorem State.queue_activate (s : State) (k : Chan) (d : Client) :
    (s.activate k).queue d = topNotices s (s.activate k) none d (s.queue d) := by
  have hl : (s.activate k).claimLists = ((s.waitList k).foldl State.activateOne (s.setWaitList k [])).claimLists := by
    rw [State.activate, State.noteTops_claimLists]
  have hc : (s.activate k).claims = ((s.waitList k).foldl State.activateOne (s.setWaitList k [])).claims := by
    rw [State.activate, State.noteTops_claims]
  rw [topNotices_congr hl hc, State.activate, State.queue_noteTops,
    foldl_keeps (g := fun t => t.queue d) (fun _ _ => by simp), State.queue_setWaitList]

theorem State.activate_samePorts (s : State) (k : Chan) : SamePorts s (s.activate k) := by
  intro c
  have := (Placed.noteTops s none ((s.waitList k).foldl State.activateOne (s.setWaitList k []))).samePorts c
  rw [foldl_keeps (g := fun t => t.port c) (fun _ _ => by simp), State.port_setWaitList] at this
  exact this

/-- A channel handed a clock input where it is chained from `k` (R58). -/
def Channel.handChain (ch : Channel) (k : Chan) : Channel :=
  if ch.state = .running && ch.settings.clock = .chain k then { ch with inputsDue := ch.inputsDue + 1 } else ch

theorem State.channel_handBoundary (s : State) (k j : Chan) :
    (s.handBoundary k).channel j = (s.channel j).handChain k := by
  simp [State.handBoundary, Channel.handChain]

/-- What the mode makes of a channel at a boundary (R82, R83). -/
def Channel.afterBoundary (ch : Channel) : Channel :=
  match ch.settings.mode with
  | .reload => ch.newPeriod ch.settings.reload
  | .wrap => ch.newPeriod 65535
  | .oneShot => ch.finish

theorem State.channel_boundaryMode (s : State) (k j : Chan) :
    (s.boundaryMode k).channel j =
      (if k = j then (s.channel k).afterBoundary else s.channel j).handChain k := by
  unfold State.boundaryMode Channel.afterBoundary
  dsimp only
  split <;> simp [State.channel_handBoundary, State.channel_setChannel, *]

theorem State.queue_boundaryMode (s : State) (k : Chan) (d : Client) :
    (s.boundaryMode k).queue d =
      if (s.channel k).settings.mode = .oneShot ∧ s.relies d k = true then
        (s.queue d).place (.sourceChange k .done (s.channel k).owner.isSome)
      else s.queue d := by
  unfold State.boundaryMode
  dsimp only
  split <;> simp [State.handBoundary, State.queue_noteSource, Channel.finish, State.relies, *]

theorem State.boundaryMode_samePorts (s : State) (k : Chan) : SamePorts s (s.boundaryMode k) := by
  intro c
  unfold State.boundaryMode
  dsimp only
  split
  · rw [State.handBoundary_port, State.port_setChannel]
  · rw [State.handBoundary_port, State.port_setChannel]
  · have := (Placed.noteSource (s.setChannel k (s.channel k).finish) k none).samePorts c
    rw [State.port_setChannel] at this
    rw [State.handBoundary_port]; exact this

theorem State.queue_boundaryTerminal (s : State) (k : Chan) (d : Client) :
    (s.boundaryTerminal k).queue d =
      if (s.channel k).owner = some d ∧ (s.channel k).settings.notify = true then
        (s.queue d).place (.terminal k)
      else s.queue d := by
  unfold State.boundaryTerminal
  by_cases h : (s.channel k).settings.notify = true <;> simp [h, State.queue_noteOwner]

theorem State.boundaryTerminal_placed (s : State) (k : Chan) : Placed s (s.boundaryTerminal k) := by
  unfold State.boundaryTerminal; split
  · exact .noteOwner ..
  · exact .refl s

/-- A boundary, its steps named: what the references are settled in, before the pins are resolved. -/
def State.boundaryDone (s : State) (k : Chan) : State :=
  (((s.boundaryCommit k).activate k).boundaryMode k).boundaryTerminal k

theorem State.boundary_eq (s : State) (k : Chan) : s.boundary k = (s.boundaryDone k).settleRefs.resolvePads := rfl

theorem State.channel_boundaryDone (s : State) (k j : Chan) :
    (s.boundaryDone k).channel j =
      (if k = j then ((s.boundaryCommit k).channel k).afterBoundary else s.channel j).handChain k := by
  unfold State.boundaryDone
  rw [State.boundaryTerminal_channel, State.channel_boundaryMode, State.activate_channel, State.activate_channel]
  by_cases e : k = j
  · rw [if_pos e, if_pos e]
  · rw [if_neg e, if_neg e, State.channel_boundaryCommit, if_neg e]

theorem samePorts_trans {s t u : State} (a : SamePorts s t) (b : SamePorts t u) : SamePorts s u := by
  intro c
  have ha := a c
  have hb := b c
  have e : t.port c = { s.port c with attention := (t.port c).attention } := by
    rw [← ha]
  have e' : u.port c = { t.port c with attention := (u.port c).attention } := by
    rw [← hb]
  rw [e', e]

theorem State.boundaryDone_samePorts (s : State) (k : Chan) : SamePorts s (s.boundaryDone k) :=
  samePorts_trans (samePorts_trans (samePorts_trans (s.boundaryCommit_samePorts k)
    (State.activate_samePorts _ k)) (State.boundaryMode_samePorts _ k)) (State.boundaryTerminal_placed _ k).samePorts

/-! ## Clock inputs (R51, R52) -/

/-- A channel with something waiting, or with no pin to wait for, is ready in a calm state. -/
theorem State.Calm.ready {s : State} (h : s.Calm) {k : Chan}
    (hw : (s.channel k).waiting = true ∨ (s.channel k).edgePin = none ∨
      ∀ p e, (s.channel k).edgePin = some (p, e) → s.edgeComes p e = false) : s.ready k = s := by
  unfold State.ready
  split
  · exact h.settle
  · next p e he =>
    rw [if_neg (by simp [h.1]), if_neg (by simp [h.2.2]), if_neg, h.settle]
    rcases hw with hw | hw | hw
    · simp [hw]
    · rw [hw] at he; cases he
    · simp [hw p e he]

/-- Where nothing waits at any channel, there is nothing to catch up with. -/
theorem State.Quiet.catchUp {s : State} (h : s.Quiet) : s.catchUp = s := by
  have one : ∀ k, s.takeWaiting k = s := fun k => by
    simp [State.takeWaiting, Channel.waiting, (h k).1, (h k).2]
  have all : s.takeAllWaiting = s := by
    unfold State.takeAllWaiting
    generalize allChans = l
    induction l with
    | nil => rfl
    | cons k l ih => rw [List.foldl_cons, one, ih]
  unfold State.catchUp
  generalize 6 = n
  induction n with
  | zero => rfl
  | succ n ih => rw [Nat.repeat, ih, all]

/-- A clock command takes an input that is due, where it is of the kind asked for. -/
theorem State.clocked_of_due {s : State} (h : s.Calm) {k : Chan} (hr : (s.channel k).state = .running)
    (hd : 0 < (s.channel k).inputsDue) (asked : InputKind → Bool) :
    s.clocked k asked = if asked (s.channel k).nextInput then s.takeInput k else s := by
  have e : s.ready k = s := h.ready (.inl (by simp [Channel.waiting, hd]))
  simp [State.clocked, State.inputReady, e, hr, hd, h.settle]

/-- A channel on BASE with no input due takes one of the base tick that comes now, where nothing of the last
one waits anywhere (R56). -/
theorem State.clocked_of_base {s : State} (h : s.Calm) (hq : s.Quiet) {k : Chan} (hr : (s.channel k).state = .running)
    (hb : (s.channel k).settings.clock = .base) (asked : InputKind → Bool) :
    s.clocked k asked = if asked (s.channel k).nextInput then s.baseTick.takeInput k else s := by
  have e : (s.baseTick.channel k).nextInput = (s.channel k).nextInput := by
    simp only [State.baseTick, State.channel_mapChannels, hr, hb]; rfl
  have r : s.ready k = s := h.ready (.inr (.inl (by simp [Channel.edgePin, hr, hb])))
  simp [State.clocked, State.inputReady, r, hr, (hq k).1, hb, hq.catchUp, e, h.settle]

/-- A channel that is not RUNNING ignores its clock inputs (R50). -/
theorem State.clocked_of_idle {s : State} (h : s.Calm) {k : Chan} (hr : (s.channel k).state ≠ .running)
    (asked : InputKind → Bool) : s.clocked k asked = s := by
  have keep : ((s.ready k).channel k).state ≠ .running := by
    unfold State.ready
    split
    · rwa [h.settle]
    · rw [if_neg (by simp [h.1]), if_neg (by simp [h.2.2])]
      split
      · rw [State.endEdge_of_none h.2.2]
        unfold State.followBut
        rw [State.foldl_follow_of_calm h.2.1, State.channel_beginEdge, State.channel_takeEdge]
        unfold Channel.handEdge; (repeat' split) <;> simpa using hr
      · rwa [h.settle]
  simp [State.clocked, State.inputReady, keep, h.settle]

/-! ## Release of a channel (R98, R99) -/

theorem State.channel_letGo {s : State}
    (h : ∀ k : Chan, (s.channel k).state = .free → { s.channel k with refs := 0 } = Channel.cleared)
    {k : Chan} (hk : (s.channel k).state ≠ .free) (c : Client) (j : Chan) :
    (s.letGo k c).channel j =
      (if k = j then (s.channel k).letGo else s.channel j).settled ((s.letGo k c).refsOf j) := by
  have free : (s.channel k).letGo.state ≠ .free := by
    simp only [Channel.letGo]; split
    · simp
    · exact hk
  have base := State.channel_settleRefs (s := s.setChannel k (s.channel k).letGo) (fun i hi => by
    rw [State.channel_setChannel] at hi ⊢
    by_cases e : k = i
    · subst e; rw [if_pos rfl] at hi; exact absurd hi free
    · rw [if_neg e] at hi ⊢; exact h i hi) j
  rw [State.channel_setChannel] at base
  unfold State.letGo
  dsimp only
  split
  · exact base
  · rw [State.noteSource_channel, base]
    exact congrArg _ (State.refsOf_congr (State.noteSource_claims ..)
      (fun i => by rw [State.noteSource_channel]) j).symm

/-! ## Teardown (R131) -/

theorem State.claims_tearClaims (s : State) (c : Client) :
    (s.tearClaims c).claims = s.claims.filter fun q => !decide (q.client = c) := by
  simp only [State.tearClaims, State.noteTops_claims, State.settleRefs_claims, State.claims_dropClaims]

theorem State.queue_tearClaims (s : State) (c d : Client) :
    (s.tearClaims c).queue d = topNotices s (s.tearClaims c) none d (s.queue d) := by
  have hl : (s.tearClaims c).claimLists = ((s.dropClaims fun c' _ => c' = c).settleRefs).claimLists := by
    rw [State.tearClaims, State.noteTops_claimLists]
  have hc : (s.tearClaims c).claims = ((s.dropClaims fun c' _ => c' = c).settleRefs).claims := by
    rw [State.tearClaims, State.noteTops_claims]
  rw [topNotices_congr hl hc, State.tearClaims, State.queue_noteTops]
  simp

theorem State.queue_purge (s : State) (c d : Client) :
    (s.purge c).queue d = if c = d then Queue.empty else s.queue d := by
  simp [State.purge, State.queue_setQueue]

/-- A torn down session's queue is empty (R150). -/
theorem State.queue_teardown_self (s : State) (c : Client) (cause : EndCause) :
    (s.teardown c cause).queue c = Queue.empty := by
  simp [State.teardown, State.queue_purge]

theorem State.session_teardown_self (s : State) (c : Client) (cause : EndCause) :
    ((s.teardown c cause).session c).state = .closed ∧ ((s.teardown c cause).session c).priorEnd = cause := by
  simp [State.teardown, Session.ended]

/-! ## Device reset (R134, R135, R172) -/

@[simp] theorem State.deviceReset_port (s : State) (x : ResetCause) (c : Client) :
    (s.deviceReset x).port c = (s.port c).cut := by simp [State.deviceReset, State.port]
@[simp] theorem State.deviceReset_session (s : State) (x : ResetCause) (c : Client) :
    (s.deviceReset x).session c = Session.atReset := by simp [State.deviceReset, State.session]
@[simp] theorem State.deviceReset_claimList (s : State) (x : ResetCause) (p : Pin) :
    (s.deviceReset x).claimList p = [] := by simp [State.deviceReset, State.claimList]
@[simp] theorem State.deviceReset_waitList (s : State) (x : ResetCause) (k : Chan) :
    (s.deviceReset x).waitList k = [] := by simp [State.deviceReset, State.waitList]
@[simp] theorem State.deviceReset_policy (s : State) (x : ResetCause) (p : Pin) :
    (s.deviceReset x).policy p = Policy.atReset := by simp [State.deviceReset, State.policy]
@[simp] theorem State.deviceReset_pad (s : State) (x : ResetCause) (p : Pin) :
    (s.deviceReset x).pad p = (s.pad p).cleared := by simp [State.deviceReset, State.pad]
@[simp] theorem State.deviceReset_channel (s : State) (x : ResetCause) (k : Chan) :
    (s.deviceReset x).channel k = Channel.cleared := by simp [State.deviceReset, State.channel]
@[simp] theorem State.deviceReset_queue (s : State) (x : ResetCause) (c : Client) :
    (s.deviceReset x).queue c = Queue.empty := by simp [State.deviceReset, State.queue]

@[simp] theorem State.firstSamples_pad (s : State) (p : Pin) :
    s.firstSamples.pad p = { s.pad p with filtered := (s.pad p).raw, run := 0, tickDue := false } := by
  simp [State.firstSamples]

end Sys2Proof.Machine
end

