-- ==== Sys2Proof/WellFormed.lean ====
section
/-! DEFINITION. Which commands are well formed. Index ranges are in the types; what is left is that an
ignored transaction's kind byte is neither the WRITE nor the READ kind byte (R156, R180). -/

namespace Sys2Proof

/-- A kind byte that makes a transaction an ignored one (R180). -/
def unknownKind (kind : Byte) : Bool :=
  kind ≠ Config.writeKind && kind ≠ Config.readKind

/-- The check of a command term. -/
def WellFormed : Instr → Bool
  | .ignoredTransaction _ kind _ => unknownKind kind
  | _ => true

end Sys2Proof
end

