-- ==== Sys2Proof/Tests/Slice0.lean ====
section
/-! SUPPORT. Tests: ill-formed terms that WellFormed refuses, bytes worked out from the spec's tables, one or two
one-step tests per command, and for every statement with hypotheses a state and operands that meet them. Expected
values come from the spec's rules, named beside each test, not from the model. -/

namespace Sys2Proof.Tests

open Sys2Proof Sys2Proof.Machine

-- one kernel evaluation at a time: each would otherwise hold a thread of its own while it waits
set_option Elab.async false

/-! ## States -/

/-- A port that holds a request frame, and nothing else. -/
def ask (s : State) (c : Client) (f : Frame) : State :=
  s.setPort c { s.port c with
    state := .held, held := some f, reply := none, transaction := .none, txReply := false
    attention := !(s.queue c).entries.isEmpty }

/-- An OPEN session with all of its lease left. -/
def openSession (lease : Byte) : Session :=
  { Session.atReset with
    state := .opened, lease := some lease, leaseRemaining := some (lease.toNat * 10) }

/-- Reset, then client A's session OPEN with a lease of 10 ms. -/
def one : State := State.reset.setSession 0 (openSession 1)

/-- Clients A and D in session, D with the longest lease. -/
def two : State := one.setSession 3 (openSession 255)

def settingsOf (mode : Mode) (reload compare : Word) (exp : Fin 9) (clock : ClockSource) (notify : Bool) :
    Settings :=
  { mode := mode, reload := reload, compare := compare, prescaleExp := exp, clock := clock, notify := notify }

/-- A claim with neither hold, wait nor change. -/
def claimOf (c : Client) (p : Pin) (r : Rank) (src : Source) : Claim :=
  { client := c, pin := p, rank := r, source := src, state := .live, wait := none, hold := none,
    holdLeft := none, change := none, tickDue := false }

def keepAll : Staged := { reload := none, compare := none, prescaleExp := none, mode := none }

/-- C0: A's, RUNNING at the end of its only period, with a commit pending, TERMINAL on and an input due. -/
def chan0 : Channel :=
  { Channel.cleared with
    state := .running, owner := some 0, settings := settingsOf .oneShot 1 2 0 .base true, startValue := 1
    output := true, commit := some { keepAll with reload := some 3 }, refs := 3, inputsDue := 1 }

/-- C1: A's, RUNNING, its next input a channel tick with the count above 0; a staging record. -/
def chan1 : Channel :=
  { Channel.cleared with
    state := .running, owner := some 0, settings := settingsOf .reload 5 3 1 .base false, startValue := 5
    count := 3, phase := 1, output := true, staging := some { keepAll with mode := some .wrap }, inputsDue := 1 }

/-- C2: A's, ARMED on a rising edge of P15 that has come, chained from C0. -/
def chan2 : Channel :=
  { Channel.cleared with
    state := .armed, owner := some 0, settings := settingsOf .reload 9 4 0 (.chain 0) false
    trigger := some (15, .rise), triggerDue := true }

/-- C3: an orphan that a claim names, RUNNING with the longest prescale and period. -/
def chan3 : Channel :=
  { Channel.cleared with
    state := .running, settings := settingsOf .wrap 65535 0 8 .base false, startValue := 65535, count := 65535
    refs := 1, inputsDue := 1 }

/-- C4: A's, STOPPED. -/
def chan4 : Channel := { Channel.cleared with state := .stopped, owner := some 0 }

/-- C5: A's, DONE. -/
def chan5 : Channel := { Channel.cleared with state := .done, owner := some 0 }

/-- B's LIVE claim on P0, whose change to rank 7 waits on C0. -/
def changing : Claim :=
  { claimOf 1 0 1 .high with wait := some 0, change := some { rank := some 7, source := none } }

/-- A's PENDING claim on P15, which waits on C0. -/
def waiting : Claim := { claimOf 0 15 1 .low with state := .pending, wait := some 0 }

/-- A's LIVE claim on P1 whose hold a tick has brought to its end. -/
def expiring : Claim := { claimOf 0 1 7 .float with hold := some 1, holdLeft := some 1, tickDue := true }

/-- A part in which every block has something to do: A OPEN at the end of its lease, B in GRACE at its end, all six
channels taken, a stack of claims on P0, a filter run completed at P14, and a notice for B. -/
def busy : State :=
  { State.reset with
    sessions := #v[
      { openSession 1 with
        leaseRemaining := some 1, tickDue := true, claimsHeld := 3, watchesHeld := 1, channelsOwned := 5 },
      { Session.atReset with
        state := .grace, lease := some 1, graceRemaining := some 1, tickDue := true, claimsHeld := 1 },
      Session.atReset, Session.atReset]
    channels := #v[chan0, chan1, chan2, chan3, chan4, chan5]
    claims := [claimOf 0 0 7 (.ch 3), changing, waiting, expiring]
    claimLists := (Vector.replicate 16 []).set 0 [0, 1] |>.set 1 [0]
    waitLists := (Vector.replicate 6 []).set 0 [(1, 0), (0, 15)]
    watches := [{ client := 0, pin := 15, edges := .both }]
    policies := (Vector.replicate 16 Policy.atReset).set 14 { Policy.atReset with filterLen := 15 }
    pads := (Vector.replicate 16 Pad.atReset).set 0 { Pad.atReset with driven := .low, pull := .none }
      |>.set 14 { Pad.atReset with
        raw := .high, run := 14, board := { drives := true, level := .high }, tickDue := true }
    queues := (Vector.replicate 4 Queue.empty).set 1
      { Queue.empty with entries := [{ notice := .leaseWarning, repeats := 1 }] }
    ports := (Vector.replicate 4 Port.atReset).set 1 { Port.atReset with attention := true } }

/-- Reset, with P15 just driven high by the board: its filter of length 0 has yet to follow. -/
def lagging : State :=
  State.reset.setPad 15 { Pad.atReset with raw := .high, board := { drives := true, level := .high } }

/-- A alone in session, and a filter run completed at P14. -/
def runDone : State := (one.setPolicy 14 (busy.policy 14)).setPad 14 (busy.pad 14)

/-- D's six channels STOPPED, each but C0 chained from the one below it. -/
def chained : State :=
  { two with
    channels := Vector.ofFn fun k : Chan =>
      { Channel.cleared with
        state := .stopped, owner := some 3
        settings := settingsOf .wrap 65535 65535 8 (if k = 0 then .base else .chain (k - 1)) true } }

/-- D's claim on P0, from C3. -/
def fromC3 : Claim := claimOf 3 0 1 (.ch 3)

/-- D's four channels: C0 and C1 on BASE, an input of the last base tick still due at C1; C2 clocked by a rise of
P15, C3 ARMED on it. D claims P0 from C3 and watches P15. -/
def ticked : State :=
  { two with
    sessions := two.sessions.set 3
      { openSession 255 with claimsHeld := 1, watchesHeld := 1, channelsOwned := 4 }
    channels := #v[
      { Channel.cleared with
        state := .running, owner := some 3, settings := settingsOf .wrap 9 0 0 .base false, startValue := 9
        count := 4 },
      { Channel.cleared with
        state := .running, owner := some 3, settings := settingsOf .wrap 9 0 0 .base false, startValue := 9
        count := 5, inputsDue := 1 },
      { Channel.cleared with
        state := .running, owner := some 3, settings := settingsOf .wrap 9 0 0 (.pin 15 .rise) false
        startValue := 9, count := 6 },
      { Channel.cleared with
        state := .armed, owner := some 3, settings := settingsOf .wrap 9 1 0 .base false
        trigger := some (15, .rise), refs := 1 },
      Channel.cleared, Channel.cleared]
    claims := [fromC3]
    claimLists := (Vector.replicate 16 []).set 0 [3]
    watches := [{ client := 3, pin := 15, edges := .rise }]
    pads := (Vector.replicate 16 Pad.atReset).set 0 { Pad.atReset with driven := .low, pull := .none } }

/-- The same, with P15 just driven high by the board. -/
def edgy : State :=
  ticked.setPad 15 { Pad.atReset with raw := .high, board := { drives := true, level := .high } }

/-- A port with FRAME_ERROR in its slot. -/
def badReply : Reply := { status := .frameError, tag := 9, session := .closed, depth := 0, payload := [] }

def answered : State :=
  State.reset.setPort 3 { Port.atReset with state := .answered, reply := some badReply, attention := true }

/-- In the power-on reset, with NRST high and with NRST low. -/
def inPor : State := { State.reset with por := true }
def inBoth : State := { State.reset with por := true, nrstLow := true }
def inNrst : State := { State.reset with nrstLow := true }

/-! ## They are lawful -/

/-- No walk leads from a channel that is not on CHAIN to another one (R59). -/
theorem no_walk {s : State} {j k : Chan} (h : ∀ i : Chan, (s.channel j).settings.clock ≠ .chain i) (hk : j ≠ k)
    (path : List Chan) : ¬ s.ChainWalk j k path := by
  rintro ⟨h1, h2, -, h4⟩
  rcases path with _ | ⟨a, _ | ⟨b, l⟩⟩
  · cases h1
  · cases h1; cases h2; exact hk rfl
  · cases h1; exact h b (List.isChain_cons_cons.mp h4).1

/-- A request held at a port breaks no law. -/
theorem lawful_ask {s : State} (h : s.Lawful) (c : Client) (f : Frame) : (ask s c f).Lawful where
  queues := h.queues
  attention d := by
    unfold ask
    rw [State.port_setPort, State.queue_setPort]
    split
    · next e => subst e; simp
    · exact h.attention d
  ports d := by
    unfold ask
    rw [State.port_setPort]
    split
    · simp [Port.Ok]
    · exact h.ports d
  sessions := h.sessions
  pool := h.pool
  claims := h.claims
  lists := h.lists
  waits := h.waits
  counts := h.counts
  channels := h.channels
  chains := h.chains
  pads := h.pads
  filters := h.filters
  edge := h.edge
  watches := h.watches
  closed := h.closed

theorem lawful_one : one.Lawful := by constructor <;> decide +kernel
theorem lawful_two : two.Lawful := by constructor <;> decide +kernel
theorem lawful_busy : busy.Lawful := by constructor <;> decide +kernel
theorem lawful_lagging : lagging.Lawful := by constructor <;> decide +kernel
theorem lawful_ticked : ticked.Lawful := by constructor <;> decide +kernel
theorem lawful_edgy : edgy.Lawful := by constructor <;> decide +kernel

/-! ## Ill-formed terms -/

/-- A WRITE kind byte makes no ignored transaction (R180). -/
theorem test_write_kind_is_not_ignored : WellFormed (.ignoredTransaction 0 0xA5 .select) = false := by decide
/-- Nor does a READ kind byte (R180). -/
theorem test_read_kind_is_not_ignored : WellFormed (.ignoredTransaction 3 0x5A (.whole [])) = false := by decide
theorem test_unknown_kind_is_ignored : WellFormed (.ignoredTransaction 0 0xFF .kind) = true := by decide
/-- No row of the table gives bits, so no word spells a command. -/
theorem test_no_word_spells_a_command : decodeTableWord 8 1 = none := by decide

/-! ## Bytes, worked out from "Frame and Record Formats, Pins" -/

/-- R180's own example: the CRC of a PING with tag 0. -/
theorem test_crc_of_ping : crc8 [0x03, 0x00, 0x00] = 0x96 := by decide +kernel
theorem test_source_gate : sourceOf? 0x06 0x50 = some (.gate 5 0) := by decide
theorem test_source_channel_low_bits : sourceOf? 0x04 0x51 = none := by decide
theorem test_source_same_gate : sourceOf? 0x06 0x33 = none := by decide
theorem test_clock_pin_fall : clockOf? 0x5F = some (.pin 15 .fall) := by decide
/-- The model's choice (log entry 18): a bit the layout does not name is refused. -/
theorem test_clock_pin_bit5 : clockOf? 0x6F = none := by decide
theorem test_clock_chain : clockOf? 0x85 = some (.chain 5) := by decide
theorem test_clock_chain_high : clockOf? 0x86 = none := by decide
/-- The port flags: overrun in bit 7, GRACE in bits 6 and 5, depth 12. -/
theorem test_port_flags : portFlags true .grace 12 = 0xCC := by decide
/-- TOP_CHANGE: now top, client D, rank 7; bits 6 and 3 are the model's choice (log entry 19). -/
theorem test_top_change_bytes : noticeBytes (.topChange 15 true 3 7) = [0x02, 0x0F, 0xB7] := by decide
/-- A CLAIM that marks its hold limit and its wait channel (R181). -/
theorem test_claim_payload : decodeClaim [0x0F, 0x07, 0x05, 0x50, 0x03, 0x01, 0x00, 0x05] =
    some { pin := 15, rank := 7, source := .chn 5, hold := some 256, wait := some 5 } := by decide
/-- A hold limit of 0 is outside its encoding (R181). -/
theorem test_claim_hold_zero : decodeClaim [0x0F, 0x07, 0x05, 0x50, 0x01, 0x00, 0x00] = none := by decide
/-- A presence byte with a bit above CLAIM's last optional field is refused by its length (R181). -/
theorem test_claim_presence_high : lengthOk .claim [0, 1, 1, 0, 4] = false := by decide

/-! ## One step of each command -/

/-- The state a command leads to. -/
def after (i : Instr) (s : State) : State :=
  match exec i s with
  | .next t => t
  | .fault _ => s
  | .refused _ => s

/-- The status and the payload in a port's slot. -/
def replyOf (s : State) (c : Client) : Option (Status × List Byte) :=
  (s.port c).reply.map fun r => (r.status, r.payload)

/-- The notices a queue holds, from head to tail. -/
def notices (s : State) (c : Client) : List Notice := (s.queue c).entries.map (·.notice)

/-- R123: client, part code 0x1040, revision 1, POWER_ON, DEVICE_RESET, the lease. -/
theorem test_open : replyOf (after (.openSession 3) (ask one 3 (frameOf .openSession 9 [255]))) 3 =
    some (.ok, [3, 0x10, 0x40, 1, 1, 1, 255]) := by decide +kernel
/-- R120: 255 lease units of 10 ms. -/
theorem test_open_lease : ((after (.openSession 3) (ask one 3 (frameOf .openSession 9 [255]))).session 3).leaseRemaining =
    some 2550 := by decide +kernel
/-- R130: claims, watches and channels before the teardown. -/
theorem test_close : replyOf (after (.closeSession 0) (ask busy 0 (frameOf .closeSession 9 []))) 0 =
    some (.ok, [3, 1, 5]) := by decide +kernel
/-- R131: the claims go, and an orphan without references is FREE. -/
theorem test_close_frees : (let t := after (.closeSession 0) (ask busy 0 (frameOf .closeSession 9 []))
    (t.claims.map (·.client), (t.channel 3).state, (t.channel 5).state) = ([1], .free, .free)) := by decide +kernel
/-- R129: not open, no lease period, counts and depth 0, prior end DEVICE_RESET. -/
theorem test_ping : replyOf (after (.ping 3) (ask one 3 (frameOf .ping 9 []))) 3 =
    some (.ok, [0, 0, 0, 0, 0, 0, 1]) := by decide +kernel
/-- R136: the cause is RESET_COMMAND and the reply reports CLOSED. -/
theorem test_reset_all : (let t := after (.resetAll 0) (ask one 0 (frameOf .resetAll 9 []))
    (t.resetCause, (t.port 0).reply.map (·.session)) = (.resetCommand, some .closed)) := by decide +kernel
theorem test_reset_all_not_quiescent : replyOf (after (.resetAll 0) (ask two 0 (frameOf .resetAll 9 []))) 0 =
    some (.notQuiescent, []) := by decide +kernel
/-- R34: role IO, PULL_DOWN, PUSH_PULL, filter length 15, ceilings 7. -/
theorem test_get_policy : replyOf (after (.getPolicy 0) (ask busy 0 (frameOf .getPolicy 9 [14]))) 0 =
    some (.ok, [14, 0, 2, 0, 15, 7, 7, 7, 7]) := by decide +kernel
/-- R36, R40: an INPUT_ONLY pad takes its default pull, and its raw level follows. -/
theorem test_set_policy : (let t := after (.setPolicy 0) (ask one 0 (frameOf .setPolicy 9 [15, 1, 1, 0, 15, 7, 7, 7, 7]))
    ((t.pad 15).pull, (t.pad 15).raw, (t.pad 15).filtered) = (.up, .high, .low)) := by decide +kernel
/-- R35 check 1: INPUT_ONLY with a driving default. -/
theorem test_set_policy_driving_input : replyOf (after (.setPolicy 0)
    (ask one 0 (frameOf .setPolicy 9 [15, 1, 3, 0, 0, 7, 7, 7, 7]))) 0 = some (.badArg, []) := by decide +kernel
/-- R14, R8: LIVE and top, and the pad is driven high. -/
theorem test_claim : (let t := after (.claim 3) (ask two 3 (frameOf .claim 9 [15, 7, 1, 0, 0]))
    (replyOf t 3, (t.pad 15).driven) = (some (.ok, [2, 1]), .high)) := by decide +kernel
/-- R4: behind a claim of equal rank. -/
theorem test_claim_equal_rank : (let t := after (.claim 1) (ask busy 1 (frameOf .claim 9 [1, 7, 2, 0, 0]))
    (replyOf t 1, t.claimList 1) = (some (.ok, [2, 0]), [0, 1])) := by decide +kernel
/-- R17: A's rank falls to 1, behind B's, and B's client is told that it is now top (R10). -/
theorem test_modify : (let t := after (.modify 0) (ask busy 0 (frameOf .modify 9 [0, 1, 1]))
    (replyOf t 0, t.claimList 0, notices t 1) =
      (some (.ok, [0, 1, 0]), [1, 0], [.leaseWarning, .topChange 0 true 1 1])) := by decide +kernel
/-- R18: B's change waits on C3, and its claim moves from C0's waiting list to C3's. -/
theorem test_modify_waits : (let t := after (.modify 1) (ask busy 1 (frameOf .modify 9 [0, 9, 2, 3]))
    (replyOf t 1, t.waitList 0, t.waitList 3) = (some (.ok, [1, 1, 0]), [(0, 15)], [(1, 0)])) := by decide +kernel
/-- R20, R96: the claim was LIVE and top, and the orphan it alone named goes FREE. -/
theorem test_release : (let t := after (.release 0) (ask busy 0 (frameOf .release 9 [0]))
    (replyOf t 0, t.claimList 0, (t.channel 3).state) = (some (.ok, [2, 1]), [1], .free)) := by decide +kernel
/-- R29 at P15: released, pull-down, top default; own claim PENDING, rank 1, LOW, waiting on C0. -/
theorem test_query_pin : replyOf (after (.queryPin 0) (ask busy 0 (frameOf .queryPin 9 [15]))) 0 =
    some (.ok, [2, 2, 0xFF, 44, 0, 1, 1, 1, 2, 0, 0, 0, 0]) := by decide +kernel
/-- R93: "any" takes the lowest FREE channel. -/
theorem test_bind_any : replyOf (after (.bind 3) (ask two 3 (frameOf .bind 9 [0xFF]))) 3 = some (.ok, [0]) := by
  decide +kernel
/-- R61, R95: C5 chained from C4 is one reference more. -/
theorem test_configure : (let t := after (.configure 0) (ask busy 0 (frameOf .configure 9 [5, 2, 0, 1, 0, 2, 8, 0x84, 1]))
    ((t.channel 5).settings, (t.channel 4).refs) = (settingsOf .wrap 1 2 8 (.chain 4) true, 1)) := by decide +kernel
/-- R59, R60: C4 cannot chain from itself. -/
theorem test_configure_loop : replyOf (after (.configure 0)
    (ask busy 0 (frameOf .configure 9 [4, 0, 0, 1, 0, 2, 0, 0x84, 0]))) 0 = some (.loop, []) := by decide +kernel
/-- R74: the reload joins the mode staged before; both stand in the reply. -/
theorem test_stage : replyOf (after (.stage 0) (ask busy 0 (frameOf .stage 9 [1, 1, 0, 7]))) 0 =
    some (.ok, [9, 0, 7, 2]) := by decide +kernel
/-- R77: RUNNING without a pending commit. -/
theorem test_commit : replyOf (after (.commit 0) (ask busy 0 (frameOf .commit 9 [1]))) 0 =
    some (.accepted, [3, 0, 1]) := by decide +kernel
/-- R79. -/
theorem test_cancel : ((after (.cancel 0) (ask busy 0 (frameOf .cancel 9 [0]))).channel 0).commit = none := by
  decide +kernel
theorem test_cancel_none : replyOf (after (.cancel 0) (ask busy 0 (frameOf .cancel 9 [1]))) 0 =
    some (.nonePending, []) := by decide +kernel
/-- R62. -/
theorem test_start : (let t := after (.start 0) (ask busy 0 (frameOf .start 9 [2]))
    (replyOf t 0, (t.channel 2).count, (t.channel 2).output, (t.channel 2).trigger) =
      (some (.ok, [3]), 9, true, none)) := by decide +kernel
/-- R63. -/
theorem test_arm : (let t := after (.arm 0) (ask busy 0 (frameOf .arm 9 [5, 15, 2]))
    (replyOf t 0, (t.channel 5).trigger) = (some (.ok, [2]), some (15, .fall))) := by decide +kernel
/-- R65, R22, R23: the commit is dropped, and both waiting claims are activated. -/
theorem test_stop : (let t := after (.stop 0) (ask busy 0 (frameOf .stop 9 [0]))
    (replyOf t 0, notices t 0, t.claimList 0, t.claimList 15) =
      (some (.ok, [1]), [.commitEnd 0 false, .topChange 15 true 0 1], [0, 1], [0])) := by decide +kernel
/-- R67: the second entry, C0, is RUNNING. -/
theorem test_start_group_refused : replyOf (after (.startGroup 0) (ask busy 0 (frameOf .startGroup 9 [5, 0]))) 0 =
    some (.state, [2, 0]) := by decide +kernel
theorem test_start_group : (let t := after (.startGroup 0) (ask busy 0 (frameOf .startGroup 9 [5, 2]))
    (replyOf t 0, (t.channel 2).state, (t.channel 5).state) = (some (.ok, []), .running, .running)) := by
  decide +kernel
/-- R98: C0 has three references and is orphaned, RUNNING. -/
theorem test_release_channel : replyOf (after (.releaseChannel 0) (ask busy 0 (frameOf .releaseChannel 9 [0]))) 0 =
    some (.ok, [1, 3, 3]) := by decide +kernel
/-- R97, R98: C2 has none and is FREED, and C0 loses the reference of C2's CHAIN source. -/
theorem test_release_channel_freed : (let t := after (.releaseChannel 0) (ask busy 0 (frameOf .releaseChannel 9 [2]))
    (replyOf t 0, (t.channel 0).refs) = (some (.ok, [0, 0, 0]), 2)) := by decide +kernel
/-- R101, R102: A's claim names C3. -/
theorem test_adopt : (let t := after (.adopt 1) (ask busy 1 (frameOf .adopt 9 [3]))
    (replyOf t 1, notices t 0) = (some (.ok, [3, 1]), [.sourceChange 3 .running true])) := by decide +kernel
/-- R69 at C2. -/
theorem test_read_channel : replyOf (after (.readChannel 0) (ask busy 0 (frameOf .readChannel 9 [2]))) 0 =
    some (.ok, [2, 0, 1, 0, 9, 0, 4, 0, 0x80, 0, 0, 0, 0, 0, 1, 15, 1, 0, 0, 0]) := by decide +kernel
/-- R110: CREATED, with the filtered level. -/
theorem test_watch : replyOf (after (.watch 1) (ask busy 1 (frameOf .watch 9 [15, 3]))) 1 =
    some (.ok, [15, 0, 3, 0]) := by decide +kernel
/-- R111: REPLACED, with the selection that was. -/
theorem test_watch_replaced : replyOf (after (.watch 0) (ask busy 0 (frameOf .watch 9 [15, 2]))) 0 =
    some (.ok, [15, 1, 2, 3, 0]) := by decide +kernel
/-- R112. -/
theorem test_unwatch : replyOf (after (.unwatch 0) (ask busy 0 (frameOf .unwatch 9 [15]))) 0 =
    some (.ok, [15, 3]) := by decide +kernel
/-- R43, R116: P15's filtered level has followed, in bit 15. -/
theorem test_read_pins : replyOf (after (.readPins 0)
    (ask (lagging.setSession 0 (openSession 1)) 0 (frameOf .readPins 9 []))) 0 = some (.ok, [0x80, 0]) := by
  decide +kernel
/-- R146: one LEASE_WARNING, not repeated. -/
theorem test_fetch : (let t := after (.fetch 1) (ask busy 1 (frameOf .fetch 9 [6]))
    (replyOf t 1, notices t 1) = (some (.ok, [1, 7, 0xFF, 0, 1]), [])) := by decide +kernel
theorem test_fetch_seven : replyOf (after (.fetch 1) (ask busy 1 (frameOf .fetch 9 [7]))) 1 = some (.badArg, []) := by
  decide +kernel
/-- R167. -/
theorem test_unknown : replyOf (after (.unknownCommand 3) (ask one 3 { command := 0x51, tag := 9, payload := [] })) 3 =
    some (.unknown, []) := by decide +kernel
/-- R159, R180: the PING of R180's example. -/
theorem test_write : ((after (.write 3 (.whole [0x03, 0x00, 0x00, 0x96])) one).port 3).held =
    some { command := 3, tag := 0, payload := [] } := by decide +kernel
/-- R159: the same with one CRC bit wrong, and its tag 5. -/
theorem test_write_bad_crc : (let t := after (.write 3 (.whole [0x03, 0x05, 0x00, 0x96])) one
    (replyOf t 3, (t.port 3).reply.map (·.tag)) = (some (.frameError, []), some 5)) := by decide +kernel
/-- R161, R180: filler, status, tag, flags, length, CRC, filler; the slot is empty afterwards. -/
theorem test_read : (let t := after (.read 3 (.whole [0, 0, 0, 0, 0, 0])) answered
    ((t.port 3).out, (t.port 3).state) = ([0xFF, 0x11, 0x09, 0x00, 0x00, 0x9A, 0xFF], .ready)) := by decide +kernel
/-- R161: four of its five bytes leave the reply in the slot. -/
theorem test_read_incomplete : ((after (.read 3 (.whole [0, 0, 0, 0])) answered).port 3).state = .answered := by
  decide +kernel
/-- R156. -/
theorem test_ignored : (let t := after (.ignoredTransaction 3 0x00 (.whole [0x03])) one
    ((t.port 3).out, (t.port 3).state) = ([0xFF, 0xFF], .ready)) := by decide +kernel
/-- R51: the phase rises below a prescale of 256. -/
theorem test_clock_input : (let t := after (.clockInput 3) busy
    ((t.channel 3).phase, (t.channel 3).count) = (1, 65535)) := by decide +kernel
/-- R52, R53: count 3 to 2; position 3 is no longer below the compare 3. -/
theorem test_channel_tick : (let t := after (.channelTick 1) busy
    ((t.channel 1).phase, (t.channel 1).count, (t.channel 1).output) = (0, 2, false)) := by decide +kernel
/-- R80 to R83: commit, activation, DONE and TERMINAL, in this order. -/
theorem test_period_boundary : (let t := after (.periodBoundary 0) busy
    ((t.channel 0).state, (t.channel 0).settings.reload, notices t 0) =
      (.done, 3, [.commitEnd 0 true, .topChange 15 true 0 1, .terminal 0])) := by decide +kernel
/-- R80, R82: C1 in WRAP by its commit would begin at 65535; here its mode is RELOAD. -/
theorem test_period_boundary_reload : (let t := after (.periodBoundary 1) (busy.setChannel 1 { chan1 with count := 0 })
    ((t.channel 1).state, (t.channel 1).count, (t.channel 1).output) = (.running, 5, true)) := by decide +kernel
/-- R64. -/
theorem test_trigger_edge : (let t := after (.triggerEdge 2) busy
    ((t.channel 2).state, (t.channel 2).count) = (.running, 9)) := by decide +kernel
/-- R44, R115, R153: one edge gives D its EDGE and its channel's SOURCE_CHANGE, the EDGE first here. -/
theorem test_edge_before_source_change :
    notices (after (.triggerEdge 3) (after (.filteredEdge 15) edgy)) 3 =
      [.edge 15 .high, .sourceChange 3 .running true] := by decide +kernel
/-- R44, R115, R153: the other order. -/
theorem test_source_change_before_edge :
    notices (after (.filteredEdge 15) (after (.triggerEdge 3) edgy)) 3 =
      [.sourceChange 3 .running true, .edge 15 .high] := by decide +kernel
/-- R56: C1 has taken the input of the last base tick when the next one comes. -/
theorem test_base_tick_after_the_last : (let t := after (.clockInput 0) ticked
    ((t.channel 0).count, (t.channel 1).count, (t.channel 1).inputsDue) = (3, 4, 1)) := by decide +kernel
/-- R36, R42: the edge of the last tick is taken before the entry is replaced. -/
theorem test_set_policy_takes_the_edge :
    (let t := after (.setPolicy 0) (ask runDone 0 (frameOf .setPolicy 9 [14, 0, 0, 0, 3, 7, 7, 7, 7]))
    ((t.pad 14).filtered, (t.pad 14).run, (t.pad 14).tickDue) = (.high, 0, false)) := by decide +kernel
/-- R41, R43: the raw level follows at once, the filtered level by its own event. -/
theorem test_pin_level_change : (let t := after (.pinLevelChange 15 { drives := true, level := .high }) two
    ((t.pad 15).raw, (t.pad 15).filtered) = (.high, .low)) := by decide +kernel
/-- R41: a driven pad's raw level is its own. -/
theorem test_pin_level_change_driven : ((after (.pinLevelChange 0 { drives := true, level := .high }) busy).pad 0).raw =
    .low := by decide +kernel
/-- R42: the run of 15 ms is complete. -/
theorem test_filtered_edge : (let t := after (.filteredEdge 14) busy
    ((t.pad 14).filtered, (t.pad 14).run) = (.high, 0)) := by decide +kernel
/-- R43, R113: a pad of length 0, watched. -/
theorem test_filtered_edge_watched : notices (after (.filteredEdge 15) (lagging.addWatch
    { client := 2, pin := 15, edges := .rise })) 2 = [.edge 15 .high] := by decide +kernel
/-- R27. -/
theorem test_hold_expiry : (let t := after (.holdExpiry 0 1) busy
    (t.claimList 1, notices t 0) = ([], [.claimExpired 1])) := by decide +kernel
/-- R125. -/
theorem test_lease_expiry : (let t := after (.leaseExpiry 0) busy
    ((t.session 0).state, (t.session 0).graceRemaining, notices t 0) = (.grace, some 10, [.leaseWarning])) := by
  decide +kernel
/-- R127, R131. -/
theorem test_grace_expiry : (let t := after (.graceExpiry 1) busy
    ((t.session 1).state, (t.session 1).priorEnd, t.claimList 0, notices t 1) = (.closed, .lapsed, [0], [])) := by
  decide +kernel
/-- R134, R135. -/
theorem test_power_on : (let t := after .powerOn busy
    (t.resetCause, t.claims, (t.pad 0).driven, (t.channel 3).state) = (.powerOn, [], .released, .free)) := by
  decide +kernel
theorem test_nrst : (after .nrst busy).resetCause = .resetPin := by decide +kernel
/-- R134: NRST low before the power-on reset has ended. -/
theorem test_nrst_in_power_on_reset : (after .nrst inPor).resetCause = .powerOn := by decide +kernel
/-- R45: the first sample, without an edge. -/
theorem test_reset_end : (let t := after .resetEnd (inNrst.setPad 15 { (inNrst.pad 15) with raw := .high })
    ((t.pad 15).filtered, t.nrstLow) = (.high, false)) := by decide +kernel
theorem test_power_on_reset_end : (after .powerOnResetEnd inPor).inReset = false := by decide +kernel
/-- R125: every lease remaining is lowered by one. -/
theorem test_millisecond_tick : (let t := after .millisecondTick two
    ((t.session 0).leaseRemaining, (t.session 3).leaseRemaining) = (some 9, some 2549)) := by decide +kernel


/-! ## Witnesses: for each clause of each statement, a state and operands that meet its hypotheses -/

theorem witness_EveryTakenRequestIsAnswered :
    ∃ (s : State) (c : Client) (cmd : Command) (tag : Byte) (pl : List Byte),
      s.Asks c (frameOf cmd tag pl) := by
  refine ⟨ask one 0 (frameOf .ping 255 []), 0, .ping, 255, [],
    ?_⟩
  decide +kernel

theorem witness_CommonChecksRefuse_1 :
    ∃ (s : State) (c : Client) (tag : Byte) (b : Byte) (pl : List Byte),
      ((∀ cmd ∈ allCommands, commandCode cmd ≠ b)) ∧
      s.Asks c { command := b, tag := tag, payload := pl } := by
  refine ⟨ask one 0 ({ command := 0x51, tag := 255, payload := [] }), 0, 255, 0x51, [],
    ?_, ?_⟩ <;> decide +kernel

theorem witness_CommonChecksRefuse_2 :
    ∃ (s : State) (c : Client) (cmd : Command) (tag : Byte) (pl : List Byte),
      s.Asks c (frameOf cmd tag pl) ∧
      cmd ≠ .openSession ∧
      cmd ≠ .ping ∧
      (s.session c).state = .closed := by
  refine ⟨ask one 1 (frameOf .fetch 255 [1]), 1, .fetch, 255, [1],
    ?_, ?_, ?_, ?_⟩ <;> decide +kernel

theorem witness_CommonChecksRefuse_3 :
    ∃ (s : State) (c : Client) (cmd : Command) (tag : Byte) (pl : List Byte),
      s.Asks c (frameOf cmd tag pl) ∧
      (cmd = .openSession ∨ cmd = .ping ∨ s.InSession c) ∧
      ¬ lengthPermitted cmd pl := by
  refine ⟨ask one 3 (frameOf .openSession 255 []), 3, .openSession, 255, [],
    ?_, ?_, ?_⟩ <;> decide +kernel

theorem witness_EveryTakenRequestRenewsTheLease :
    ∃ (s : State) (c : Client) (cmd : Command) (tag : Byte) (pl : List Byte),
      s.Asks c (frameOf cmd tag pl) ∧
      s.InSession c := by
  refine ⟨ask busy 1 (frameOf .ping 255 []), 1, .ping, 255, [],
    ?_, ?_⟩ <;> decide +kernel

theorem witness_RefusalsChangeNothing :
    ∃ (s : State) (c : Client) (cmd : Command) (tag : Byte) (pl : List Byte),
      s.Asks c (frameOf cmd tag pl) := by
  refine ⟨ask one 3 (frameOf .openSession 255 [0]), 3, .openSession, 255, [0],
    ?_⟩
  decide +kernel

theorem witness_OwnerOnlyRequestsNeedTheOwner_1 :
    ∃ (s : State) (c : Client) (tag : Byte) (cmd : Command) (k : Chan),
      cmd ∈ [Command.commit, .cancel, .start, .stop, .releaseChannel] ∧
      s.Asks c (frameOf cmd tag [byteOf k.val]) ∧
      s.InSession c ∧
      (s.channel k).owner ≠ some c := by
  refine ⟨ask two 3 (frameOf .start 255 [byteOf 5]), 3, 255, .start, 5,
    ?_, ?_, ?_, ?_⟩ <;> decide +kernel

theorem witness_OwnerOnlyRequestsNeedTheOwner_2 :
    ∃ (s : State) (c : Client) (tag : Byte) (k : Chan) (pl : List Byte),
      s.Asks c (frameOf .stage tag (byteOf k.val :: pl)) ∧
      lengthOk .stage (byteOf k.val :: pl) = true ∧
      s.InSession c ∧
      (s.channel k).owner ≠ some c := by
  refine ⟨ask two 3 (frameOf .stage 255 [byteOf 5, 0]), 3, 255, 5, [0],
    ?_, ?_, ?_, ?_⟩ <;> decide +kernel

theorem witness_OwnerOnlyRequestsNeedTheOwner_3 :
    ∃ (s : State) (c : Client) (tag : Byte) (k : Chan) (r : Settings),
      s.Asks c (frameOf .configure tag (byteOf k.val :: settingsBytes r)) ∧
      s.InSession c ∧
      (s.channel k).owner ≠ some c := by
  refine ⟨ask two 3 (frameOf .configure 255 (byteOf 5 :: settingsBytes (settingsOf .wrap 65535 65535 8 (.chain 4) true))), 3, 255, 5, (settingsOf .wrap 65535 65535 8 (.chain 4) true),
    ?_, ?_, ?_⟩ <;> decide +kernel

theorem witness_OwnerOnlyRequestsNeedTheOwner_4 :
    ∃ (s : State) (c : Client) (tag : Byte) (k : Chan) (p : Pin) (e : Edge),
      s.Asks c (frameOf .arm tag [byteOf k.val, byteOf p.val, edgeByte e]) ∧
      s.InSession c ∧
      (s.channel k).owner ≠ some c := by
  refine ⟨ask two 3 (frameOf .arm 255 [byteOf 5, byteOf 15, 2]), 3, 255, 5, 15, .fall,
    ?_, ?_, ?_⟩ <;> decide +kernel

theorem witness_OwnerOnlyRequestsNeedTheOwner_5 :
    ∃ (s : State) (c : Client) (tag : Byte) (cmd : Command) (b : Byte),
      cmd ∈ [Command.commit, .cancel, .start, .stop, .releaseChannel] ∧
      s.Asks c (frameOf cmd tag [b]) ∧
      s.InSession c ∧
      6 ≤ b.toNat := by
  refine ⟨ask two 3 (frameOf .stop 255 [6]), 3, 255, .stop, 6,
    ?_, ?_, ?_, ?_⟩ <;> decide +kernel

theorem witness_OwnerOnlyRequestsNeedTheOwner_6 :
    ∃ (s : State) (c : Client) (tag : Byte) (b : Byte) (pl : List Byte),
      s.Asks c (frameOf .stage tag (b :: pl)) ∧
      lengthOk .stage (b :: pl) = true ∧
      s.InSession c ∧
      6 ≤ b.toNat := by
  refine ⟨ask two 3 (frameOf .stage 255 (6 :: [0])), 3, 255, 6, [0],
    ?_, ?_, ?_, ?_⟩ <;> decide +kernel

theorem witness_OpenOpensASession_1 :
    ∃ (s : State) (c : Client) (tag : Byte) (l : Byte),
      s.Asks c (frameOf .openSession tag [l]) ∧
      l ≠ 0 ∧
      (s.session c).state = .closed := by
  refine ⟨ask one 3 (frameOf .openSession 255 [255]), 3, 255, 255,
    ?_, ?_, ?_⟩ <;> decide +kernel

theorem witness_OpenOpensASession_2 :
    ∃ (s : State) (c : Client) (tag : Byte) (l : Byte),
      s.Asks c (frameOf .openSession tag [l]) ∧
      (l = 0 ∨ s.InSession c) := by
  refine ⟨ask one 0 (frameOf .openSession 255 [1]), 0, 255, 1,
    ?_, ?_⟩ <;> decide +kernel

theorem witness_TeardownWithdrawsEverything_1 :
    ∃ (s : State) (c : Client) (tag : Byte),
      s.Lawful ∧
      s.Asks c (frameOf .closeSession tag []) ∧
      s.InSession c := by
  refine ⟨ask busy 0 (frameOf .closeSession 255 []), 0, 255,
    lawful_ask lawful_busy _ _, ?_, ?_⟩ <;> decide +kernel

theorem witness_TeardownWithdrawsEverything_2 :
    ∃ (s : State) (c : Client),
      s.Lawful ∧
      s.Calm ∧
      (s.session c).state = .grace ∧
      (s.session c).tickDue = true := by
  refine ⟨busy, 1,
    lawful_busy, ?_, ?_, ?_⟩ <;> decide +kernel

theorem witness_ResetAllResetsTheDevice_1 :
    ∃ (s : State) (c : Client) (tag : Byte),
      s.Asks c (frameOf .resetAll tag []) ∧
      s.InSession c ∧
      ((∀ d : Client, d ≠ c → (s.session d).state = .closed)) := by
  refine ⟨ask one 0 (frameOf .resetAll 255 []), 0, 255,
    ?_, ?_, ?_⟩ <;> decide +kernel

theorem witness_ResetAllResetsTheDevice_2 :
    ∃ (s : State) (c : Client) (tag : Byte) (d : Client),
      s.Asks c (frameOf .resetAll tag []) ∧
      s.InSession c ∧
      d ≠ c ∧
      s.InSession d := by
  refine ⟨ask two 3 (frameOf .resetAll 255 []), 3, 255, 0,
    ?_, ?_, ?_, ?_⟩ <;> decide +kernel

theorem witness_ReadingRequestsReport_1 :
    ∃ (s : State) (c : Client) (tag : Byte),
      s.Asks c (frameOf .ping tag []) := by
  refine ⟨ask busy 3 (frameOf .ping 255 []), 3, 255,
    ?_⟩
  decide +kernel

theorem witness_ReadingRequestsReport_2 :
    ∃ (s : State) (c : Client) (tag : Byte) (p : Pin),
      s.Asks c (frameOf .getPolicy tag [byteOf p.val]) ∧
      s.InSession c := by
  refine ⟨ask busy 0 (frameOf .getPolicy 255 [byteOf 15]), 0, 255, 15,
    ?_, ?_⟩ <;> decide +kernel

theorem witness_ReadingRequestsReport_3 :
    ∃ (s : State) (c : Client) (tag : Byte) (k : Chan),
      s.Asks c (frameOf .readChannel tag [byteOf k.val]) ∧
      s.InSession c := by
  refine ⟨ask busy 0 (frameOf .readChannel 255 [byteOf 5]), 0, 255, 5,
    ?_, ?_⟩ <;> decide +kernel

theorem witness_ReadingRequestsReport_4 :
    ∃ (s : State) (c : Client) (tag : Byte) (p : Pin),
      s.Asks c (frameOf .queryPin tag [byteOf p.val]) ∧
      s.InSession c := by
  refine ⟨ask busy 0 (frameOf .queryPin 255 [byteOf 15]), 0, 255, 15,
    ?_, ?_⟩ <;> decide +kernel

theorem witness_ReadingRequestsReport_5 :
    ∃ (s : State) (c : Client) (tag : Byte),
      s.Asks c (frameOf .readPins tag []) ∧
      s.InSession c := by
  refine ⟨ask busy 0 (frameOf .readPins 255 []), 0, 255,
    ?_, ?_⟩ <;> decide +kernel

theorem witness_ReadingRequestsReport_6 :
    ∃ (s : State) (c : Client) (tag : Byte) (cmd : Command) (b : Byte),
      cmd ∈ [Command.getPolicy, .queryPin, .readChannel] ∧
      s.Asks c (frameOf cmd tag [b]) ∧
      s.InSession c ∧
      (if cmd = .readChannel then 6 else 16) ≤ b.toNat := by
  refine ⟨ask two 3 (frameOf .queryPin 255 [16]), 3, 255, .queryPin, 16,
    ?_, ?_, ?_, ?_⟩ <;> decide +kernel

theorem witness_SetPolicyReplacesTheEntry_1 :
    ∃ (s : State) (c : Client) (tag : Byte) (p : Pin) (e : Policy),
      s.Lawful ∧
      s.Asks c (frameOf .setPolicy tag (policyBytes p e)) ∧
      s.InSession c ∧
      policyOk e = true ∧
      ((∀ d : Client, d ≠ c → (s.session d).state = .closed)) ∧
      ((∀ q ∈ s.claims, q.pin ≠ p)) ∧
      ((∀ w ∈ s.watches, w.pin ≠ p)) ∧
      ((∀ k : Chan, (s.channel k).settings.clock ≠ .pin p .rise ∧ (s.channel k).settings.clock ≠ .pin p .fall ∧
        ((s.channel k).trigger.map (·.1)) ≠ some p)) := by
  refine ⟨ask one 0 (frameOf .setPolicy 255 (policyBytes 15 { Policy.atReset with role := .inputOnly, dflt := .pullUp, filterLen := 15 })), 0, 255, 15, { Policy.atReset with role := .inputOnly, dflt := .pullUp, filterLen := 15 },
    lawful_ask lawful_one _ _, ?_, ?_, ?_, ?_, ?_, ?_, ?_⟩ <;> decide +kernel

theorem witness_SetPolicyReplacesTheEntry_2 :
    ∃ (s : State) (c : Client) (tag : Byte) (p : Pin) (e : Policy) (d : Client),
      s.Asks c (frameOf .setPolicy tag (policyBytes p e)) ∧
      s.InSession c ∧
      policyOk e = true ∧
      ((d ≠ c ∧ s.InSession d) ∨ (s.claims.any fun q => q.pin = p) ∨ (s.watches.any fun w => w.pin = p) ∨
        ∃ k : Chan, ((s.channel k).state ≠ .free ∧
            ((s.channel k).settings.clock = .pin p .rise ∨ (s.channel k).settings.clock = .pin p .fall)) ∨
          ((s.channel k).state = .armed ∧ ((s.channel k).trigger.map (·.1)) = some p)) := by
  refine ⟨ask two 3 (frameOf .setPolicy 255 (policyBytes 15 { Policy.atReset with role := .inputOnly, dflt := .pullUp, filterLen := 15 })), 3, 255, 15, { Policy.atReset with role := .inputOnly, dflt := .pullUp, filterLen := 15 }, 0,
    ?_, ?_, ?_, ?_⟩ <;> decide +kernel

theorem witness_SetPolicyReplacesTheEntry_3 :
    ∃ (s : State) (c : Client) (tag : Byte) (pl : List Byte),
      s.Asks c (frameOf .setPolicy tag pl) ∧
      s.InSession c ∧
      pl.length = 9 ∧
      (15 < (pl.getD 0 0).toNat ∨ 1 < (pl.getD 1 0).toNat ∨ 4 < (pl.getD 2 0).toNat ∨ 1 < (pl.getD 3 0).toNat ∨
        15 < (pl.getD 4 0).toNat ∨ 7 < (pl.getD 5 0).toNat ∨ 7 < (pl.getD 6 0).toNat ∨
        7 < (pl.getD 7 0).toNat ∨ 7 < (pl.getD 8 0).toNat ∨
        (pl.getD 1 0 = 1 ∧ 3 ≤ (pl.getD 2 0).toNat)) := by
  refine ⟨ask two 3 (frameOf .setPolicy 255 [15, 1, 3, 0, 15, 7, 7, 7, 7]), 3, 255, [15, 1, 3, 0, 15, 7, 7, 7, 7],
    ?_, ?_, ?_, ?_⟩ <;> decide +kernel

theorem witness_ClaimEntersLive :
    ∃ (s : State) (c : Client) (tag : Byte) (p : Pin) (r : Rank) (src : Source) (hold : Option Word) (wait : Option Chan),
      s.Lawful ∧
      s.Asks c (frameOf .claim tag (claimPayload p r src hold wait)) ∧
      s.InSession c ∧
      r ≠ 0 ∧
      src.formed = true ∧
      hold ≠ some 0 ∧
      (s.policy p).role = .io ∧
      r ≤ (s.policy p).ceilings[c.val] ∧
      s.claimAt c p = none ∧
      ((∀ k : Chan, src.names k = true ∨ wait = some k → (s.channel k).state ≠ .free)) ∧
      s.claims.length < 40 ∧
      ((∀ k : Chan, wait = some k → (s.channel k).state ≠ .running)) := by
  refine ⟨ask busy 0 (frameOf .claim 255 (claimPayload 14 7 (.gate 5 0) (some 65535) (some 5))), 0, 255, 14, 7, (.gate 5 0), (some 65535), (some 5),
    lawful_ask lawful_busy _ _, ?_, ?_, ?_, ?_, ?_, ?_, ?_, ?_, ?_, ?_, ?_⟩ <;> decide +kernel

theorem witness_ClaimWaitsOnARunningChannel :
    ∃ (s : State) (c : Client) (tag : Byte) (p : Pin) (r : Rank) (src : Source) (hold : Option Word) (k : Chan),
      s.Lawful ∧
      s.Asks c (frameOf .claim tag (claimPayload p r src hold (some k))) ∧
      s.InSession c ∧
      r ≠ 0 ∧
      src.formed = true ∧
      hold ≠ some 0 ∧
      (s.policy p).role = .io ∧
      r ≤ (s.policy p).ceilings[c.val] ∧
      s.claimAt c p = none ∧
      ((∀ j : Chan, src.names j = true → (s.channel j).state ≠ .free)) ∧
      s.claims.length < 40 ∧
      (s.channel k).state = .running := by
  refine ⟨ask busy 1 (frameOf .claim 255 (claimPayload 15 1 (.chn 5) (some 1) (some 0))), 1, 255, 15, 1, (.chn 5), (some 1), 0,
    lawful_ask lawful_busy _ _, ?_, ?_, ?_, ?_, ?_, ?_, ?_, ?_, ?_, ?_, ?_⟩ <;> decide +kernel

theorem witness_ClaimChecksInOrder_1 :
    ∃ (s : State) (c : Client) (tag : Byte) (p : Pin) (r : Rank) (src : Source) (hold : Option Word) (wait : Option Chan),
      s.Asks c (frameOf .claim tag (claimPayload p r src hold wait)) ∧
      s.InSession c ∧
      r ≠ 0 ∧
      src.formed = true ∧
      hold ≠ some 0 ∧
      ((s.policy p).role ≠ .io ∨ (s.policy p).ceilings[c.val] < r ∨ (s.claimAt c p).isSome ∨
        (∃ k : Chan, (src.names k = true ∨ wait = some k) ∧ (s.channel k).state = .free) ∨
        40 ≤ s.claims.length) := by
  refine ⟨ask two 3 (frameOf .claim 255 (claimPayload 15 7 (.ch 5) none none)), 3, 255, 15, 7, (.ch 5), none, none,
    ?_, ?_, ?_, ?_, ?_, ?_⟩ <;> decide +kernel

theorem witness_ClaimChecksInOrder_2 :
    ∃ (s : State) (c : Client) (tag : Byte) (p : Pin) (r : Rank) (src : Source) (hold : Option Word) (wait : Option Chan),
      s.Asks c (frameOf .claim tag (claimPayload p r src hold wait)) ∧
      s.InSession c ∧
      (r = 0 ∨ src.formed = false ∨ hold = some 0) := by
  refine ⟨ask two 3 (frameOf .claim 255 (claimPayload 15 7 (.gate 5 5) none none)), 3, 255, 15, 7, (.gate 5 5), none, none,
    ?_, ?_, ?_⟩ <;> decide +kernel

theorem witness_ClaimChecksInOrder_3 :
    ∃ (s : State) (c : Client) (tag : Byte) (bp : Byte) (br : Byte) (f : Byte) (g : Byte) (hold : Option Word) (wait : Option Byte),
      s.Asks c (frameOf .claim tag ([bp, br, f, g, presenceByte [hold.isSome, wait.isSome]] ++
        (hold.map wordBytes).getD [] ++ wait.toList)) ∧
      s.InSession c ∧
      ((15 < bp.toNat ∨ br = 0 ∨ 7 < br.toNat ∨ (∀ src : Source, sourceBytes src = [f, g] → src.formed = false) ∨
        hold = some 0 ∨ (wait.any fun b => 5 < b.toNat))) := by
  refine ⟨ask two 3 (frameOf .claim 255 ([16, 0, 0, 1, presenceByte [(some (0 : Word)).isSome, (some (6 : Byte)).isSome]] ++ ((some (0 : Word)).map wordBytes).getD [] ++ (some (6 : Byte)).toList)), 3, 255, 16, 0, 0, 1, (some 0), (some 6),
    ?_, ?_, Or.inl (by decide)⟩ <;> decide +kernel

theorem witness_ModifyIsAppliedAtOnce :
    ∃ (s : State) (c : Client) (tag : Byte) (p : Pin) (r : Option Rank) (src : Option Source) (hold : Option Word) (wait : Option Chan) (q : Claim),
      s.Lawful ∧
      s.Asks c (frameOf .modify tag (modifyPayload p r src hold wait)) ∧
      s.InSession c ∧
      (r.isSome ∨ src.isSome) ∧
      r ≠ some 0 ∧
      (src.all Source.formed) = true ∧
      hold ≠ some 0 ∧
      s.claimAt c p = some q ∧
      q.state = .live ∧
      (r.all fun x => x ≤ (s.policy p).ceilings[c.val]) = true ∧
      ((∀ k : Chan, src.any (·.names k) = true ∨ wait = some k → (s.channel k).state ≠ .free)) ∧
      ((∀ k : Chan, wait = some k → (s.channel k).state ≠ .running)) := by
  refine ⟨ask busy 1 (frameOf .modify 255 (modifyPayload 0 (some 7) (some (.ch 5)) (some 65535) (some 5))), 1, 255, 0, (some 7), (some (.ch 5)), (some 65535), (some 5), changing,
    lawful_ask lawful_busy _ _, ?_, ?_, ?_, ?_, ?_, ?_, ?_, ?_, ?_, ?_, ?_⟩ <;> decide +kernel

theorem witness_ModifyIsStoredForABoundary :
    ∃ (s : State) (c : Client) (tag : Byte) (p : Pin) (r : Option Rank) (src : Option Source) (hold : Option Word) (k : Chan) (q : Claim),
      s.Lawful ∧
      s.Asks c (frameOf .modify tag (modifyPayload p r src hold (some k))) ∧
      s.InSession c ∧
      (r.isSome ∨ src.isSome) ∧
      r ≠ some 0 ∧
      (src.all Source.formed) = true ∧
      hold ≠ some 0 ∧
      s.claimAt c p = some q ∧
      q.state = .live ∧
      (r.all fun x => x ≤ (s.policy p).ceilings[c.val]) = true ∧
      ((∀ j : Chan, src.any (·.names j) = true → (s.channel j).state ≠ .free)) ∧
      (s.channel k).state = .running := by
  refine ⟨ask busy 0 (frameOf .modify 255 (modifyPayload 1 (some 1) none none (some 3))), 0, 255, 1, (some 1), none, none, 3, expiring,
    lawful_ask lawful_busy _ _, ?_, ?_, ?_, ?_, ?_, ?_, ?_, ?_, ?_, ?_, ?_⟩ <;> decide +kernel

theorem witness_ReleaseRemovesTheClaim_1 :
    ∃ (s : State) (c : Client) (tag : Byte) (p : Pin) (q : Claim),
      s.Lawful ∧
      s.Asks c (frameOf .release tag [byteOf p.val]) ∧
      s.InSession c ∧
      s.claimAt c p = some q := by
  refine ⟨ask busy 0 (frameOf .release 255 [byteOf 15]), 0, 255, 15, waiting,
    lawful_ask lawful_busy _ _, ?_, ?_, ?_⟩ <;> decide +kernel

theorem witness_ReleaseRemovesTheClaim_2 :
    ∃ (s : State) (c : Client) (tag : Byte) (b : Byte),
      s.Asks c (frameOf .release tag [b]) ∧
      s.InSession c ∧
      ((∀ p : Pin, b = byteOf p.val → s.claimAt c p = none)) := by
  refine ⟨ask busy 0 (frameOf .release 255 [16]), 0, 255, 16,
    ?_, ?_, ?_⟩ <;> decide +kernel

theorem witness_BindTakesAFreeChannel_1 :
    ∃ (s : State) (c : Client) (tag : Byte) (k : Chan) (b : Byte),
      s.Lawful ∧
      s.Asks c (frameOf .bind tag [b]) ∧
      s.InSession c ∧
      (s.channel k).state = .free ∧
      ((b = byteOf k.val ∨ (b = 0xFF ∧ ∀ j : Chan, j < k → (s.channel j).state ≠ .free))) := by
  refine ⟨ask two 3 (frameOf .bind 255 [byteOf 5]), 3, 255, 5, (byteOf 5),
    lawful_ask lawful_two _ _, ?_, ?_, ?_, ?_⟩ <;> decide +kernel

theorem witness_BindTakesAFreeChannel_2 :
    ∃ (s : State) (c : Client) (tag : Byte) (b : Byte),
      s.Asks c (frameOf .bind tag [b]) ∧
      s.InSession c ∧
      ((if b = 0xFF then ∀ k : Chan, (s.channel k).state ≠ .free
        else ∀ k : Chan, b = byteOf k.val → (s.channel k).state ≠ .free)) := by
  refine ⟨ask busy 1 (frameOf .bind 255 [255]), 1, 255, 255,
    ?_, ?_, ?_⟩ <;> decide +kernel

theorem witness_ConfigureReplacesTheSettings_1 :
    ∃ (s : State) (c : Client) (tag : Byte) (k : Chan) (r : Settings),
      s.Lawful ∧
      s.Asks c (frameOf .configure tag (byteOf k.val :: settingsBytes r)) ∧
      s.InSession c ∧
      (s.channel k).owner = some c ∧
      ((s.channel k).state = .stopped ∨ (s.channel k).state = .done) ∧
      ((∀ j : Chan, r.clock = .chain j → (s.channel j).state ≠ .free ∧
        ∀ path : List Chan, ¬ s.ChainWalk j k path)) := by
  refine ⟨ask busy 0 (frameOf .configure 255 (byteOf 5 :: settingsBytes (settingsOf .wrap 65535 65535 8 (.chain 4) true))), 0, 255, 5, (settingsOf .wrap 65535 65535 8 (.chain 4) true),
    lawful_ask lawful_busy _ _, ?_, ?_, ?_, ?_, (by intro j h; cases h; exact ⟨by decide +kernel, no_walk (by decide +kernel) (by decide)⟩)⟩ <;> decide +kernel

theorem witness_ConfigureReplacesTheSettings_2 :
    ∃ (s : State) (c : Client) (tag : Byte) (k : Chan) (r : Settings),
      s.Asks c (frameOf .configure tag (byteOf k.val :: settingsBytes r)) ∧
      s.InSession c ∧
      (s.channel k).owner = some c ∧
      (s.channel k).state ≠ .stopped ∧
      (s.channel k).state ≠ .done := by
  refine ⟨ask busy 0 (frameOf .configure 255 (byteOf 0 :: settingsBytes (settingsOf .wrap 65535 65535 8 (.chain 4) true))), 0, 255, 0, (settingsOf .wrap 65535 65535 8 (.chain 4) true),
    ?_, ?_, ?_, ?_, ?_⟩ <;> decide +kernel

theorem witness_ConfigureReplacesTheSettings_3 :
    ∃ (s : State) (c : Client) (tag : Byte) (k : Chan) (r : Settings) (j : Chan) (path : List Chan),
      s.Asks c (frameOf .configure tag (byteOf k.val :: settingsBytes r)) ∧
      s.InSession c ∧
      (s.channel k).owner = some c ∧
      ((s.channel k).state = .stopped ∨ (s.channel k).state = .done) ∧
      r.clock = .chain j ∧
      ((s.channel j).state = .free ∨ s.ChainWalk j k path) := by
  refine ⟨ask chained 3 (frameOf .configure 255 (byteOf 0 :: settingsBytes (settingsOf .wrap 65535 65535 8 (.chain 5) true))), 3, 255, 0, (settingsOf .wrap 65535 65535 8 (.chain 5) true), 5, [5, 4, 3, 2, 1, 0],
    ?_, ?_, ?_, ?_, ?_, ?_⟩ <;> decide +kernel

theorem witness_ConfigureReplacesTheSettings_4 :
    ∃ (s : State) (c : Client) (tag : Byte) (pl : List Byte),
      s.Asks c (frameOf .configure tag pl) ∧
      s.InSession c ∧
      pl.length = 9 ∧
      (5 < (pl.getD 0 0).toNat ∨ 2 < (pl.getD 1 0).toNat ∨ 8 < (pl.getD 6 0).toNat ∨
        (∀ src : ClockSource, clockByte src ≠ pl.getD 7 0) ∨ 1 < (pl.getD 8 0).toNat) := by
  refine ⟨ask two 3 (frameOf .configure 255 [6, 3, 0, 0, 0, 0, 9, 0x60, 2]), 3, 255, [6, 3, 0, 0, 0, 0, 9, 0x60, 2],
    ?_, ?_, ?_, Or.inl (by decide)⟩ <;> decide +kernel

theorem witness_StageMerges_1 :
    ∃ (s : State) (c : Client) (tag : Byte) (k : Chan) (r : Staged),
      s.Asks c (frameOf .stage tag (byteOf k.val :: stagedBytes r)) ∧
      s.InSession c ∧
      (s.channel k).owner = some c ∧
      (r.reload.isSome ∨ r.compare.isSome ∨ r.prescaleExp.isSome ∨ r.mode.isSome) := by
  refine ⟨ask busy 0 (frameOf .stage 255 (byteOf 5 :: stagedBytes { keepAll with reload := some 65535, prescaleExp := some 8 })), 0, 255, 5, { keepAll with reload := some 65535, prescaleExp := some 8 },
    ?_, ?_, ?_, ?_⟩ <;> decide +kernel

theorem witness_StageMerges_2 :
    ∃ (s : State) (c : Client) (tag : Byte) (k : Chan),
      s.Asks c (frameOf .stage tag [byteOf k.val, 0]) ∧
      s.InSession c ∧
      (s.channel k).owner = some c := by
  refine ⟨ask busy 0 (frameOf .stage 255 [byteOf 5, 0]), 0, 255, 5,
    ?_, ?_, ?_⟩ <;> decide +kernel

theorem witness_StageMerges_3 :
    ∃ (s : State) (c : Client) (tag : Byte) (k : Chan) (rl : Option Word) (cm : Option Word) (ex : Option Byte) (md : Option Byte),
      s.Asks c (frameOf .stage tag ([byteOf k.val, presenceByte [rl.isSome, cm.isSome, ex.isSome, md.isSome]] ++
        (rl.map wordBytes).getD [] ++ (cm.map wordBytes).getD [] ++ ex.toList ++ md.toList)) ∧
      s.InSession c ∧
      (s.channel k).owner = some c ∧
      ((ex.any fun b => 8 < b.toNat) ∨ (md.any fun b => 2 < b.toNat)) := by
  refine ⟨ask busy 0 (frameOf .stage 255 ([byteOf (5 : Chan).val, presenceByte [(none : Option Word).isSome, (none : Option Word).isSome, (some (9 : Byte)).isSome, (some (3 : Byte)).isSome]] ++ ((none : Option Word).map wordBytes).getD [] ++ ((none : Option Word).map wordBytes).getD [] ++ (some (9 : Byte)).toList ++ (some (3 : Byte)).toList)), 0, 255, 5, none, none, (some 9), (some 3),
    ?_, ?_, ?_, ?_⟩ <;> decide +kernel

theorem witness_CommitAppliesWaitsOrStays_1 :
    ∃ (s : State) (c : Client) (tag : Byte) (k : Chan) (x : Staged),
      s.Asks c (frameOf .commit tag [byteOf k.val]) ∧
      s.InSession c ∧
      (s.channel k).owner = some c ∧
      (s.channel k).staging = some x := by
  refine ⟨ask busy 0 (frameOf .commit 255 [byteOf 1]), 0, 255, 1, { keepAll with mode := some .wrap },
    ?_, ?_, ?_, ?_⟩ <;> decide +kernel

theorem witness_CommitAppliesWaitsOrStays_2 :
    ∃ (s : State) (c : Client) (tag : Byte) (k : Chan),
      s.Asks c (frameOf .commit tag [byteOf k.val]) ∧
      s.InSession c ∧
      (s.channel k).owner = some c ∧
      (s.channel k).staging = none := by
  refine ⟨ask busy 0 (frameOf .commit 255 [byteOf 5]), 0, 255, 5,
    ?_, ?_, ?_, ?_⟩ <;> decide +kernel

theorem witness_CancelWithdrawsTheCommit_1 :
    ∃ (s : State) (c : Client) (tag : Byte) (k : Chan),
      s.Asks c (frameOf .cancel tag [byteOf k.val]) ∧
      s.InSession c ∧
      (s.channel k).owner = some c ∧
      (s.channel k).commit ≠ none := by
  refine ⟨ask busy 0 (frameOf .cancel 255 [byteOf 0]), 0, 255, 0,
    ?_, ?_, ?_, ?_⟩ <;> decide +kernel

theorem witness_CancelWithdrawsTheCommit_2 :
    ∃ (s : State) (c : Client) (tag : Byte) (b : Byte),
      s.Asks c (frameOf .cancel tag [b]) ∧
      s.InSession c ∧
      ((∀ k : Chan, b = byteOf k.val → (s.channel k).owner = some c → (s.channel k).commit = none)) := by
  refine ⟨ask busy 0 (frameOf .cancel 255 [6]), 0, 255, 6,
    ?_, ?_, ?_⟩ <;> decide +kernel

theorem witness_StartsRunFromReload_1 :
    ∃ (s : State) (c : Client) (tag : Byte) (k : Chan),
      s.Lawful ∧
      s.Asks c (frameOf .start tag [byteOf k.val]) ∧
      s.InSession c ∧
      (s.channel k).owner = some c ∧
      (s.channel k).state ≠ .running := by
  refine ⟨ask busy 0 (frameOf .start 255 [byteOf 5]), 0, 255, 5,
    lawful_ask lawful_busy _ _, ?_, ?_, ?_, ?_⟩ <;> decide +kernel

theorem witness_StartsRunFromReload_2 :
    ∃ (s : State) (c : Client) (tag : Byte) (ks : List Chan),
      s.Lawful ∧
      s.Asks c (frameOf .startGroup tag (ks.map fun k => byteOf k.val)) ∧
      s.InSession c ∧
      ks ≠ [] ∧
      ks.Nodup ∧
      ((∀ k ∈ ks, (s.channel k).owner = some c ∧ (s.channel k).state ≠ .running)) := by
  refine ⟨ask busy 0 (frameOf .startGroup 255 (([5, 2, 4] : List Chan).map fun k => byteOf k.val)), 0, 255, [5, 2, 4],
    lawful_ask lawful_busy _ _, ?_, ?_, ?_, ?_, ?_⟩ <;> decide +kernel

theorem witness_StartsRunFromReload_3 :
    ∃ (s : State) (k : Chan),
      s.Lawful ∧
      s.Calm ∧
      (s.channel k).state = .armed ∧
      (s.channel k).triggerDue = true := by
  refine ⟨busy, 2,
    lawful_busy, ?_, ?_, ?_⟩ <;> decide +kernel

theorem witness_StartsRunFromReload_4 :
    ∃ (s : State) (c : Client) (tag : Byte) (k : Chan),
      s.Asks c (frameOf .start tag [byteOf k.val]) ∧
      s.InSession c ∧
      (s.channel k).owner = some c ∧
      (s.channel k).state = .running := by
  refine ⟨ask busy 0 (frameOf .start 255 [byteOf 0]), 0, 255, 0,
    ?_, ?_, ?_, ?_⟩ <;> decide +kernel

theorem witness_StartGroupRefusesWhole :
    ∃ (s : State) (c : Client) (tag : Byte) (ks : List Chan) (b : Byte) (rest : List Byte),
      s.Asks c (frameOf .startGroup tag ((ks.map fun k => byteOf k.val) ++ b :: rest)) ∧
      s.InSession c ∧
      ks.Nodup ∧
      ks.length + rest.length < 6 ∧
      ((∀ k ∈ ks, (s.channel k).owner = some c ∧ (s.channel k).state ≠ .running)) ∧
      ((∀ k : Chan, b = byteOf k.val → k ∈ ks ∨ (s.channel k).owner ≠ some c ∨ (s.channel k).state = .running)) ∧
      ((∀ k : Chan, (s.channel k).state = .free → (s.channel k).owner = none)) := by
  refine ⟨ask busy 0 (frameOf .startGroup 255 ((([5, 2] : List Chan).map fun k => byteOf k.val) ++ byteOf 0 :: [4, 4, 4])), 0, 255, [5, 2], (byteOf 0), [4, 4, 4],
    ?_, ?_, ?_, ?_, ?_, ?_, ?_⟩ <;> decide +kernel

theorem witness_ArmStoresTheTrigger_1 :
    ∃ (s : State) (c : Client) (tag : Byte) (k : Chan) (p : Pin) (e : Edge),
      s.Asks c (frameOf .arm tag [byteOf k.val, byteOf p.val, edgeByte e]) ∧
      s.InSession c ∧
      (s.channel k).owner = some c ∧
      ((s.channel k).state = .stopped ∨ (s.channel k).state = .done) := by
  refine ⟨ask busy 0 (frameOf .arm 255 [byteOf 5, byteOf 15, edgeByte .fall]), 0, 255, 5, 15, .fall,
    ?_, ?_, ?_, ?_⟩ <;> decide +kernel

theorem witness_ArmStoresTheTrigger_2 :
    ∃ (s : State) (c : Client) (tag : Byte) (k : Chan) (p : Pin) (e : Edge),
      s.Asks c (frameOf .arm tag [byteOf k.val, byteOf p.val, edgeByte e]) ∧
      s.InSession c ∧
      (s.channel k).owner = some c ∧
      ((s.channel k).state = .running ∨ (s.channel k).state = .armed) := by
  refine ⟨ask busy 0 (frameOf .arm 255 [byteOf 2, byteOf 15, edgeByte .fall]), 0, 255, 2, 15, .fall,
    ?_, ?_, ?_, ?_⟩ <;> decide +kernel

theorem witness_ArmStoresTheTrigger_3 :
    ∃ (s : State) (c : Client) (tag : Byte) (bk : Byte) (bp : Byte) (be : Byte),
      s.Asks c (frameOf .arm tag [bk, bp, be]) ∧
      s.InSession c ∧
      (5 < bk.toNat ∨ 15 < bp.toNat ∨ (be ≠ 1 ∧ be ≠ 2)) := by
  refine ⟨ask two 3 (frameOf .arm 255 [6, 16, 3]), 3, 255, 6, 16, 3,
    ?_, ?_, ?_⟩ <;> decide +kernel

theorem witness_StopEndsTheRun_1 :
    ∃ (s : State) (c : Client) (tag : Byte) (k : Chan),
      s.Lawful ∧
      s.Asks c (frameOf .stop tag [byteOf k.val]) ∧
      s.InSession c ∧
      (s.channel k).owner = some c ∧
      (s.channel k).state = .running := by
  refine ⟨ask busy 0 (frameOf .stop 255 [byteOf 0]), 0, 255, 0,
    lawful_ask lawful_busy _ _, ?_, ?_, ?_, ?_⟩ <;> decide +kernel

theorem witness_StopEndsTheRun_2 :
    ∃ (s : State) (c : Client) (tag : Byte) (k : Chan),
      s.Asks c (frameOf .stop tag [byteOf k.val]) ∧
      s.InSession c ∧
      (s.channel k).owner = some c ∧
      (s.channel k).state = .armed := by
  refine ⟨ask busy 0 (frameOf .stop 255 [byteOf 2]), 0, 255, 2,
    ?_, ?_, ?_, ?_⟩ <;> decide +kernel

theorem witness_StopEndsTheRun_3 :
    ∃ (s : State) (c : Client) (tag : Byte) (k : Chan),
      s.Asks c (frameOf .stop tag [byteOf k.val]) ∧
      s.InSession c ∧
      (s.channel k).owner = some c ∧
      ((s.channel k).state = .stopped ∨ (s.channel k).state = .done) := by
  refine ⟨ask busy 0 (frameOf .stop 255 [byteOf 5]), 0, 255, 5,
    ?_, ?_, ?_, ?_⟩ <;> decide +kernel

theorem witness_ReleaseChannelFreesOrOrphans :
    ∃ (s : State) (c : Client) (tag : Byte) (k : Chan),
      s.Lawful ∧
      s.Asks c (frameOf .releaseChannel tag [byteOf k.val]) ∧
      s.InSession c ∧
      (s.channel k).owner = some c := by
  refine ⟨ask busy 0 (frameOf .releaseChannel 255 [byteOf 0]), 0, 255, 0,
    lawful_ask lawful_busy _ _, ?_, ?_, ?_⟩ <;> decide +kernel

theorem witness_AdoptTakesAnOrphan_1 :
    ∃ (s : State) (c : Client) (tag : Byte) (k : Chan),
      s.Lawful ∧
      s.Asks c (frameOf .adopt tag [byteOf k.val]) ∧
      s.InSession c ∧
      (s.channel k).state ≠ .free ∧
      (s.channel k).owner = none := by
  refine ⟨ask busy 1 (frameOf .adopt 255 [byteOf 3]), 1, 255, 3,
    lawful_ask lawful_busy _ _, ?_, ?_, ?_, ?_⟩ <;> decide +kernel

theorem witness_AdoptTakesAnOrphan_2 :
    ∃ (s : State) (c : Client) (tag : Byte) (b : Byte),
      s.Asks c (frameOf .adopt tag [b]) ∧
      s.InSession c ∧
      ((∀ k : Chan, b = byteOf k.val → (s.channel k).state = .free ∨ (s.channel k).owner ≠ none)) := by
  refine ⟨ask busy 1 (frameOf .adopt 255 [byteOf 5]), 1, 255, (byteOf 5),
    ?_, ?_, ?_⟩ <;> decide +kernel

theorem witness_WatchAndUnwatch_1 :
    ∃ (s : State) (c : Client) (tag : Byte) (p : Pin) (e : EdgeSel),
      s.Lawful ∧
      s.Asks c (frameOf .watch tag [byteOf p.val, edgeSelByte e]) ∧
      s.InSession c ∧
      ((∀ w ∈ s.watches, (w.client, w.pin) ≠ (c, p))) ∧
      s.watches.length < 24 := by
  refine ⟨ask busy 1 (frameOf .watch 255 [byteOf 15, 3]), 1, 255, 15, .both,
    lawful_ask lawful_busy _ _, ?_, ?_, ?_, ?_⟩ <;> decide +kernel

theorem witness_WatchAndUnwatch_2 :
    ∃ (s : State) (c : Client) (tag : Byte) (p : Pin) (e : EdgeSel) (w : Watch),
      s.Lawful ∧
      s.Asks c (frameOf .watch tag [byteOf p.val, edgeSelByte e]) ∧
      s.InSession c ∧
      w ∈ s.watches ∧
      w.client = c ∧ w.pin = p := by
  refine ⟨ask busy 0 (frameOf .watch 255 [byteOf 15, 2]), 0, 255, 15, .fall, { client := 0, pin := 15, edges := .both },
    lawful_ask lawful_busy _ _, ?_, ?_, ?_, ?_⟩ <;> decide +kernel

theorem witness_WatchAndUnwatch_3 :
    ∃ (s : State) (c : Client) (tag : Byte) (p : Pin) (e : EdgeSel),
      s.Asks c (frameOf .watch tag [byteOf p.val, edgeSelByte e]) ∧
      s.InSession c ∧
      ((∀ w ∈ s.watches, (w.client, w.pin) ≠ (c, p))) ∧
      24 ≤ s.watches.length := by
  refine ⟨ask { two with watches := List.replicate 24 { client := 0, pin := 15, edges := .both } } 3 (frameOf .watch 255 [byteOf 15, 1]), 3, 255, 15, .rise,
    ?_, ?_, ?_, ?_⟩ <;> decide +kernel

theorem witness_WatchAndUnwatch_4 :
    ∃ (s : State) (c : Client) (tag : Byte) (p : Pin) (w : Watch),
      s.Lawful ∧
      s.Asks c (frameOf .unwatch tag [byteOf p.val]) ∧
      s.InSession c ∧
      w ∈ s.watches ∧
      w.client = c ∧ w.pin = p := by
  refine ⟨ask busy 0 (frameOf .unwatch 255 [byteOf 15]), 0, 255, 15, { client := 0, pin := 15, edges := .both },
    lawful_ask lawful_busy _ _, ?_, ?_, ?_, ?_⟩ <;> decide +kernel

theorem witness_WatchAndUnwatch_5 :
    ∃ (s : State) (c : Client) (tag : Byte) (b : Byte),
      s.Asks c (frameOf .unwatch tag [b]) ∧
      s.InSession c ∧
      ((∀ w ∈ s.watches, w.client = c → byteOf w.pin.val ≠ b)) := by
  refine ⟨ask busy 1 (frameOf .unwatch 255 [byteOf 15]), 1, 255, (byteOf 15),
    ?_, ?_, ?_⟩ <;> decide +kernel

theorem witness_WatchAndUnwatch_6 :
    ∃ (s : State) (c : Client) (tag : Byte) (bp : Byte) (be : Byte),
      s.Asks c (frameOf .watch tag [bp, be]) ∧
      s.InSession c ∧
      (15 < bp.toNat ∨ be = 0 ∨ 3 < be.toNat) := by
  refine ⟨ask two 3 (frameOf .watch 255 [16, 4]), 3, 255, 16, 4,
    ?_, ?_, ?_⟩ <;> decide +kernel

theorem witness_FetchRemovesTheOldest_1 :
    ∃ (s : State) (c : Client) (tag : Byte) (n : Nat),
      s.Lawful ∧
      s.Asks c (frameOf .fetch tag [byteOf n]) ∧
      s.InSession c ∧
      1 ≤ n ∧ n ≤ 6 := by
  refine ⟨ask busy 1 (frameOf .fetch 255 [byteOf 6]), 1, 255, 6,
    lawful_ask lawful_busy _ _, ?_, ?_, ?_⟩ <;> decide +kernel

theorem witness_FetchRemovesTheOldest_2 :
    ∃ (s : State) (c : Client) (tag : Byte) (b : Byte),
      s.Asks c (frameOf .fetch tag [b]) ∧
      s.InSession c ∧
      (b = 0 ∨ 6 < b.toNat) := by
  refine ⟨ask busy 1 (frameOf .fetch 255 [7]), 1, 255, 7,
    ?_, ?_, ?_⟩ <;> decide +kernel

theorem witness_WriteHoldsAGoodFrame :
    ∃ (s : State) (c : Client) (f : Frame) (_more : List Byte),
      s.Calm ∧
      (s.port c).transaction = .none ∧
      (s.port c).state = .ready ∧
      f.payload.length ≤ 56 := by
  refine ⟨one, 3, { command := 3, tag := 0, payload := List.replicate 56 255 }, [0],
    ?_, ?_, ?_, ?_⟩ <;> decide +kernel

theorem witness_WriteAnswersABadFrame :
    ∃ (s : State) (c : Client) (bs : List Byte),
      s.Calm ∧
      (s.port c).transaction = .none ∧
      (s.port c).state = .ready ∧
      (bs.length < 4 ∨ 56 < (bs.getD 2 0).toNat ∨ bs.length < 4 + (bs.getD 2 0).toNat ∨
        crc8 (bs.take (3 + (bs.getD 2 0).toNat)) ≠ bs.getD (3 + (bs.getD 2 0).toNat) 0) := by
  refine ⟨one, 3, [3, 0, 57, 0],
    ?_, ?_, ?_, ?_⟩ <;> decide +kernel

theorem witness_DiscardedAndIgnoredTransactions_1 :
    ∃ (s : State) (c : Client) (_bs : List Byte),
      s.Calm ∧
      (s.port c).transaction = .none ∧
      (s.port c).state ≠ .ready := by
  refine ⟨answered, 3, [],
    ?_, ?_, ?_⟩ <;> decide +kernel

theorem witness_DiscardedAndIgnoredTransactions_2 :
    ∃ (s : State) (c : Client) (kd : Byte) (_bs : List Byte),
      s.inReset = false ∧
      (s.port c).transaction = .none ∧
      kd ≠ 0xA5 ∧ kd ≠ 0x5A := by
  refine ⟨one, 3, 0xFF, [],
    ?_, ?_, ?_⟩ <;> decide +kernel

theorem witness_ReadShiftsTheReplyOut_1 :
    ∃ (s : State) (c : Client) (_bs : List Byte) (r : Reply),
      s.Calm ∧
      (s.port c).transaction = .none ∧
      (s.port c).state = .answered ∧
      (s.port c).reply = some r := by
  refine ⟨answered, 3, [], badReply,
    ?_, ?_, ?_, ?_⟩ <;> decide +kernel

theorem witness_ReadShiftsTheReplyOut_2 :
    ∃ (s : State) (c : Client) (_bs : List Byte),
      s.Calm ∧
      (s.port c).transaction = .none ∧
      (s.port c).state ≠ .answered := by
  refine ⟨one, 3, [],
    ?_, ?_, ?_⟩ <;> decide +kernel

theorem witness_ClockInputsCount_1 :
    ∃ (s : State) (k : Chan),
      s.Lawful ∧
      s.Calm ∧
      (s.channel k).state = .running ∧
      0 < (s.channel k).inputsDue ∧
      (s.channel k).phase.toNat + 1 ≠ 2 ^ (s.channel k).settings.prescaleExp.val := by
  refine ⟨busy, 3,
    lawful_busy, ?_, ?_, ?_, ?_⟩ <;> decide +kernel

theorem witness_ClockInputsCount_2 :
    ∃ (s : State) (k : Chan) (com : Instr),
      (com = .clockInput k ∨ com = .channelTick k) ∧
      s.Lawful ∧
      s.Calm ∧
      (s.channel k).state = .running ∧
      0 < (s.channel k).inputsDue ∧
      (s.channel k).phase.toNat + 1 = 2 ^ (s.channel k).settings.prescaleExp.val ∧
      (s.channel k).count ≠ 0 := by
  refine ⟨busy, 1, (.channelTick 1),
    ?_, lawful_busy, ?_, ?_, ?_, ?_, ?_⟩ <;> decide +kernel

theorem witness_ClockInputsCount_3 :
    ∃ (s : State) (k : Chan) (com : Instr),
      (com = .clockInput k ∨ ((s.channel k).phase.toNat + 1 = 2 ^ (s.channel k).settings.prescaleExp.val ∧
        com = if (s.channel k).count = 0 then Instr.periodBoundary k else .channelTick k)) ∧
      s.Calm ∧
      s.Quiet ∧
      (s.channel k).state = .running ∧
      (s.channel k).settings.clock = .base := by
  refine ⟨ticked.setChannel 1 { (ticked.channel 1) with inputsDue := 0 }, 0, (.channelTick 0),
    ?_, ?_, ?_, ?_, ?_⟩ <;> decide +kernel

theorem witness_ClockInputsCount_4 :
    ∃ (s : State) (k : Chan) (j : Chan),
      s.Lawful ∧
      s.Calm ∧
      (s.channel k).state = .running ∧
      (s.channel k).settings.clock = .base ∧
      j ≠ k ∧
      ((∀ i : Chan, i ≠ j → (s.channel i).inputsDue = 0)) ∧
      ((∀ i : Chan, (s.channel i).triggerDue = false)) ∧
      (s.channel j).inputsDue = 1 := by
  refine ⟨ticked, 0, 1,
    lawful_ticked, ?_, ?_, ?_, ?_, ?_, ?_, ?_⟩ <;> decide +kernel

theorem witness_ClockInputsCount_5 :
    ∃ (s : State) (k : Chan) (p : Pin) (g : Edge),
      s.Lawful ∧
      s.inReset = false ∧
      s.edgeOwed = none ∧
      ((∀ q : Pin, q ≠ p → s.lags q = false)) ∧
      (s.lags p = true ∨ (s.pad p).tickDue = true) ∧
      (s.channel k).state = .running ∧
      (s.channel k).inputsDue = 0 ∧
      (s.channel k).settings.clock = .pin p g ∧
      (s.pad p).filtered = (if g = .rise then .low else .high) := by
  refine ⟨edgy, 2, 15, .rise,
    lawful_edgy, ?_, ?_, ?_, ?_, ?_, ?_, ?_, ?_⟩ <;> decide +kernel

theorem witness_ClockInputsCount_6 :
    ∃ (s : State) (k : Chan),
      s.Calm ∧
      (s.channel k).state ≠ .running := by
  refine ⟨busy, 5,
    ?_, ?_⟩ <;> decide +kernel

theorem witness_PeriodBoundaryInFourSteps :
    ∃ (s : State) (k : Chan) (com : Instr),
      (com = .clockInput k ∨ com = .periodBoundary k) ∧
      s.Lawful ∧
      s.Calm ∧
      (s.channel k).state = .running ∧
      0 < (s.channel k).inputsDue ∧
      (s.channel k).phase.toNat + 1 = 2 ^ (s.channel k).settings.prescaleExp.val ∧
      (s.channel k).count = 0 := by
  refine ⟨busy, 0, (.periodBoundary 0),
    ?_, lawful_busy, ?_, ?_, ?_, ?_, ?_⟩ <;> decide +kernel

theorem witness_BoardLevelsReachThePad :
    ∃ (s : State) (_p : Pin) (_b : BoardLevel),
      s.Calm := by
  refine ⟨busy, 15, { drives := false, level := .high },
    ?_⟩
  decide +kernel

theorem witness_FilteredEdgesReachTheirConsumers_1 :
    ∃ (s : State) (p : Pin),
      s.Lawful ∧
      s.inReset = false ∧
      s.edgeOwed = none ∧
      (s.policy p).filterLen = 0 ∧
      (s.pad p).raw ≠ (s.pad p).filtered := by
  refine ⟨lagging, 15,
    lawful_lagging, ?_, ?_, ?_, ?_⟩ <;> decide +kernel

theorem witness_FilteredEdgesReachTheirConsumers_2 :
    ∃ (s : State) (p : Pin) (l : Level),
      s.Lawful ∧
      s.inReset = false ∧
      s.edgeOwed = none ∧
      (s.pad p).tickDue = true ∧
      (s.pad p).filtered ≠ l := by
  refine ⟨busy, 14, .high,
    lawful_busy, ?_, ?_, ?_, ?_⟩ <;> decide +kernel

theorem witness_FilteredEdgesReachTheirConsumers_3 :
    ∃ (s : State) (k : Chan) (p : Pin) (g : Edge) (l : Level),
      s.Lawful ∧
      s.inReset = false ∧
      s.edgeOwed = none ∧
      ((∀ q : Pin, q ≠ p → s.lags q = false)) ∧
      (s.lags p = true ∨ (s.pad p).tickDue = true) ∧
      (s.pad p).filtered ≠ l ∧
      g = (if l = .high then Edge.rise else .fall) ∧
      (s.channel k).state = .armed ∧
      (s.channel k).trigger = some (p, g) ∧
      (s.channel k).triggerDue = false := by
  refine ⟨edgy, 3, 15, .rise, .high,
    lawful_edgy, ?_, ?_, ?_, ?_, ?_, ?_, ?_, ?_, ?_⟩ <;> decide +kernel

theorem witness_MillisecondTickCounts :
    ∃ (s : State),
      s.Lawful ∧
      s.Calm ∧
      ((∀ q ∈ s.claims, q.tickDue = false)) ∧
      ((∀ c : Client, (s.session c).tickDue = false)) ∧
      ((∀ p : Pin, (s.pad p).tickDue = false)) := by
  refine ⟨two,
    lawful_two, ?_, ?_, ?_, ?_⟩ <;> decide +kernel

theorem witness_HoldExpiryRemovesTheClaim :
    ∃ (s : State) (c : Client) (p : Pin) (q : Claim),
      s.Lawful ∧
      s.Calm ∧
      s.claimAt c p = some q ∧
      q.state = .live ∧
      q.tickDue = true := by
  refine ⟨busy, 0, 1, expiring,
    lawful_busy, ?_, ?_, ?_, ?_⟩ <;> decide +kernel

theorem witness_LeaseExpiryWarns :
    ∃ (s : State) (c : Client),
      s.Calm ∧
      (s.session c).state = .opened ∧
      (s.session c).tickDue = true := by
  refine ⟨busy, 0,
    ?_, ?_, ?_⟩ <;> decide +kernel

theorem witness_DeviceResetsAndTheirEnds_2 :
    ∃ (s : State),
      s.por = false ∧
      s.nrstLow = false := by
  refine ⟨busy,
    ?_, ?_⟩ <;> decide +kernel

theorem witness_DeviceResetsAndTheirEnds_3 :
    ∃ (s : State),
      s.por = true := by
  refine ⟨inPor,
    ?_⟩
  decide +kernel

theorem witness_DeviceResetsAndTheirEnds_4 :
    ∃ (s : State),
      s.por = true ∧
      s.nrstLow = false := by
  refine ⟨inPor,
    ?_, ?_⟩ <;> decide +kernel

theorem witness_DeviceResetsAndTheirEnds_5 :
    ∃ (s : State),
      s.por = false ∧
      s.nrstLow = true := by
  refine ⟨inNrst,
    ?_, ?_⟩ <;> decide +kernel

theorem witness_DeviceResetsAndTheirEnds_6 :
    ∃ (s : State),
      s.por = true ∧
      s.nrstLow = true := by
  refine ⟨inBoth,
    ?_, ?_⟩ <;> decide +kernel

theorem witness_ModifyChecksInOrder_1 :
    ∃ (s : State) (c : Client) (tag : Byte) (p : Pin) (r : Option Rank) (src : Option Source) (hold : Option Word) (wait : Option Chan),
      s.Asks c (frameOf .modify tag (modifyPayload p r src hold wait)) ∧
      s.InSession c ∧
      (r.isSome ∨ src.isSome) ∧
      r ≠ some 0 ∧
      (src.all Source.formed) = true ∧
      hold ≠ some 0 ∧
      ((s.claimAt c p).all fun q => q.state = .pending ∨ (r.any fun x => (s.policy p).ceilings[c.val] < x) ∨
        ∃ k : Chan, (src.any (·.names k) = true ∨ wait = some k) ∧ (s.channel k).state = .free) = true := by
  refine ⟨ask ticked 3 (frameOf .modify 255 (modifyPayload 0 (some 7) (some (.ch 5)) (some 1) (some 4))), 3, 255, 0, (some 7), (some (.ch 5)), (some 1), (some 4),
    ?_, ?_, ?_, ?_, ?_, ?_, ?_⟩ <;> decide +kernel

theorem witness_ModifyChecksInOrder_2 :
    ∃ (s : State) (c : Client) (tag : Byte) (bp : Byte) (br : Option Byte) (src : Option (Byte × Byte)) (hold : Option Word) (wait : Option Byte),
      s.Asks c (frameOf .modify tag ([bp, presenceByte [br.isSome, src.isSome, hold.isSome, wait.isSome]] ++ br.toList ++
        (src.map fun x => [x.1, x.2]).getD [] ++ (hold.map wordBytes).getD [] ++ wait.toList)) ∧
      s.InSession c ∧
      ((15 < bp.toNat ∨ (br = none ∧ src = none) ∨ (br.any fun b => b = 0 ∨ 7 < b.toNat) ∨
        (∃ x : Byte × Byte, src = some x ∧
          ∀ y : Source, sourceBytes y = [x.1, x.2] → y.formed = false) ∨
        hold = some 0 ∨ (wait.any fun b => 5 < b.toNat))) := by
  refine ⟨ask busy 1 (frameOf .modify 255 ([16, presenceByte [(some (8 : Byte)).isSome, (none : Option (Byte × Byte)).isSome, (none : Option Word).isSome, (some (6 : Byte)).isSome]] ++ (some (8 : Byte)).toList ++ ((none : Option (Byte × Byte)).map fun x => [x.1, x.2]).getD [] ++ ((none : Option Word).map wordBytes).getD [] ++ (some (6 : Byte)).toList)), 1, 255, 16, (some 8), none, none, (some 6),
    ?_, ?_, Or.inl (by decide)⟩ <;> decide +kernel

/-! ## Witnesses of the statements on queues, resolution, transactions, ticks and steps -/

theorem lawful_pending {s : State} (h : s.Lawful) (l : List Instr) : ({ s with pending := l } : State).Lawful :=
  ⟨h.queues, h.attention, h.ports, h.sessions, h.pool, h.claims, h.lists, h.waits, h.counts, h.channels, h.chains,
    h.pads, h.filters, h.edge, h.watches, h.closed⟩

/-- A lawful state with commands waiting, for each law: the step answers a next state, in which what the law speaks
of has changed. -/
def queued (i : Instr) : State := { busy with pending := [i, .powerOn] }

theorem lawful_queued (i : Instr) : (queued i).Lawful := lawful_pending lawful_busy _

theorem witness_EveryStepKeepsTheQueues :
    ∃ s t : State, s.QueuesOk ∧ step s = .next t ∧ t.queue 0 ≠ s.queue 0 :=
  ⟨queued (.periodBoundary 0), _, (lawful_queued _).queues, rfl, by decide +kernel⟩

theorem witness_EveryStepKeepsTheAttentionLines :
    ∃ s t : State, (s.AttentionOk ∧ s.PortsOk) ∧ step s = .next t ∧
      (t.port 0).attention ≠ (s.port 0).attention :=
  ⟨queued (.holdExpiry 0 1), _, ⟨(lawful_queued _).attention, (lawful_queued _).ports⟩, rfl, by decide +kernel⟩

theorem witness_EveryStepKeepsThePorts :
    ∃ s t : State, (s.PortsOk ∧ s.FramesFit) ∧ step s = .next t ∧ (t.port 3).state ≠ (s.port 3).state :=
  ⟨queued (.write 3 (.whole [0x03, 0x00, 0x00, 0x96])), _, ⟨(lawful_queued _).ports, by decide +kernel⟩, rfl,
    by decide +kernel⟩

theorem witness_EveryStepKeepsTheSessions :
    ∃ s t : State, s.SessionsOk ∧ step s = .next t ∧ (t.session 0).state ≠ (s.session 0).state :=
  ⟨queued (.leaseExpiry 0), _, (lawful_queued _).sessions, rfl, by decide +kernel⟩

theorem witness_EveryStepKeepsTheCounts :
    ∃ s t : State, s.CountsOk ∧ step s = .next t ∧ (t.channel 0).refs ≠ (s.channel 0).refs :=
  ⟨queued (.graceExpiry 1), _, (lawful_queued _).counts, rfl, by decide +kernel⟩

theorem witness_EveryStepKeepsTheClaimPool :
    ∃ s t : State, (s.PoolOk ∧ s.ListsOk ∧ s.WaitsOk) ∧ step s = .next t ∧ t.waitList 0 ≠ s.waitList 0 :=
  ⟨queued (.periodBoundary 0), _, ⟨(lawful_queued _).pool, (lawful_queued _).lists, (lawful_queued _).waits⟩, rfl,
    by decide +kernel⟩

theorem witness_EveryStepKeepsChainsLoopFree :
    ∃ s t : State, s.NoLoops ∧ step s = .next t ∧ (t.channel 5).settings.clock ≠ (s.channel 5).settings.clock :=
  ⟨{ ask busy 0 (frameOf .configure 9 [5, 0, 0, 1, 0, 2, 0, 0x82, 0]) with pending := [.configure 0] }, _,
    by decide +kernel, rfl, by decide +kernel⟩

theorem witness_EveryStepKeepsTheChannels :
    ∃ s t : State, (s.ChannelsOk ∧ s.CountsOk) ∧ step s = .next t ∧ (t.channel 2).state ≠ (s.channel 2).state :=
  ⟨queued (.triggerEdge 2), _, ⟨(lawful_queued _).channels, (lawful_queued _).counts⟩, rfl, by decide +kernel⟩

theorem witness_EveryStepKeepsThePadsResolved :
    ∃ s t : State, (s.PadsOk ∧ s.ListsOk ∧ s.PoolOk) ∧ step s = .next t ∧ (t.pad 15).driven ≠ (s.pad 15).driven :=
  ⟨queued (.periodBoundary 0), _, ⟨(lawful_queued _).pads, (lawful_queued _).lists, (lawful_queued _).pool⟩, rfl,
    by decide +kernel⟩

theorem witness_EveryStepKeepsTheLaws :
    ∃ s t : State, s.Lawful ∧ step s = .next t ∧ t.claims ≠ s.claims :=
  ⟨queued (.holdExpiry 0 1), _, lawful_queued _, rfl, by decide +kernel⟩

/-- A RUNNING channel's output drives P0's top claim, and P14's claim list is empty. -/
theorem witness_SourcesGiveLevelsAndPinsResolve :
    ∃ (s : State) (p p' : Pin) (c : Client) (rest : List Client) (q : Claim) (k : Chan), s.Lawful ∧
      (s.policy p).role = .io ∧ s.claimList p = c :: rest ∧ s.claimAt c p = some q ∧ q.source = .ch k ∧
      s.claimList p' = [] ∧ (s.channel 5).state ≠ .running :=
  ⟨busy, 0, 15, 0, [1], claimOf 0 0 7 (.ch 3), 3, lawful_busy, by decide +kernel, by decide +kernel,
    by decide +kernel, by decide +kernel, by decide +kernel, by decide +kernel⟩

/-- An INPUT_ONLY pin, the other branch of the same statement. -/
theorem witness_SourcesGiveLevelsAndPinsResolve_input : ∃ (s : State) (p : Pin), s.Lawful ∧
    (s.policy p).role = .inputOnly :=
  ⟨after (.setPolicy 0) (ask one 0 (frameOf .setPolicy 9 [15, 1, 1, 0, 15, 7, 7, 7, 7])), 15,
    by constructor <;> decide +kernel, by decide +kernel⟩

/-- A full queue that has dropped 255 notices, its last entry repeated 255 times. -/
def full : Queue :=
  { entries := (List.finRange 11).map (fun i => { notice := .edge ⟨i.val, by omega⟩ .low, repeats := 1 }) ++
      [{ notice := .leaseWarning, repeats := 255 }]
    dropped := 255 }

/-- It coalesces. -/
theorem witness_NoticesCoalesceJoinOrDrop_1 : ∃ (q : Queue) (n : Notice) (i : Nat) (e : Entry), q.Ok ∧
    q.entries[i]? = some e ∧ e.notice.key = n.key :=
  ⟨full, .leaseWarning, 11, { notice := .leaseWarning, repeats := 255 }, by decide +kernel, by decide +kernel,
    by decide +kernel⟩

/-- One with 11 entries has room for one more. -/
theorem witness_NoticesCoalesceJoinOrDrop_2 : ∃ (q : Queue) (n : Notice), q.Ok ∧
    (∀ e ∈ q.entries, e.notice.key ≠ n.key) ∧ q.entries.length < 12 :=
  ⟨{ entries := full.entries.take 11, dropped := 0 }, .leaseWarning, by decide +kernel, by decide +kernel,
    by decide +kernel⟩

/-- A full one drops. -/
theorem witness_NoticesCoalesceJoinOrDrop_3 : ∃ (q : Queue) (n : Notice), q.Ok ∧
    (∀ e ∈ q.entries, e.notice.key ≠ n.key) ∧ q.entries.length = 12 :=
  ⟨full, .edge 15 .high, by decide +kernel, by decide +kernel, by decide +kernel⟩

/-- A reply with the deepest queue and the longest payload. -/
theorem witness_ReadShiftsTheReplyOut_bytes : ∃ r : Reply, r.depth ≤ 12 ∧ r.payload.length ≤ 56 :=
  ⟨{ badReply with depth := 12, payload := List.replicate 56 255 }, by decide, by decide⟩

theorem witness_TransactionsAreTheirParts_1 : ∃ (s : State) (c : Client), s.Calm ∧ (s.port c).transaction = .none :=
  ⟨one, 3, by decide +kernel, by decide +kernel⟩

theorem witness_TransactionsAreTheirParts_2 : ∃ (s : State) (c : Client), s.inReset = true ∧
    (s.port c).transaction = .none :=
  ⟨inBoth, 3, by decide +kernel, by decide +kernel⟩

/-- Every expiry one tick before its tick: each timer at 1, a filter run of length 1, and none due yet. -/
def eve : State :=
  { busy with
    sessions := busy.sessions.map fun e => { e with tickDue := false }
    claims := busy.claims.map fun q => { q with tickDue := false }
    pads := busy.pads.set 14 { busy.pad 14 with tickDue := false } }

theorem witness_ExpiriesBringTheirTick :
    ∃ s m : State, s.Calm ∧ exec .millisecondTick s = .next m ∧ m.Calm ∧
      (s.holdDue 0 1 = false ∧ m.holdDue 0 1 = true) ∧ (s.leaseDue 0 = false ∧ m.leaseDue 0 = true) ∧
      (s.graceDue 1 = false ∧ m.graceDue 1 = true) ∧ ((s.pad 14).tickDue = false ∧ (m.pad 14).tickDue = true) :=
  ⟨eve, _, by decide +kernel, rfl, by decide +kernel, by decide +kernel, by decide +kernel, by decide +kernel,
    by decide +kernel⟩

/-- None of these commands has its event: no request is held, no trigger was handed out, no timer is near its end,
no transaction runs. -/
theorem witness_CommandsWithoutTheirEventChangeNothing_1 :
    ∃ s m : State, s.Calm ∧ (s.port 3).state ≠ .held ∧ (s.channel 5).triggerDue = false ∧
      exec .millisecondTick s = .next m ∧ (s.holdDue 3 15 = false ∧ m.holdDue 3 15 = false) ∧
      (s.leaseDue 3 = false ∧ m.leaseDue 3 = false) ∧ (s.graceDue 3 = false ∧ m.graceDue 3 = false) ∧
      ((s.pad 15).tickDue = false ∧ (m.pad 15).tickDue = false) ∧ (s.port 3).transaction = .none ∧
      s.nrstLow = false ∧ s.por = false :=
  ⟨two, _, by decide +kernel, by decide +kernel, by decide +kernel, rfl, by decide +kernel, by decide +kernel,
    by decide +kernel, by decide +kernel, by decide +kernel, by decide +kernel, by decide +kernel⟩

/-- A held FETCH is no PING, and one passed by is taken before a second request of another client (R166). -/
theorem witness_CommandsWithoutTheirEventChangeNothing_2 :
    ∃ s : State, s.Calm ∧ ((s.port 0).held.all fun f => f.command ≠ commandCode .ping) = true ∧
      ((s.port 0).held.all fun f => allCommands.any fun cmd => f.command = commandCode cmd) = true ∧
      (s.port 3).state = .held ∧ s.mayTake 3 = false ∧ s.nrstLow = false :=
  ⟨(ask (ask one 0 (frameOf .fetch 9 [1])) 3 (frameOf .ping 9 [])).setPort 0
      { (ask one 0 (frameOf .fetch 9 [1])).port 0 with passedBy := [3] },
    by decide +kernel, by decide +kernel, by decide +kernel, by decide +kernel, by decide +kernel, by decide +kernel⟩

theorem witness_CommandsWithoutTheirEventChangeNothing_3 :
    ∃ s : State, s.Calm ∧ (s.port 3).transaction ≠ .none :=
  ⟨one.setPort 3 { Port.atReset with transaction := .send }, by decide +kernel, by decide +kernel⟩

end Sys2Proof.Tests
end

section
/-! PROOFS. What a step can do, said once: the effects of a taken request on the state its owning block finds, the
events that are no request, and that an invariant which each of them keeps is kept by every step. -/

namespace Sys2Proof.Machine

open Sys2Proof

/-! ## The checks a CLAIM and a MODIFY pass (R13, R16) -/

/-- A CLAIM that passes every check of R13. -/
structure State.MayClaim (s : State) (c : Client) (a : ClaimArgs) : Prop where
  inSession : s.InSession c
  rank : a.rank ≠ 0
  hold : a.hold ≠ some 0
  role : (s.policy a.pin).role = .io
  ceiling : a.rank ≤ (s.policy a.pin).ceilings[c.val]
  new : s.claimAt c a.pin = none
  named : ∀ k : Chan, a.source.names k = true ∨ a.wait = some k → (s.channel k).state ≠ .free
  room : s.claims.length < Config.claimPool

/-- A MODIFY of the claim `q` that passes every check of R16. -/
structure State.MayModify (s : State) (c : Client) (q : Claim) (a : ModifyArgs) : Prop where
  inSession : s.InSession c
  claim : s.claimAt c a.pin = some q
  live : q.state = .live
  given : a.rank.isSome ∨ a.source.isSome
  rank : a.rank ≠ some 0
  hold : a.hold ≠ some 0
  ceiling : ∀ r ∈ a.rank, r ≤ (s.policy a.pin).ceilings[c.val]
  named : ∀ k : Chan, a.source.any (·.names k) = true ∨ a.wait = some k → (s.channel k).state ≠ .free

theorem rankOf?_ne_zero {b : Byte} {r : Rank} (h : rankOf? b = some r) : r ≠ 0 := by
  unfold rankOf? at h
  split at h
  · cases h
  · next hb =>
    unfold ceilingOf? at h
    split at h
    · cases h
      intro e
      exact hb (BitVec.eq_of_toNat_eq (by simpa using congrArg Fin.val e))
    · cases h

theorem holdField_ne_zero {x y : Option Word} (h : holdField x = some y) : y ≠ some 0 := by
  unfold holdField at h
  split at h
  · cases h; simp
  · split at h
    · cases h
    · next w hw => cases h; simpa using hw

theorem decodeClaim_ok {bs : List Byte} {a : ClaimArgs} (h : decodeClaim bs = some a) :
    a.rank ≠ 0 ∧ a.hold ≠ some 0 := by
  unfold decodeClaim at h
  dsimp only at h
  split at h
  · next hr _ hh _ => cases h; exact ⟨rankOf?_ne_zero hr, holdField_ne_zero hh⟩
  · cases h

theorem optField_isSome {α : Type} {d : Byte → Option α} {x : Option Byte} {y : Option α} (h : optField d x = some y) :
    y.isSome = x.isSome := by
  cases x with
  | none => cases h; rfl
  | some b =>
    simp only [optField, Option.map_eq_some_iff] at h
    obtain ⟨a, -, rfl⟩ := h; rfl

theorem optField_mem {α : Type} {d : Byte → Option α} {x : Option Byte} {y : Option α} (h : optField d x = some y)
    {a : α} (ha : y = some a) : ∃ b, d b = some a := by
  cases x with
  | none => cases h; cases ha
  | some b =>
    simp only [optField, Option.map_eq_some_iff] at h
    obtain ⟨a', hd, rfl⟩ := h
    cases ha; exact ⟨b, hd⟩

theorem decodeModify_ok {bs : List Byte} {a : ModifyArgs} (h : decodeModify bs = some a) :
    (a.rank.isSome ∨ a.source.isSome) ∧ a.rank ≠ some 0 ∧ a.hold ≠ some 0 := by
  unfold decodeModify at h
  dsimp only at h
  split at h
  · next hg =>
    split at h
    · next hr hs hh _ =>
      cases h
      refine ⟨?_, fun e => ?_, holdField_ne_zero hh⟩
      · have r : _ = _ := optField_isSome hr
        dsimp only
        rw [r]
        by_cases m : (byteAt bs 1).getLsbD 0 = true
        · left; simp [optByte, m]
        · right
          have m1 : (byteAt bs 1).getLsbD 1 = true := (Bool.or_eq_true_iff.mp hg).resolve_left m
          simp only [optSource, m1, if_true, Option.map_eq_some_iff] at hs
          obtain ⟨x, -, rfl⟩ := hs; rfl
      · obtain ⟨b, hb⟩ := optField_mem hr e
        exact rankOf?_ne_zero hb rfl
    · cases h
  · cases h

theorem namesFree_eq_false {s : State} {src : Option Source} {wait : Option Chan} :
    s.namesFree src wait = false ↔
      ∀ k : Chan, src.any (·.names k) = true ∨ wait = some k → (s.channel k).state ≠ .free := by
  simp only [State.namesFree, List.any_eq_false, mem_allChans, true_implies, Bool.and_eq_true, Bool.or_eq_true,
    decide_eq_true_eq]
  exact forall_congr' fun k => ⟨fun h a b => h ⟨b, a⟩, fun h ⟨b, a⟩ => h a b⟩

/-! ## The effects of a taken request -/

/-- What the owning block of a request of client `c` makes of the state it finds. -/
inductive Effect (c : Client) (s : State) : State → Prop
  | unchanged : Effect c s s
  | opens (lease : Byte) (closed : (s.session c).state = .closed) (pos : lease ≠ 0) :
      Effect c s (s.setSession c ((s.session c).openWith lease))
  | closes (inSession : s.InSession c) : Effect c s (s.teardown c .closed)
  | resets : Effect c s (s.deviceReset .resetCommand).firstSamples
  | setsPolicy (p : Pin) (e : Policy) (ok : policyOk e = true) (free : s.pinInUse p = false) :
      Effect c s (s.writePolicy p e)
  | claimsLive (a : ClaimArgs) (may : s.MayClaim c a) : Effect c s (s.claimLive c a)
  | claimsPending (a : ClaimArgs) (k : Chan) (may : s.MayClaim c a) (wait : a.wait = some k)
      (running : (s.channel k).state = .running) : Effect c s (s.claimPending c a k)
  | modifiesNow (q : Claim) (a : ModifyArgs) (may : s.MayModify c q a) : Effect c s (s.modifyNow c q a)
  | modifiesLater (q : Claim) (a : ModifyArgs) (k : Chan) (may : s.MayModify c q a) (wait : a.wait = some k)
      (running : (s.channel k).state = .running) : Effect c s (s.modifyLater c q a k)
  | releases (p : Pin) (q : Claim) (claim : s.claimAt c p = some q) : Effect c s (s.releaseClaim c p)
  | binds (k : Chan) (inSession : s.InSession c) (free : (s.channel k).state = .free) : Effect c s (s.bindTo k c)
  | configures (k : Chan) (r : Settings) (owner : (s.channel k).owner = some c)
      (idle : (s.channel k).state = .stopped ∨ (s.channel k).state = .done) (chain : s.chainCheck k r.clock = none) :
      Effect c s (s.configure k r)
  | stages (k : Chan) (x : Staged) (owner : (s.channel k).owner = some c) :
      Effect c s (s.setChannel k { s.channel k with staging := some x })
  | commits (k : Chan) (x : Staged) (owner : (s.channel k).owner = some c) :
      Effect c s (s.setChannel k ((s.channel k).commitStaged x).1)
  | cancels (k : Chan) (owner : (s.channel k).owner = some c) :
      Effect c s (s.setChannel k { s.channel k with commit := none })
  | starts (ks : List Chan) (may : ∀ k ∈ ks, (s.channel k).owner = some c ∧ (s.channel k).state.startable = true) :
      Effect c s (s.startChans ks (some c))
  | arms (k : Chan) (p : Pin) (e : Edge) (owner : (s.channel k).owner = some c)
      (idle : (s.channel k).state = .stopped ∨ (s.channel k).state = .done) :
      Effect c s (s.setChannel k { s.channel k with state := .armed, trigger := some (p, e), triggerDue := false })
  | stops (k : Chan) (owner : (s.channel k).owner = some c) (running : (s.channel k).state = .running) :
      Effect c s (s.stopRunning k c)
  | disarms (k : Chan) (owner : (s.channel k).owner = some c) (armed : (s.channel k).state = .armed) :
      Effect c s (s.disarm k)
  | releasesChannel (k : Chan) (owner : (s.channel k).owner = some c) : Effect c s (s.letGo k c)
  | adopts (k : Chan) (inSession : s.InSession c) (used : (s.channel k).state ≠ .free)
      (orphan : (s.channel k).owner = none) : Effect c s (s.adopt k c)
  | replacesWatch (w : Watch) (inSession : s.InSession c) (client : w.client = c) : Effect c s (s.setWatch w)
  | addsWatch (w : Watch) (inSession : s.InSession c) (client : w.client = c)
      (new : s.watchAt c w.pin = none) (room : s.watches.length < Config.watchPool) : Effect c s (s.addWatch w)
  | dropsWatch (p : Pin) : Effect c s (s.dropWatch c p)
  | fetches (n : Nat) (inSession : s.InSession c) (pos : 1 ≤ n) :
      Effect c s ((s.setQueue c ((s.queue c).fetch n)).syncAttention c)

theorem Effect.setPolicy (c : Client) (bs : List Byte) (s : State) : Effect c s (setPolicyAct c bs s).state := by
  unfold setPolicyAct
  split
  · exact .unchanged
  · next p e hd =>
    have ok : policyOk e = true := by
      unfold decodePolicy at hd
      split at hd
      · dsimp only at hd
        split at hd
        · next h => cases hd; exact h
        · cases hd
      · cases hd
    split
    · exact .unchanged
    · split
      · exact .unchanged
      · next hf => exact .setsPolicy p e ok (by simpa using hf)

theorem State.waitsOn_eq_some {s : State} {wait : Option Chan} {k : Chan} :
    s.waitsOn wait = some k ↔ wait = some k ∧ (s.channel k).state = .running := by
  simp [State.waitsOn, Option.filter_eq_some_iff]

theorem Effect.claim {c : Client} (bs : List Byte) {s : State} (hs : s.InSession c) :
    Effect c s (claimAct c bs s).state := by
  unfold claimAct
  split
  · exact .unchanged
  · next a hd =>
    obtain ⟨hrank, hhold⟩ := decodeClaim_ok hd
    split_ifs with hrole hceil hnew hfree hroom <;> try exact .unchanged
    have may : s.MayClaim c a :=
      { inSession := hs, rank := hrank, hold := hhold, role := by simpa using hrole
        ceiling := not_lt.mp hceil, new := by simpa using hnew
        named := fun k hk => namesFree_eq_false.mp (by simpa using hfree) k (by simpa using hk)
        room := by simpa using hroom }
    split
    · exact .claimsLive a may
    · next k hw =>
      obtain ⟨hwait, hrun⟩ := State.waitsOn_eq_some.mp hw
      exact .claimsPending a k may hwait hrun

theorem Effect.modify {c : Client} (bs : List Byte) {s : State} (hs : s.InSession c) :
    Effect c s (modifyAct c bs s).state := by
  unfold modifyAct
  split
  · exact .unchanged
  · next a hd =>
    obtain ⟨hgiven, hrank, hhold⟩ := decodeModify_ok hd
    split
    · exact .unchanged
    · next q hq =>
      split_ifs with hlive hceil hfree <;> try exact .unchanged
      have may : s.MayModify c q a :=
        { inSession := hs, claim := hq, live := by simpa using hlive, given := hgiven, rank := hrank, hold := hhold
          ceiling := fun r hr => by
            rw [Option.mem_def.mp hr, Option.any_some] at hceil
            exact not_lt.mp fun hlt => hceil (decide_eq_true hlt)
          named := namesFree_eq_false.mp (by simpa using hfree) }
      split
      · exact .modifiesNow q a may
      · next k hw =>
        obtain ⟨hwait, hrun⟩ := State.waitsOn_eq_some.mp hw
        dsimp only
        exact .modifiesLater q a k may hwait hrun

theorem stopped_or_done {x : ChanState} (h : ¬(decide (x ≠ .stopped) && decide (x ≠ .done)) = true) :
    x = .stopped ∨ x = .done := by
  simp only [Bool.and_eq_true, decide_eq_true_eq, not_and_or, not_not] at h
  exact h

theorem Effect.configure (c : Client) (bs : List Byte) (s : State) : Effect c s (configureAct c bs s).state := by
  unfold configureAct
  split
  · exact .unchanged
  · next k r _ =>
    split_ifs with howner hstate <;> try exact .unchanged
    split
    · exact .unchanged
    · next hchain => dsimp only; exact .configures k r (by simpa using howner) (stopped_or_done hstate) hchain

theorem Effect.bind {c : Client} (bs : List Byte) {s : State} (hs : s.InSession c) :
    Effect c s (bindAct c bs s).state := by
  unfold bindAct
  split
  · split
    · exact .unchanged
    · next k hk => exact .binds k hs (by simpa using List.find?_some hk)
  · split
    · exact .unchanged
    · next k _ =>
      split_ifs with hfree
      · exact .unchanged
      · exact .binds k hs (by simpa using hfree)

theorem State.groupFail_eq_none {s : State} {c : Client} {bs : List Byte} :
    ∀ {earlier : List Byte}, s.groupFail c earlier bs = none →
      ∀ k ∈ bs.filterMap chanOf?, (s.channel k).owner = some c ∧ (s.channel k).state.startable = true := by
  induction bs with
  | nil => simp
  | cons b bs ih =>
    intro earlier h k hk
    unfold State.groupFail at h
    split at h
    · cases h
    · next hb =>
      rw [List.filterMap_cons] at hk
      unfold State.groupCheck at hb
      split at hb
      · cases hb
      · next j hj =>
        rw [hj] at hk
        obtain rfl | hk := List.mem_cons.mp hk
        · split_ifs at hb with _ howner hst
          exact ⟨by simpa using howner, by simpa using hst⟩
        · exact ih h k hk

theorem Effect.stage (c : Client) (bs : List Byte) (s : State) : Effect c s (stageAct c bs s).state := by
  unfold stageAct
  split
  · exact .unchanged
  · next k _ =>
    split
    · exact .unchanged
    next ho =>
    have howner : (s.channel k).owner = some c := by simpa using ho
    dsimp only
    split
    · exact .unchanged
    · exact .stages k _ howner

theorem Effect.commit (c : Client) (bs : List Byte) (s : State) : Effect c s (commitAct c bs s).state := by
  unfold commitAct
  split
  · exact .unchanged
  · next k _ =>
    split
    · exact .unchanged
    next ho =>
    have howner : (s.channel k).owner = some c := by simpa using ho
    dsimp only
    split
    · exact .unchanged
    · exact .commits k _ howner

theorem Effect.cancel (c : Client) (bs : List Byte) (s : State) : Effect c s (cancelAct c bs s).state := by
  unfold cancelAct
  split
  · exact .unchanged
  · next k _ =>
    split
    · exact .unchanged
    next ho =>
    have howner : (s.channel k).owner = some c := by simpa using ho
    dsimp only
    split
    · exact .unchanged
    · exact .cancels k howner

theorem Effect.start (c : Client) (bs : List Byte) (s : State) : Effect c s (startAct c bs s).state := by
  unfold startAct
  split
  · exact .unchanged
  · next k _ =>
    split
    · exact .unchanged
    next ho =>
    have howner : (s.channel k).owner = some c := by simpa using ho
    split_ifs with hst
    · exact .unchanged
    · exact .starts [k] (by simpa [howner] using hst)

theorem Effect.startGroup (c : Client) (bs : List Byte) (s : State) :
    Effect c s (startGroupAct c bs s).state := by
  unfold startGroupAct
  split
  · exact .unchanged
  · next h => exact .starts _ (State.groupFail_eq_none h)

theorem Effect.arm (c : Client) (bs : List Byte) (s : State) : Effect c s (armAct c bs s).state := by
  unfold armAct
  split
  · exact .unchanged
  · next k p e _ =>
    split_ifs with howner hstate <;> try exact .unchanged
    exact .arms k p e (by simpa using howner) (stopped_or_done hstate)

theorem Effect.stop (c : Client) (bs : List Byte) (s : State) : Effect c s (stopAct c bs s).state := by
  unfold stopAct
  split
  · exact .unchanged
  · next k _ =>
    split
    · exact .unchanged
    next ho =>
    have howner : (s.channel k).owner = some c := by simpa using ho
    split
    · next h => exact .stops k howner h
    · next h => exact .disarms k howner h
    all_goals exact .unchanged

theorem Effect.releaseChannel (c : Client) (bs : List Byte) (s : State) :
    Effect c s (releaseChannelAct c bs s).state := by
  unfold releaseChannelAct
  split
  · exact .unchanged
  · next k _ =>
    split_ifs with howner
    · exact .unchanged
    · dsimp only
      exact .releasesChannel k (by simpa using howner)

theorem Effect.adopt {c : Client} (bs : List Byte) {s : State} (hs : s.InSession c) :
    Effect c s (adoptAct c bs s).state := by
  unfold adoptAct
  split
  · exact .unchanged
  · next k _ =>
    split_ifs with hfree howner <;> try exact .unchanged
    exact .adopts k hs hfree (by simpa using howner)

theorem Effect.release (c : Client) (bs : List Byte) (s : State) : Effect c s (releaseAct c bs s).state := by
  unfold releaseAct
  split
  · exact .unchanged
  · next p _ =>
    split
    · exact .unchanged
    · next q hq => exact .releases p q hq

theorem Effect.watch {c : Client} (bs : List Byte) {s : State} (hs : s.InSession c) :
    Effect c s (watchAct c bs s).state := by
  unfold watchAct
  split
  · exact .unchanged
  · next p e _ =>
    split
    · exact .replacesWatch _ hs rfl
    · next hw =>
      split_ifs with hroom
      · exact .unchanged
      · exact .addsWatch _ hs rfl hw (by simpa using hroom)

theorem Effect.unwatch (c : Client) (bs : List Byte) (s : State) : Effect c s (unwatchAct c bs s).state := by
  unfold unwatchAct
  split
  · exact .unchanged
  · next p _ =>
    split
    · exact .unchanged
    · exact .dropsWatch p

theorem Effect.fetch {c : Client} (bs : List Byte) {s : State} (hs : s.InSession c) :
    Effect c s (fetchAct c bs s).state := by
  unfold fetchAct
  dsimp only
  split_ifs with hn
  · exact .fetches _ hs (by simp at hn; exact hn.1)
  · exact .unchanged

theorem Effect.openSession (c : Client) (bs : List Byte) (s : State) : Effect c s (openAct c bs s).state := by
  unfold openAct
  dsimp only
  split_ifs with hl hc <;> try exact .unchanged
  exact .opens _ (by simpa using hc) hl

theorem Effect.resetAll (c : Client) (bs : List Byte) (s : State) : Effect c s (resetAllAct c bs s).state := by
  unfold resetAllAct
  split_ifs
  · exact .resets
  · exact .unchanged

/-- What the owning block does is one of the effects, whatever the payload. -/
theorem actOf_effect {c : Client} {cmd : Command} (bs : List Byte) {s : State}
    (hs : needsSession cmd = true → s.InSession c) : Effect c s (actOf c cmd bs s).state := by
  cases cmd with
  | openSession => exact .openSession c bs s
  | closeSession => exact .closes (hs rfl)
  | ping => exact .unchanged
  | resetAll => exact .resetAll c bs s
  | getPolicy => dsimp only [actOf, getPolicyAct]; split <;> exact .unchanged
  | setPolicy => exact .setPolicy c bs s
  | claim => exact .claim bs (hs rfl)
  | modify => exact .modify bs (hs rfl)
  | release => exact .release c bs s
  | queryPin => dsimp only [actOf, queryPinAct]; split <;> exact .unchanged
  | bind => exact .bind bs (hs rfl)
  | configure => exact .configure c bs s
  | stage => exact .stage c bs s
  | commit => exact .commit c bs s
  | cancel => exact .cancel c bs s
  | start => exact .start c bs s
  | arm => exact .arm c bs s
  | stop => exact .stop c bs s
  | startGroup => exact .startGroup c bs s
  | releaseChannel => exact .releaseChannel c bs s
  | adopt => exact .adopt bs (hs rfl)
  | readChannel => dsimp only [actOf, readChannelAct]; split <;> exact .unchanged
  | watch => exact .watch bs (hs rfl)
  | unwatch => exact .unwatch c bs s
  | readPins => exact .unchanged
  | fetch => exact .fetch bs (hs rfl)

theorem State.inSession_taken {s : State} {c d : Client} : (s.taken c).InSession d ↔ s.InSession d := by
  simp only [State.InSession, State.taken, State.passing_session, State.session_renew]
  split
  · next e => subst e; simp
  · rfl

/-- What the dispatcher does is one of the effects on the state it finds. -/
theorem served_effect (s : State) (c : Client) (cmd : Command) (pl : List Byte) :
    Effect c (s.taken c) (s.served c cmd pl).state := by
  unfold State.served State.serve
  split_ifs with hn hl
  · exact .unchanged
  · exact .unchanged
  · refine actOf_effect pl fun h => ?_
    simpa [h] using hn

/-! ## The events that are no request -/

/-- What a transaction, an event of a channel, a pad or a timer, or a reset does to the part. A base tick is apart:
it comes once the part has caught up with the last one (`Keeps.base`). -/
inductive Event (s : State) : State → Prop
  | edge (p : Pin) (other : ∀ o ∈ s.edgeOwed, o.1 ≠ p) : Event s (s.takeEdge p)
  | edgeBegins (p : Pin) (none : s.edgeOwed = none) (out : s.inReset = false) : Event s (s.beginEdge p)
  | edgeEnds : Event s s.endEdge
  | input (k : Chan) (running : (s.channel k).state = .running) : Event s (s.takeInput k)
  | trigger (k : Chan) (armed : (s.channel k).state = .armed) (due : (s.channel k).triggerDue = true) :
      Event s (s.startChans [k] none)
  | board (p : Pin) (b : BoardLevel) : Event s (s.boardChange p b)
  | tick : Event s s.tickComes
  | hold (c : Client) (p : Pin) (due : s.holdDue c p = true) : Event s (s.expireHold c p)
  | lease (c : Client) (due : s.leaseDue c = true) : Event s (s.expireLease c)
  | grace (c : Client) (due : s.graceDue c = true) : Event s (s.expireGrace c)
  | bus (c : Client) (kind : Byte) (part : BusPart) : Event s (s.bus c kind part)
  | reset (cause : ResetCause) (por nrstLow : Bool) :
      Event s { s.deviceReset cause with por := por, nrstLow := nrstLow }
  | resetLasts (por nrstLow : Bool) (before : s.inReset = true) (after : (por || nrstLow) = true) :
      Event s { s with por := por, nrstLow := nrstLow }
  | resetEnds (por nrstLow : Bool) (before : s.inReset = true) (after : (por || nrstLow) = false) :
      Event s ({ s with por := por, nrstLow := nrstLow } : State).firstSamples

/-- What an invariant has to survive for the part to settle and to catch up with what waits. -/
structure Survives (Inv : State → Prop) : Prop where
  event : ∀ s t : State, Inv s → Event s t → Inv t

/-- What an invariant has to survive for every step to keep it. `base`: a base tick comes once the part has caught up
with the last one; `request`: the effect of a taken request and its reply in the slot. -/
structure Keeps (Inv : State → Prop) : Prop extends Survives Inv where
  pending : ∀ (s : State) (l : List Instr), Inv s → Inv { s with pending := l }
  base : ∀ s : State, Inv s → Inv s.catchUp → Inv s.catchUp.baseTick
  request : ∀ (s u : State) (c : Client) (tag : Byte) (st : Status) (pl : List Byte), Inv s → s.Calm →
    (s.port c).state = .held → Effect c (s.taken c) u → Inv (u.answer c tag st pl)

section

variable {Inv : State → Prop}

/-! ## Settling and catching up -/

theorem foldl_inv {α : Type} {P : State → Prop} {f : State → α → State} {l : List α}
    (h : ∀ (s : State) (a : α), a ∈ l → P s → P (f s a)) {s : State} (hs : P s) : P (l.foldl f s) :=
  List.foldlRecOn l f hs fun t ht a ha => h t a ha ht

theorem repeat_inv {P : State → Prop} {f : State → State} (h : ∀ s : State, P s → P (f s)) (n : Nat) {s : State}
    (hs : P s) : P (Nat.repeat f n s) := by
  induction n with
  | zero => exact hs
  | succ n ih => exact h _ ih

/-- Edges that are taken at pins for which no notice is owed. -/
theorem Survives.foldl_follow (k : Survives Inv) {l : List Pin} {s : State} (hs : Inv s)
    (ho : ∀ o ∈ s.edgeOwed, o.1 ∉ l) : Inv (l.foldl State.follow s) := by
  refine (foldl_inv (P := fun t => Inv t ∧ t.edgeOwed = s.edgeOwed) (fun t p hp ⟨ht, he⟩ => ?_) ⟨hs, rfl⟩).1
  refine ⟨?_, by rw [State.follow_edgeOwed, he]⟩
  unfold State.follow
  split
  · exact k.event _ _ ht (.edge p fun o hm e => ho o (he ▸ hm) (e ▸ hp))
  · exact ht

theorem Survives.settle (k : Survives Inv) {s : State} (hs : Inv s) : Inv s.settle := by
  unfold State.settle
  split
  · exact hs
  · exact k.foldl_follow (k.event _ _ hs .edgeEnds) (by simp)

theorem Survives.ready (k : Survives Inv) {s : State} (hs : Inv s) (i : Chan) : Inv (s.ready i) := by
  unfold State.ready
  split
  · exact k.settle hs
  · next p e _ =>
    split_ifs with hr hw hc
    · exact hs
    · refine k.foldl_follow hs fun o hm => ?_
      have ho : s.edgeOwed.any (fun x => decide (x.1 = p)) = true := by simp_all
      rw [Option.mem_def.mp hm] at ho
      simpa using ho
    · refine k.event _ _ (k.foldl_follow (k.event _ _ hs .edgeEnds) (by simp)) (.edgeBegins p ?_ ?_)
      · rw [foldl_keeps (g := State.edgeOwed) (fun _ _ => State.follow_edgeOwed ..)]; simp
      · rw [State.inReset_congr (s := s)]
        · simpa using hr
        · rw [foldl_keeps (g := State.por) (fun _ _ => State.follow_por ..)]; simp
        · rw [foldl_keeps (g := State.nrstLow) (fun _ _ => State.follow_nrstLow ..)]; simp
    · exact k.settle hs

theorem Survives.takeOne (k : Survives Inv) {s : State} (hs : Inv s) (i : Chan) : Inv (s.takeOne i) := by
  unfold State.takeOne
  split_ifs with ha hi
  · simp only [Bool.and_eq_true, decide_eq_true_eq] at ha
    exact k.event _ _ hs (.trigger i ha.1 ha.2)
  · simp only [Bool.and_eq_true, decide_eq_true_eq] at hi
    exact k.event _ _ hs (.input i hi.1)
  · exact hs

theorem Survives.takeWaiting (k : Survives Inv) {s : State} (hs : Inv s) (i : Chan) : Inv (s.takeWaiting i) := by
  unfold State.takeWaiting
  split
  · exact repeat_inv (fun t ht => k.settle (k.takeOne ht i)) _ hs
  · exact hs

theorem Survives.takeAllWaiting (k : Survives Inv) {s : State} (hs : Inv s) : Inv s.takeAllWaiting := by
  unfold State.takeAllWaiting
  exact foldl_inv (P := Inv) (f := State.takeWaiting) (l := allChans) (fun _ i _ ht => k.takeWaiting ht i) hs

theorem Survives.catchUp (k : Survives Inv) {s : State} (hs : Inv s) : Inv s.catchUp :=
  repeat_inv (fun _ ht => k.takeAllWaiting ht) 6 hs

/-- A clock input is taken at a RUNNING channel, from the state as it is or at the base tick that comes. -/
theorem State.inputReady_running {s t : State} {i : Chan} (h : s.inputReady i = some t) :
    (t = s ∨ t = s.catchUp.baseTick) ∧ (t.channel i).state = .running := by
  unfold State.inputReady at h
  split_ifs at h with hr hd hb
  · exact ⟨.inl (Option.some.inj h).symm, Option.some.inj h ▸ by simpa using hr⟩
  · rw [← Option.some.inj h]
    refine ⟨.inr rfl, ?_⟩
    revert hb
    generalize s.catchUp = u
    intro hb
    simp only [Bool.and_eq_true, decide_eq_true_eq] at hb
    simp only [State.baseTick, State.channel_mapChannels]
    split
    · exact hb.2
    · exact hb.2

theorem Keeps.clocked (k : Keeps Inv) {s : State} (hs : Inv s) (i : Chan) (asked : InputKind → Bool) :
    Inv (s.clocked i asked) := by
  have hr := k.ready hs i
  unfold State.clocked
  split
  · next t ht =>
    obtain ⟨hc, run⟩ := State.inputReady_running ht
    have inv : Inv t := by
      obtain rfl | rfl := hc
      · exact hr
      · exact k.base _ hr (k.catchUp hr)
    split
    · exact k.event _ _ inv (.input i run)
    · exact k.settle hs
  · exact k.settle hs

theorem Keeps.triggered (k : Keeps Inv) {s : State} (hs : Inv s) (i : Chan) : Inv (s.triggered i) := by
  unfold State.triggered
  dsimp only
  split_ifs with ha
  · simp only [Bool.and_eq_true, decide_eq_true_eq] at ha
    exact k.event _ _ (k.ready hs i) (.trigger i ha.1 ha.2)
  · exact k.settle hs

/-! ## Ticks -/

/-- Nothing is owed once everything has been settled out of reset. -/
theorem State.edgeOwed_settle {s : State} (h : s.edgeOwed = none) : s.settle.edgeOwed = none := by
  unfold State.settle
  split
  · exact h
  · rw [foldl_keeps (g := State.edgeOwed) (fun _ _ => State.follow_edgeOwed ..)]; simp

theorem Keeps.takeDue (k : Keeps Inv) {s : State} (hs : Inv s) (ho : s.edgeOwed = none) :
    Inv s.takeDue ∧ s.takeDue.edgeOwed = none := by
  obtain ⟨P, hP⟩ : ∃ P : State → Prop, ∀ t, P t ↔ Inv t ∧ t.edgeOwed = none := ⟨_, fun _ => Iff.rfl⟩
  have settled : ∀ t, P t → P t.settle := fun t ht =>
    (hP _).mpr ⟨k.settle ((hP t).mp ht).1, State.edgeOwed_settle ((hP t).mp ht).2⟩
  have event : ∀ t u, P t → Event t u → u.edgeOwed = t.edgeOwed → P u := fun t u ht he e =>
    (hP _).mpr ⟨k.event _ _ ((hP t).mp ht).1 he, e.trans ((hP t).mp ht).2⟩
  refine (hP _).mp ?_
  unfold State.takeDue
  refine foldl_inv (fun t p _ ht => ?_) (foldl_inv (fun t c _ ht => ?_)
    (foldl_inv (fun t p _ ht => foldl_inv (fun u c _ hu => ?_) ht) ((hP s).mpr ⟨hs, ho⟩)))
  · split
    · exact event _ _ ht (.edge p (by simp [((hP t).mp ht).2])) (by simp)
    · exact ht
  · split_ifs with hl hg
    · exact event _ _ ht (.lease c hl) (by simp)
    · exact settled _ (event _ _ ht (.grace c hg) (by simp))
    · exact ht
  · split
    · next hd => exact settled _ (event _ _ hu (.hold c p hd) (by simp))
    · exact hu

theorem Keeps.nextTick (k : Keeps Inv) {s : State} (hs : Inv s) (ho : s.inReset = false → s.edgeOwed = none) :
    Inv s.nextTick ∧ (s.nextTick.inReset = false → s.nextTick.edgeOwed = none) := by
  unfold State.nextTick
  split
  · exact ⟨hs, ho⟩
  · next hr =>
    obtain ⟨hd, he⟩ := k.takeDue hs (ho (by simpa using hr))
    exact ⟨k.event _ _ hd .tick, fun _ => by simpa using he⟩

theorem State.settle_nothing_owed {s : State} (hr : s.settle.inReset = false) : s.settle.edgeOwed = none := by
  rw [State.inReset_congr (State.settle_por s) (State.settle_nrstLow s)] at hr
  exact (State.settle_calm hr).2.2

theorem Keeps.ofTick (k : Keeps Inv) {s : State} (hs : Inv s) {due : State → Bool} {event : State → State}
    (h : ∀ t, Inv t → due t = true → (s.inReset = false → t.edgeOwed = none) → Inv (event t)) :
    Inv (s.settle.ofTick due event) := by
  have hs' := k.settle hs
  have owed : s.settle.inReset = false → s.settle.edgeOwed = none := State.settle_nothing_owed
  have hr : s.settle.inReset = s.inReset := State.inReset_congr (State.settle_por s) (State.settle_nrstLow s)
  have hr' : s.settle.nextTick.inReset = s.inReset := State.inReset_congr (by simp) (by simp)
  obtain ⟨hn, owed'⟩ := k.nextTick hs' owed
  unfold State.ofTick
  split_ifs with hd hd'
  · exact h _ hs' hd fun e => owed (hr.trans e)
  · exact h _ hn hd' fun e => owed' (hr'.trans e)
  · exact hs'

/-! ## Commands -/

theorem State.heldFrame_eq_some {s : State} {c : Client} {f : Frame} (h : s.heldFrame c = some f) :
    s.inReset = false ∧ (s.port c).state = .held := by
  unfold State.heldFrame at h
  split_ifs at h with hr hp
  simp only [Bool.and_eq_true, decide_eq_true_eq] at hp
  exact ⟨by simpa using hr, hp.1⟩

theorem State.settle_calm_of_heldFrame {s : State} {c : Client} {f : Frame} (h : s.settle.heldFrame c = some f) :
    s.settle.Calm := by
  refine State.settle_calm ?_
  rw [← State.inReset_congr (State.settle_por s) (State.settle_nrstLow s)]
  exact (State.heldFrame_eq_some h).1

theorem Keeps.take (k : Keeps Inv) {s : State} (hs : Inv s) (c : Client) (cmd : Command) :
    Inv (s.take c cmd (actOf c cmd)) := by
  have hs' := k.settle hs
  unfold State.take
  dsimp only
  split
  · exact hs'
  · next f hf =>
    split
    · exact k.request _ _ c _ _ _ hs' (State.settle_calm_of_heldFrame hf) (State.heldFrame_eq_some hf).2
        (served_effect _ c cmd f.payload)
    · exact hs'

theorem Keeps.takeUnknown (k : Keeps Inv) {s : State} (hs : Inv s) (c : Client) : Inv (s.takeUnknown c) := by
  have hs' := k.settle hs
  unfold State.takeUnknown
  dsimp only
  split
  · exact hs'
  · next f hf =>
    split
    · exact k.request _ _ c _ _ _ hs' (State.settle_calm_of_heldFrame hf) (State.heldFrame_eq_some hf).2 .unchanged
    · exact hs'

theorem Keeps.filteredEdge (k : Keeps Inv) {s t : State} (hs : Inv s) {p : Pin}
    (ht : execFilteredEdge p s = .next t) : Inv t := by
  have he := k.event _ _ hs .edgeEnds
  unfold execFilteredEdge at ht
  split_ifs at ht <;> cases ht
  · exact hs
  · exact he
  · exact k.event _ _ he (.edge p (by simp))
  · next hr _ _ => exact k.ofTick hs fun u hu _ ho => k.event _ _ hu (.edge p (by simp [ho (by simpa using hr)]))

theorem Keeps.powerOnResetEnd (k : Keeps Inv) {s t : State} (hs : Inv s) (ht : execPowerOnResetEnd s = .next t) :
    Inv t := by
  unfold execPowerOnResetEnd at ht
  split_ifs at ht with hp hn <;> cases ht
  · exact k.event _ _ hs (.resetLasts false s.nrstLow (by simp [State.inReset, hp]) (by simpa using hn))
  · exact k.event _ _ hs (.resetEnds false s.nrstLow (by simp [State.inReset, hp]) (by simpa using hn))
  · exact hs

theorem Keeps.nrst (k : Keeps Inv) {s t : State} (hs : Inv s) (ht : execNrst s = .next t) : Inv t := by
  unfold execNrst at ht
  split_ifs at ht with hn hp <;> cases ht
  · exact hs
  · exact k.event _ _ hs (.resetLasts s.por true (by simp [State.inReset, hp]) (by simp))
  · exact k.event _ _ hs (.reset .resetPin s.por true)

theorem Keeps.resetEnd (k : Keeps Inv) {s t : State} (hs : Inv s) (ht : execResetEnd s = .next t) : Inv t := by
  unfold execResetEnd at ht
  split_ifs at ht with hn hp <;> cases ht
  · exact k.event _ _ hs (.resetLasts s.por false (by simp [State.inReset, hp]) (by simpa using hp))
  · exact k.event _ _ hs (.resetEnds s.por false (by simp [State.inReset, hn]) (by simpa using hp))
  · exact hs

/-- A request command is the taking of its request. -/
theorem Keeps.requestAt (k : Keeps Inv) {s t : State} (hs : Inv s) {c : Client} {cmd : Command}
    (ht : exec (requestAt c cmd) s = .next t) : Inv t := by
  rw [exec_requestAt] at ht
  cases ht
  exact k.take hs c cmd

/-- What survives the effects and the events survives every command. -/
theorem Keeps.exec (k : Keeps Inv) {i : Instr} {s t : State} (hs : Inv s) (ht : exec i s = .next t) : Inv t := by
  cases i with
  | openSession c => exact k.requestAt (cmd := .openSession) hs ht
  | closeSession c => exact k.requestAt (cmd := .closeSession) hs ht
  | ping c => exact k.requestAt (cmd := .ping) hs ht
  | resetAll c => exact k.requestAt (cmd := .resetAll) hs ht
  | getPolicy c => exact k.requestAt (cmd := .getPolicy) hs ht
  | setPolicy c => exact k.requestAt (cmd := .setPolicy) hs ht
  | claim c => exact k.requestAt (cmd := .claim) hs ht
  | modify c => exact k.requestAt (cmd := .modify) hs ht
  | release c => exact k.requestAt (cmd := .release) hs ht
  | queryPin c => exact k.requestAt (cmd := .queryPin) hs ht
  | bind c => exact k.requestAt (cmd := .bind) hs ht
  | configure c => exact k.requestAt (cmd := .configure) hs ht
  | stage c => exact k.requestAt (cmd := .stage) hs ht
  | commit c => exact k.requestAt (cmd := .commit) hs ht
  | cancel c => exact k.requestAt (cmd := .cancel) hs ht
  | start c => exact k.requestAt (cmd := .start) hs ht
  | arm c => exact k.requestAt (cmd := .arm) hs ht
  | stop c => exact k.requestAt (cmd := .stop) hs ht
  | startGroup c => exact k.requestAt (cmd := .startGroup) hs ht
  | releaseChannel c => exact k.requestAt (cmd := .releaseChannel) hs ht
  | adopt c => exact k.requestAt (cmd := .adopt) hs ht
  | readChannel c => exact k.requestAt (cmd := .readChannel) hs ht
  | watch c => exact k.requestAt (cmd := .watch) hs ht
  | unwatch c => exact k.requestAt (cmd := .unwatch) hs ht
  | readPins c => exact k.requestAt (cmd := .readPins) hs ht
  | fetch c => exact k.requestAt (cmd := .fetch) hs ht
  | unknownCommand c => cases ht; exact k.takeUnknown hs c
  | write c part => cases ht; exact k.event _ _ (k.settle hs) (.bus c _ part)
  | read c part => cases ht; exact k.event _ _ (k.settle hs) (.bus c _ part)
  | ignoredTransaction c kind part => cases ht; exact k.event _ _ hs (.bus c kind part)
  | clockInput i => cases ht; exact k.clocked hs i _
  | channelTick i => cases ht; exact k.clocked hs i _
  | periodBoundary i => cases ht; exact k.clocked hs i _
  | triggerEdge i => cases ht; exact k.triggered hs i
  | pinLevelChange p b => cases ht; exact k.event _ _ (k.settle hs) (.board p b)
  | filteredEdge p => exact k.filteredEdge hs ht
  | holdExpiry c p => cases ht; exact k.ofTick hs fun u hu hd _ => k.event _ _ hu (.hold c p hd)
  | leaseExpiry c => cases ht; exact k.ofTick hs fun u hu hd _ => k.event _ _ hu (.lease c hd)
  | graceExpiry c => cases ht; exact k.ofTick hs fun u hu hd _ => k.event _ _ hu (.grace c hd)
  | powerOn => cases ht; exact k.event _ _ hs (.reset .powerOn true s.nrstLow)
  | nrst => exact k.nrst hs ht
  | resetEnd => exact k.resetEnd hs ht
  | millisecondTick => cases ht; exact (k.nextTick (k.settle hs) State.settle_nothing_owed).1
  | powerOnResetEnd => exact k.powerOnResetEnd hs ht

/-- What survives the effects and the events survives every step. -/
theorem Keeps.step (k : Keeps Inv) {s t : State} (hs : Inv s) (ht : step s = .next t) : Inv t :=
  step_keeps k.pending (fun _ _ _ h he => k.exec h he) hs ht

end

end Sys2Proof.Machine
end

section
/-! PROOFS. The claim pool, the claim lists and the waiting lists (R1, R2, R4, R5): what every change of the pool keeps. -/

namespace Sys2Proof.Machine

open Sys2Proof

/-! ## The laws, seen through a client's claim on a pin -/

/-- At most one claim per pin and client (R2). -/
abbrev State.Unique (s : State) : Prop := (s.claims.map fun q => (q.client, q.pin)).Nodup

/-- The client has a LIVE claim on the pin. -/
def State.Lives (s : State) (c : Client) (p : Pin) : Prop := ∃ q, s.claimAt c p = some q ∧ q.state = .live

/-- The client's claim on the pin waits on the channel. -/
def State.WaitsFor (s : State) (c : Client) (p : Pin) (k : Chan) : Prop :=
  ∃ q, s.claimAt c p = some q ∧ q.wait = some k

theorem State.exists_claim_iff {s : State} (hu : s.Unique) {c : Client} {p : Pin} {P : Claim → Prop} :
    (∃ q ∈ s.claims, q.client = c ∧ q.pin = p ∧ P q) ↔ ∃ q, s.claimAt c p = some q ∧ P q := by
  refine exists_congr fun q => ?_
  rw [State.claimAt_iff hu]
  tauto

theorem State.listsOk_iff {s : State} (hu : s.Unique) : s.ListsOk ↔ ∀ p : Pin, (s.claimList p).Nodup ∧
    (∀ c : Client, c ∈ s.claimList p ↔ s.Lives c p) ∧
    (s.claimList p).Pairwise fun a b => s.rankAt b p ≤ s.rankAt a p := by
  simp only [State.ListsOk, State.exists_claim_iff hu, State.Lives]

/-- The part of `WaitsOk` that speaks of the pool and the lists alone. -/
def State.WaitsHeld (s : State) : Prop :=
  ∀ k : Chan, (s.waitList k).Nodup ∧ ∀ (c : Client) (p : Pin), (c, p) ∈ s.waitList k ↔ s.WaitsFor c p k

/-- A channel on which a claim waits is RUNNING (R50). -/
def State.WaitsRun (s : State) : Prop := ∀ k : Chan, s.waitList k ≠ [] → (s.channel k).state = .running

theorem State.waitsOk_iff {s : State} (hu : s.Unique) : s.WaitsOk ↔ s.WaitsHeld ∧ s.WaitsRun := by
  simp only [State.WaitsOk, State.exists_claim_iff hu, State.WaitsHeld, State.WaitsRun, State.WaitsFor]
  exact ⟨fun h => ⟨fun k => ⟨(h k).1, (h k).2.1⟩, fun k => (h k).2.2⟩, fun h k => ⟨(h.1 k).1, (h.1 k).2, h.2 k⟩⟩

section
variable {s t : State}

theorem State.lives_congr (h : t.claims = s.claims) {c : Client} {p : Pin} : t.Lives c p ↔ s.Lives c p := by
  simp only [State.Lives, State.claimAt_congr h]

theorem State.waitsFor_congr (h : t.claims = s.claims) {c : Client} {p : Pin} {k : Chan} :
    t.WaitsFor c p k ↔ s.WaitsFor c p k := by simp only [State.WaitsFor, State.claimAt_congr h]

theorem State.PoolOk.congr (hs : s.PoolOk) (h : t.claims = s.claims) : t.PoolOk := by
  simp only [State.PoolOk, h]; exact hs

theorem State.ListsOk.congr (hs : s.ListsOk) (h : t.claims = s.claims) (hl : t.claimLists = s.claimLists) :
    t.ListsOk := by
  simp only [State.ListsOk, h, State.claimList_congr hl, State.rankAt_congr h]; exact hs

theorem State.WaitsHeld.congr (hs : s.WaitsHeld) (h : t.claims = s.claims) (hw : t.waitLists = s.waitLists) :
    t.WaitsHeld := by
  simp only [State.WaitsHeld, State.waitsFor_congr h, State.waitList_congr hw]; exact hs

theorem State.WaitsRun.congr (hs : s.WaitsRun) (hw : t.waitLists = s.waitLists)
    (hc : ∀ k : Chan, s.waitList k ≠ [] → (s.channel k).state = .running → (t.channel k).state = .running) :
    t.WaitsRun := fun k hk => by
  rw [State.waitList_congr hw] at hk
  exact hc k hk (hs k hk)

theorem State.WaitsOk.congr (hs : s.WaitsOk) (h : t.claims = s.claims) (hw : t.waitLists = s.waitLists)
    (hc : ∀ k : Chan, s.waitList k ≠ [] → (s.channel k).state = .running → (t.channel k).state = .running) :
    t.WaitsOk := fun k => by
  rw [h, State.waitList_congr hw]
  exact ⟨(hs k).1, (hs k).2.1, fun hk => hc k hk ((hs k).2.2 hk)⟩

end

/-! ## The changes of the pool -/

/-- A claim that joins the pool (R14, R15). -/
def State.addClaim (s : State) (q : Claim) : State := { s with claims := s.claims ++ [q] }

@[simp] theorem State.addClaim_claims (s : State) (q : Claim) : (s.addClaim q).claims = s.claims ++ [q] := rfl
@[simp] theorem State.addClaim_claimLists (s : State) (q : Claim) : (s.addClaim q).claimLists = s.claimLists := rfl
@[simp] theorem State.addClaim_waitLists (s : State) (q : Claim) : (s.addClaim q).waitLists = s.waitLists := rfl
@[simp] theorem State.addClaim_channels (s : State) (q : Claim) : (s.addClaim q).channels = s.channels := rfl
@[simp] theorem State.addClaim_claimList (s : State) (q : Claim) (p : Pin) :
    (s.addClaim q).claimList p = s.claimList p := rfl
@[simp] theorem State.addClaim_waitList (s : State) (q : Claim) (k : Chan) :
    (s.addClaim q).waitList k = s.waitList k := rfl

theorem State.claimAt_addClaim (s : State) (q : Claim) (c : Client) (p : Pin) :
    (s.addClaim q).claimAt c p = (s.claimAt c p).or (if q.client = c ∧ q.pin = p then some q else none) :=
  s.claimAt_append q c p

theorem claim_setClaim_ids (l : List Claim) (q : Claim) :
    ((l.map fun r => if r.client = q.client && r.pin = q.pin then q else r).map fun r => (r.client, r.pin)) =
      l.map fun r => (r.client, r.pin) := by
  rw [List.map_map]
  refine List.map_congr_left fun r _ => ?_
  simp only [Function.comp]
  split
  · next h =>
    simp only [Bool.and_eq_true, decide_eq_true_eq] at h
    rw [h.1, h.2]
  · rfl

theorem State.PoolOk.setClaim {s : State} (h : s.PoolOk) {q : Claim} (hq : q.Ok) : (s.setClaim q).PoolOk := by
  obtain ⟨hlen, huniq, hok⟩ := h
  refine ⟨by simpa [State.setClaim] using hlen, ?_, fun r hr => ?_⟩
  · simp only [State.setClaim, claim_setClaim_ids]; exact huniq
  · simp only [State.setClaim, List.mem_map] at hr
    obtain ⟨r', hr', rfl⟩ := hr
    split
    · exact hq
    · exact hok r' hr'

theorem State.PoolOk.addClaim {s : State} (h : s.PoolOk) {q : Claim} (hq : q.Ok) (new : s.claimAt q.client q.pin = none)
    (room : s.claims.length < Config.claimPool) : (s.addClaim q).PoolOk := by
  obtain ⟨-, huniq, hok⟩ := h
  refine ⟨by simpa using room, ?_, fun r hr => ?_⟩
  · rw [State.addClaim_claims, List.map_append, List.map_singleton]
    refine List.nodup_append'.mpr ⟨huniq, List.nodup_singleton _, ?_⟩
    rw [List.disjoint_singleton]
    simp only [List.mem_map, Prod.mk.injEq, not_exists, not_and]
    exact fun r hr hc hp => State.claimAt_eq_none.mp new r hr ⟨hc, hp⟩
  · obtain hr | rfl := by simpa using hr
    · exact hok r hr
    · exact hq

theorem State.PoolOk.dropClaims {s : State} (h : s.PoolOk) (gone : Client → Pin → Bool) :
    (s.dropClaims gone).PoolOk := by
  obtain ⟨hlen, huniq, hok⟩ := h
  simp only [State.PoolOk, State.claims_dropClaims]
  exact ⟨(List.length_filter_le _ _).trans hlen, huniq.sublist (List.filter_sublist.map _),
    fun q hq => hok q (List.mem_of_mem_filter hq)⟩

/-! ## What a replaced record changes -/

theorem State.lives_setClaim {s : State} {q q' : Claim} {c : Client} {p : Pin} (hq : s.claimAt c p = some q)
    (hc : q'.client = c) (hp : q'.pin = p) (d : Client) (x : Pin) :
    (s.setClaim q').Lives d x ↔ if (d, x) = (c, p) then q'.state = .live else s.Lives d x := by
  simp only [State.Lives, State.claimAt_setClaim, hc, hp, Prod.mk.injEq]
  by_cases e : d = c ∧ x = p
  · obtain ⟨rfl, rfl⟩ := e; simp [hq]
  · rw [if_neg e, if_neg fun e' => e ⟨e'.1.symm, e'.2.symm⟩]

theorem State.waitsFor_setClaim {s : State} {q q' : Claim} {c : Client} {p : Pin} (hq : s.claimAt c p = some q)
    (hc : q'.client = c) (hp : q'.pin = p) (d : Client) (x : Pin) (k : Chan) :
    (s.setClaim q').WaitsFor d x k ↔ if (d, x) = (c, p) then q'.wait = some k else s.WaitsFor d x k := by
  simp only [State.WaitsFor, State.claimAt_setClaim, hc, hp, Prod.mk.injEq]
  by_cases e : d = c ∧ x = p
  · obtain ⟨rfl, rfl⟩ := e; simp [hq]
  · rw [if_neg e, if_neg fun e' => e ⟨e'.1.symm, e'.2.symm⟩]

theorem State.rankAt_setClaim {s : State} {q q' : Claim} {c : Client} {p : Pin} (hq : s.claimAt c p = some q)
    (hc : q'.client = c) (hp : q'.pin = p) (d : Client) (x : Pin) :
    (s.setClaim q').rankAt d x = if (d, x) = (c, p) then q'.rank else s.rankAt d x := by
  simp only [State.rankAt, State.claimAt_setClaim, hc, hp, Prod.mk.injEq]
  by_cases e : d = c ∧ x = p
  · obtain ⟨rfl, rfl⟩ := e; simp [hq]
  · rw [if_neg e, if_neg fun e' => e ⟨e'.1.symm, e'.2.symm⟩]

/-! ## Claim lists (R4) -/

/-- The claim lists are right but for one client's place on one pin. -/
def State.ListsOkBut (s : State) (c : Client) (p : Pin) : Prop :=
  ∀ x : Pin, (s.claimList x).Nodup ∧
    (∀ d : Client, (d, x) ≠ (c, p) → (d ∈ s.claimList x ↔ s.Lives d x)) ∧
    ((s.claimList x).filter fun d => (d, x) ≠ (c, p)).Pairwise fun a b => s.rankAt b x ≤ s.rankAt a x

/-- A claim that enters its pin's list by its rank, or moves in it, puts the lists right (R4). -/
theorem State.ListsOkBut.enterList {s : State} {c : Client} {p : Pin} (h : s.ListsOkBut c p) (hu : s.Unique)
    (live : s.Lives c p) : (s.enterList c p).ListsOk := by
  have hc : (s.enterList c p).claims = s.claims := State.enterList_claims ..
  rw [State.listsOk_iff (by rw [State.Unique, hc]; exact hu)]
  intro x
  simp only [State.rankAt_congr hc, State.lives_congr hc, State.claimList_enterList]
  obtain ⟨nd, mem, ord⟩ := h x
  by_cases e : p = x
  · subst e
    rw [if_pos rfl]
    refine ⟨insertRanked_nodup (nd.filter _) (by simp), fun d => ?_, insertRanked_pairwise (by simpa using ord) rfl⟩
    rw [insertRanked_mem, List.mem_filter]
    by_cases hd : d = c
    · subst hd; simp [live]
    · simpa [hd] using mem d (by simp [hd])
  · rw [if_neg e]
    have ne : ∀ d : Client, (d, x) ≠ (c, p) := fun d he => e (congrArg Prod.snd he).symm
    refine ⟨nd, fun d => mem d (ne d), ?_⟩
    rwa [List.filter_eq_self.mpr fun d _ => decide_eq_true (ne d)] at ord

theorem State.ListsOk.but_setClaim {s : State} (h : s.ListsOk) (hu : s.Unique) {q q' : Claim} {c : Client} {p : Pin}
    (hq : s.claimAt c p = some q) (hc : q'.client = c) (hp : q'.pin = p) : (s.setClaim q').ListsOkBut c p := by
  intro x
  obtain ⟨nd, mem, ord⟩ := (State.listsOk_iff hu).mp h x
  simp only [State.setClaim_claimList, State.lives_setClaim hq hc hp, State.rankAt_setClaim hq hc hp]
  refine ⟨nd, fun d hd => by rw [if_neg hd]; exact mem d, (ord.filter _).imp_of_mem fun ha hb hab => ?_⟩
  rw [if_neg (of_decide_eq_true (List.mem_filter.mp ha).2), if_neg (of_decide_eq_true (List.mem_filter.mp hb).2)]
  exact hab

/-- A replaced record with the state and the rank of the old one leaves the claim lists right. -/
theorem State.ListsOk.setClaim {s : State} (h : s.ListsOk) (hp : s.PoolOk) {q q' : Claim} {c : Client} {p : Pin}
    (hq : s.claimAt c p = some q) (ok : q'.Ok) (hc : q'.client = c) (hpin : q'.pin = p) (hs : q'.state = q.state)
    (hr : q'.rank = q.rank) : (s.setClaim q').ListsOk := by
  rw [State.listsOk_iff (hp.setClaim ok).2.1]
  intro x
  obtain ⟨nd, mem, ord⟩ := (State.listsOk_iff hp.2.1).mp h x
  have rank : ∀ d, (s.setClaim q').rankAt d x = s.rankAt d x := fun d => by
    rw [State.rankAt_setClaim hq hc hpin]
    split
    · next e => cases e; simp [State.rankAt, hq, hr]
    · rfl
  simp only [State.setClaim_claimList, rank]
  refine ⟨nd, fun d => ?_, ord⟩
  rw [mem, State.lives_setClaim hq hc hpin]
  split
  · next e => cases e; simp [State.Lives, hq, hs]
  · rfl

theorem State.claimAt_addClaim_ne {s : State} {q : Claim} {c : Client} {p : Pin} (h : (c, p) ≠ (q.client, q.pin)) :
    (s.addClaim q).claimAt c p = s.claimAt c p := by
  rw [State.claimAt_addClaim, if_neg fun e => h (by rw [e.1, e.2]), Option.or_none]

theorem State.ListsOk.but_addClaim {s : State} (h : s.ListsOk) (hu : s.Unique) (q : Claim) :
    (s.addClaim q).ListsOkBut q.client q.pin := by
  intro x
  obtain ⟨nd, mem, ord⟩ := (State.listsOk_iff hu).mp h x
  refine ⟨nd, fun d hd => ?_, (ord.filter _).imp_of_mem fun {a b} ha hb hab => ?_⟩
  · rw [State.Lives, State.claimAt_addClaim_ne hd]; exact mem d
  · have ha : (a, x) ≠ (q.client, q.pin) := of_decide_eq_true (List.mem_filter.mp ha).2
    have hb : (b, x) ≠ (q.client, q.pin) := of_decide_eq_true (List.mem_filter.mp hb).2
    simp only [State.rankAt, State.claimAt_addClaim_ne ha, State.claimAt_addClaim_ne hb]
    exact hab

/-- A PENDING claim that joins the pool leaves the claim lists right. -/
theorem State.ListsOk.addClaim_pending {s : State} (h : s.ListsOk) (hu : s.Unique) {q : Claim}
    (new : s.claimAt q.client q.pin = none) (pending : q.state = .pending) (hu' : (s.addClaim q).Unique) :
    (s.addClaim q).ListsOk := by
  rw [State.listsOk_iff hu']
  intro x
  obtain ⟨nd, mem, -⟩ := (State.listsOk_iff hu).mp h x
  obtain ⟨-, mem', ord'⟩ := h.but_addClaim hu q x
  have ne : ∀ d ∈ s.claimList x, (d, x) ≠ (q.client, q.pin) := fun d hd e => by
    obtain ⟨r, hr, -⟩ := (mem d).mp hd
    cases e
    rw [new] at hr; cases hr
  rw [State.addClaim_claimList] at ord' ⊢
  rw [List.filter_eq_self.mpr fun d hd => decide_eq_true (ne d hd)] at ord'
  refine ⟨nd, fun d => ?_, ord'⟩
  by_cases e : (d, x) = (q.client, q.pin)
  · refine iff_of_false (fun hd => ne d hd e) ?_
    cases e
    simp [State.Lives, State.claimAt_addClaim, new, pending]
  · exact mem' d e

theorem State.lives_dropClaims {s : State} (gone : Client → Pin → Bool) (c : Client) (p : Pin) :
    (s.dropClaims gone).Lives c p ↔ gone c p = false ∧ s.Lives c p := by
  simp only [State.Lives, State.claimAt_dropClaims]
  by_cases e : gone c p = true <;> simp [e]

theorem State.ListsOk.dropClaims {s : State} (h : s.ListsOk) (hp : s.PoolOk) (gone : Client → Pin → Bool) :
    (s.dropClaims gone).ListsOk := by
  rw [State.listsOk_iff (hp.dropClaims gone).2.1]
  intro x
  obtain ⟨nd, mem, ord⟩ := (State.listsOk_iff hp.2.1).mp h x
  simp only [State.claimList_dropClaims]
  refine ⟨nd.filter _, fun d => ?_, (ord.filter _).imp_of_mem fun ha hb hab => ?_⟩
  · rw [List.mem_filter, mem, State.lives_dropClaims]
    simp [and_comm]
  · have ha := (List.mem_filter.mp ha).2
    have hb := (List.mem_filter.mp hb).2
    simp only [Bool.not_eq_true'] at ha hb
    simpa [State.rankAt, State.claimAt_dropClaims, ha, hb] using hab

/-! ## Waiting lists (R5) -/

theorem State.WaitsHeld.setClaim_leave {s : State} (h : s.WaitsHeld) {q q' : Claim} {c : Client} {p : Pin}
    (hq : s.claimAt c p = some q) (hc : q'.client = c) (hp : q'.pin = p) (hw : q'.wait = none) :
    ((s.setClaim q').leaveWait c p).WaitsHeld := by
  intro k
  obtain ⟨nd, mem⟩ := h k
  have cl : ((s.setClaim q').leaveWait c p).claims = (s.setClaim q').claims := State.leaveWait_claims ..
  simp only [State.waitList_leaveWait, State.setClaim_waitList, State.waitsFor_congr cl,
    State.waitsFor_setClaim hq hc hp]
  refine ⟨nd.filter _, fun d x => ?_⟩
  rw [List.mem_filter, mem]
  by_cases e : (d, x) = (c, p) <;> simp [e, hw]

theorem State.WaitsHeld.setClaim_enter {s : State} (h : s.WaitsHeld) {q q' : Claim} {c : Client} {p : Pin} {k : Chan}
    (hq : s.claimAt c p = some q) (hc : q'.client = c) (hp : q'.pin = p) (hw : q'.wait = some k) :
    ((s.setClaim q').enterWait c p k).WaitsHeld := by
  intro j
  obtain ⟨nd, mem⟩ := h j
  have cl : ((s.setClaim q').enterWait c p k).claims = (s.setClaim q').claims := State.enterWait_claims ..
  simp only [State.waitList_enterWait, State.setClaim_waitList, State.waitsFor_congr cl,
    State.waitsFor_setClaim hq hc hp]
  refine ⟨?_, fun d x => ?_⟩
  · refine List.nodup_append'.mpr ⟨nd.filter _, by split <;> simp, ?_⟩
    split <;> simp
  · rw [List.mem_append, List.mem_filter, mem]
    by_cases e : (d, x) = (c, p)
    · simp only [Prod.mk.injEq] at e
      obtain ⟨rfl, rfl⟩ := e
      by_cases hj : k = j <;> simp [hw, hj]
    · have e' : ¬(d = c ∧ x = p) := by simpa using e
      by_cases hj : k = j <;> simp [hj, e']

/-- A claim that joins the pool, and the waiting list of the channel it waits on. -/
theorem State.WaitsHeld.addClaim {s : State} (h : s.WaitsHeld) {q : Claim} (new : s.claimAt q.client q.pin = none)
    {w : State} (hc : w.claims = s.claims ++ [q])
    (hl : ∀ k : Chan, w.waitList k = s.waitList k ++ if q.wait = some k then [(q.client, q.pin)] else []) :
    w.WaitsHeld := by
  intro k
  obtain ⟨nd, mem⟩ := h k
  have fresh : (q.client, q.pin) ∉ s.waitList k := fun hm => by
    obtain ⟨r, hr, -⟩ := (mem _ _).mp hm
    rw [new] at hr; cases hr
  rw [hl]
  refine ⟨List.nodup_append'.mpr ⟨nd, by split <;> simp, by split <;> simp [fresh]⟩, fun d x => ?_⟩
  have wf : w.WaitsFor d x k ↔ (s.addClaim q).WaitsFor d x k := State.waitsFor_congr hc
  rw [List.mem_append, mem, wf]
  simp only [State.WaitsFor, State.claimAt_addClaim]
  by_cases e : q.client = d ∧ q.pin = x
  · obtain ⟨rfl, rfl⟩ := e
    by_cases hk : q.wait = some k <;> simp [new, hk]
  · have e' : ¬((d, x) = (q.client, q.pin)) := fun h => e (by cases h; exact ⟨rfl, rfl⟩)
    by_cases hk : q.wait = some k
    · simp only [hk, if_true, List.mem_singleton, e', or_false, e, if_false, Option.or_none]
    · simp [e, hk]

theorem State.WaitsHeld.dropClaims {s : State} (h : s.WaitsHeld) (gone : Client → Pin → Bool) :
    (s.dropClaims gone).WaitsHeld := by
  intro k
  obtain ⟨nd, mem⟩ := h k
  rw [State.waitList_dropClaims]
  refine ⟨nd.filter _, fun d x => ?_⟩
  rw [List.mem_filter, mem]
  simp only [State.WaitsFor, State.claimAt_dropClaims]
  by_cases e : gone d x = true <;> simp [e]

/-- A channel on which a claim waits has a reference (R12, R95). -/
theorem State.WaitsHeld.refsOf_pos {s : State} (h : s.WaitsHeld) {k : Chan} (hk : s.waitList k ≠ []) :
    0 < s.refsOf k := by
  obtain ⟨⟨c, p⟩, hm⟩ := List.exists_mem_of_ne_nil _ hk
  obtain ⟨q, hq, hw⟩ := ((h k).2 c p).mp hm
  have : 0 < s.claims.countP (·.names k) :=
    List.countP_pos_iff.mpr ⟨q, (State.claimAt_mem hq).1, by simp [Claim.names, hw]⟩
  unfold State.refsOf
  omega

/-- The settling of references frees no channel on which a claim waits. -/
theorem State.WaitsOk.settleRefs {s : State} (h : s.WaitsOk) (hu : s.Unique) : s.settleRefs.WaitsOk := by
  refine h.congr (by simp) (by simp) fun k hk hr => ?_
  obtain e | ⟨-, -, -, hz⟩ := s.settleRefs_cases k
  · rw [e]; exact hr
  · have held : s.settleRefs.WaitsHeld := ((State.waitsOk_iff hu).mp h).1.congr (by simp) (by simp)
    have := held.refsOf_pos (k := k) (by simpa using hk)
    omega

end Sys2Proof.Machine
end

section
/-! PROOFS. The claim pool, the claim lists and the waiting lists through every event and every effect. -/

namespace Sys2Proof.Machine

open Sys2Proof

/-! ## Records -/

theorem Claim.activated_ok {q : Claim} (h : q.Ok) : q.activated.Ok := by
  obtain ⟨hrank, -, -, hchange, hhold, hleft, htick⟩ := h
  refine ⟨?_, by simp [Claim.activated], by simp [Claim.activated], by simp [Claim.activated], hhold, hleft,
    fun e => ⟨rfl, (htick e).2⟩⟩
  simp only [Claim.activated]
  cases hc : q.change with
  | none => exact hrank
  | some g =>
    rw [hc, Option.all_some, Bool.and_eq_true] at hchange
    cases hr : g.rank with
    | none => simpa [hr] using hrank
    | some r => simpa [hr] using hchange.2

theorem hold_ok {hold : Option Word} (h : hold ≠ some 0) :
    (hold.all fun x => decide (1 ≤ x.toNat) && decide (x.toNat ≤ (hold.getD 0).toNat)) = true := by
  cases hold with
  | none => rfl
  | some w =>
    have : w.toNat ≠ 0 := fun e => h (congrArg some (BitVec.eq_of_toNat_eq e))
    simp; omega

theorem rank_pos {r : Rank} (h : r ≠ 0) : 1 ≤ r.val := by
  have : r.val ≠ 0 := fun e => h (Fin.ext e)
  omega

theorem newClaim_ok (c : Client) {a : ClaimArgs} (hr : a.rank ≠ 0) (hh : a.hold ≠ some 0) (wait : Option Chan) :
    (newClaim c a wait).Ok := by
  refine ⟨rank_pos hr, ?_, ?_, rfl, Iff.rfl, hold_ok hh, by simp [newClaim]⟩ <;>
    cases wait <;> simp [newClaim]

theorem Claim.rehold_fields (q : Claim) (hold : Option Word) :
    (q.rehold hold).client = q.client ∧ (q.rehold hold).pin = q.pin ∧ (q.rehold hold).rank = q.rank ∧
      (q.rehold hold).source = q.source ∧ (q.rehold hold).state = q.state := by
  cases hold <;> exact ⟨rfl, rfl, rfl, rfl, rfl⟩

/-- The hold of a claim that MODIFY may restart (R19). -/
theorem Claim.rehold_ok {q : Claim} (h : q.Ok) {hold : Option Word} (hh : hold ≠ some 0) :
    ((q.rehold hold).hold.isSome ↔ (q.rehold hold).holdLeft.isSome) ∧
      ((q.rehold hold).holdLeft.all fun x =>
        decide (1 ≤ x.toNat) && decide (x.toNat ≤ ((q.rehold hold).hold.getD 0).toNat)) = true ∧
      ((q.rehold hold).tickDue → (q.rehold hold).holdLeft = some 1) := by
  obtain ⟨-, -, -, -, hhold, hleft, htick⟩ := h
  cases hold with
  | none => exact ⟨hhold, hleft, fun e => (htick e).2⟩
  | some w => exact ⟨Iff.rfl, hold_ok hh, by simp [Claim.rehold]⟩

theorem Claim.modified_ok {q : Claim} (h : q.Ok) (hl : q.state = .live) {a : ModifyArgs} (hr : a.rank ≠ some 0)
    (hh : a.hold ≠ some 0) : (q.modified a).Ok := by
  obtain ⟨hhold, hleft, htick⟩ := Claim.rehold_ok h hh
  obtain ⟨-, -, -, -, hstate⟩ := q.rehold_fields a.hold
  refine ⟨?_, ?_, by simp [Claim.modified], rfl, hhold, hleft, fun e => ⟨hstate.trans hl, htick e⟩⟩
  · simp only [Claim.modified]
    cases e : a.rank with
    | none => exact h.1
    | some r => exact rank_pos fun h0 => hr (e.trans (congrArg some h0))
  · simp [Claim.modified, hstate, hl]

/-- The record of a MODIFY that is stored until a boundary (R18). -/
def Claim.deferred (q : Claim) (a : ModifyArgs) (k : Chan) : Claim :=
  { q.rehold a.hold with wait := some k, change := some { rank := a.rank, source := a.source } }

theorem State.modifyLater_eq (s : State) (c : Client) (q : Claim) (a : ModifyArgs) (k : Chan) :
    s.modifyLater c q a k = ((s.setClaim (q.deferred a k)).enterWait c q.pin k).settleRefs := rfl

theorem Claim.deferred_ok {q : Claim} (h : q.Ok) (hl : q.state = .live) {a : ModifyArgs}
    (hg : a.rank.isSome ∨ a.source.isSome) (hr : a.rank ≠ some 0) (hh : a.hold ≠ some 0) (k : Chan) :
    (q.deferred a k).Ok := by
  obtain ⟨hhold, hleft, htick⟩ := Claim.rehold_ok h hh
  obtain ⟨-, -, hrank, -, hstate⟩ := q.rehold_fields a.hold
  refine ⟨?_, ?_, by simp [Claim.deferred], ?_, hhold, hleft, fun e => ⟨hstate.trans hl, htick e⟩⟩
  · simpa [Claim.deferred, hrank] using h.1
  · simp [Claim.deferred, hstate, hl]
  · simp only [Claim.deferred, Option.all_some, Bool.and_eq_true, Bool.or_eq_true]
    refine ⟨hg, ?_⟩
    cases e : a.rank with
    | none => rfl
    | some r => exact decide_eq_true (rank_pos fun h0 => hr (by rw [e, h0]))

theorem Claim.tick_fields (q : Claim) : q.tick.client = q.client ∧ q.tick.pin = q.pin ∧ q.tick.rank = q.rank ∧
    q.tick.source = q.source ∧ q.tick.state = q.state ∧ q.tick.wait = q.wait ∧ q.tick.change = q.change := by
  unfold Claim.tick
  (repeat' split) <;> exact ⟨rfl, rfl, rfl, rfl, rfl, rfl, rfl⟩

theorem Claim.tick_ok {q : Claim} (h : q.Ok) : q.tick.Ok := by
  unfold Claim.tick
  split
  · next w hl hw =>
    obtain ⟨hrank, hpend, hlive, hchange, hhold, hleft, htick⟩ := h
    rw [hw, Option.all_some, Bool.and_eq_true, decide_eq_true_eq, decide_eq_true_eq] at hleft
    have lt := w.isLt
    unfold countDown
    split
    · next n hn =>
      split_ifs at hn with h1
      cases hn
      refine ⟨hrank, hpend, hlive, hchange, by simpa [hw] using hhold, ?_, fun e => ⟨hl, ?_⟩⟩
      · simp only [Option.all_some, Bool.and_eq_true, decide_eq_true_eq, BitVec.toNat_ofNat]
        omega
      · have := (htick e).2
        rw [hw, Option.some.injEq] at this
        exact absurd (by rw [this]; decide) h1
    · next hn =>
      split_ifs at hn with h1
      refine ⟨hrank, hpend, hlive, hchange, hhold, by simpa [hw] using hleft, fun _ => ⟨hl, ?_⟩⟩
      rw [hw]
      exact congrArg some (BitVec.eq_of_toNat_eq (show w.toNat = 1 by omega))
  · exact h

/-! ## A pool rewritten record by record -/

/-- Where each record is rewritten and keeps its client and pin, a client's claim is its old one rewritten. -/
theorem State.claimAt_map {s t : State} {f : Claim → Claim} (hc : t.claims = s.claims.map f)
    (hf : ∀ q ∈ s.claims, (f q).client = q.client ∧ (f q).pin = q.pin) (c : Client) (p : Pin) :
    t.claimAt c p = (s.claimAt c p).map f := by
  simp only [State.claimAt, hc, List.find?_map]
  congr 1
  refine List.find?_congr fun q hq => ?_
  simp only [Function.comp, hf q hq]

theorem State.PoolOk.map {s t : State} (h : s.PoolOk) {f : Claim → Claim} (hc : t.claims = s.claims.map f)
    (hf : ∀ q ∈ s.claims, (f q).client = q.client ∧ (f q).pin = q.pin) (ok : ∀ q ∈ s.claims, (f q).Ok) :
    t.PoolOk := by
  obtain ⟨hlen, huniq, -⟩ := h
  refine ⟨by simpa [hc] using hlen, ?_, fun q hq => ?_⟩
  · rw [hc, List.map_map]
    convert huniq using 1
    exact List.map_congr_left fun q hq => by simp [hf q hq]
  · rw [hc, List.mem_map] at hq
    obtain ⟨r, hr, rfl⟩ := hq
    exact ok r hr

theorem State.claims_tickComes (s : State) :
    s.tickComes.claims = s.claims.map fun q => if s.inReset = true then q else q.tick := by
  unfold State.tickComes
  split
  · simp
  · simp

/-! ## The pool and the claim lists through the shared operations -/

/-- The laws of the pool and of the claim lists together (R1, R2, R4). -/
structure State.PoolLists (s : State) : Prop where
  pool : s.PoolOk
  lists : s.ListsOk

theorem State.PoolLists.congr {s t : State} (h : s.PoolLists) (hc : t.claims = s.claims)
    (hl : t.claimLists = s.claimLists) : t.PoolLists := ⟨h.pool.congr hc, h.lists.congr hc hl⟩

theorem State.PoolLists.dropClaims {s : State} (h : s.PoolLists) (gone : Client → Pin → Bool) :
    (s.dropClaims gone).PoolLists := ⟨h.pool.dropClaims gone, h.lists.dropClaims h.pool gone⟩

/-- A replaced record that is LIVE enters its list by its rank, or moves in it. -/
theorem State.PoolLists.setClaim_enterList {s : State} (h : s.PoolLists) {q q' : Claim} {c : Client} {p : Pin}
    (hq : s.claimAt c p = some q) (ok : q'.Ok) (hc : q'.client = c) (hp : q'.pin = p) (live : q'.state = .live) :
    ((s.setClaim q').enterList c p).PoolLists := by
  have pool := h.pool.setClaim ok
  refine ⟨pool.congr (by simp), (h.lists.but_setClaim h.pool.2.1 hq hc hp).enterList pool.2.1 ?_⟩
  rw [State.lives_setClaim hq hc hp, if_pos rfl]
  exact live

/-- A replaced record with the state and the rank of the old one. -/
theorem State.PoolLists.setClaim {s : State} (h : s.PoolLists) {q q' : Claim} {c : Client} {p : Pin}
    (hq : s.claimAt c p = some q) (ok : q'.Ok) (hc : q'.client = c) (hp : q'.pin = p) (hs : q'.state = q.state)
    (hr : q'.rank = q.rank) : (s.setClaim q').PoolLists :=
  ⟨h.pool.setClaim ok, h.lists.setClaim h.pool hq ok hc hp hs hr⟩

theorem State.PoolLists.activateOne {s : State} (h : s.PoolLists) (id : Client × Pin) : (s.activateOne id).PoolLists := by
  unfold State.activateOne
  split
  · exact h
  · next q hq =>
    obtain ⟨hm, hc, hp⟩ := State.claimAt_mem hq
    have ok := Claim.activated_ok (h.pool.2.2 q hm)
    dsimp only
    split
    · exact h.setClaim_enterList hq ok hc hp rfl
    · next hn =>
      simp only [Bool.or_eq_true, decide_eq_true_eq, not_or, not_not] at hn
      have live : q.state = .live := by
        cases e : q.state with
        | pending => exact absurd e hn.1
        | live => rfl
      exact h.setClaim hq ok hc hp live.symm hn.2

theorem State.PoolLists.activate {s : State} (h : s.PoolLists) (k : Chan) : (s.activate k).PoolLists := by
  have start : (s.setWaitList k []).PoolLists := h.congr (by simp) (by simp)
  have done : ((s.waitList k).foldl State.activateOne (s.setWaitList k [])).PoolLists :=
    foldl_inv (P := State.PoolLists) (f := State.activateOne) (fun _ id _ ht => ht.activateOne id) start
  exact done.congr (State.noteTops_claims ..) (State.noteTops_claimLists ..)

theorem State.PoolLists.tickComes {s : State} (h : s.PoolLists) : s.tickComes.PoolLists := by
  have hc := s.claims_tickComes
  have keep : ∀ q ∈ s.claims, (if s.inReset = true then q else q.tick).client = q.client ∧
      (if s.inReset = true then q else q.tick).pin = q.pin := fun q _ => by
    split
    · exact ⟨rfl, rfl⟩
    · exact ⟨q.tick_fields.1, q.tick_fields.2.1⟩
  have pool : s.tickComes.PoolOk := h.pool.map hc keep fun q hq => by
    split
    · exact h.pool.2.2 q hq
    · exact Claim.tick_ok (h.pool.2.2 q hq)
  refine ⟨pool, (State.listsOk_iff pool.2.1).mpr fun p => ?_⟩
  have fields : ∀ q : Claim, (if s.inReset = true then q else q.tick).rank = q.rank ∧
      (if s.inReset = true then q else q.tick).state = q.state := fun q => by
    split
    · exact ⟨rfl, rfl⟩
    · exact ⟨q.tick_fields.2.2.1, q.tick_fields.2.2.2.2.1⟩
  have lives : ∀ c, s.tickComes.Lives c p ↔ s.Lives c p := fun c => by
    simp only [State.Lives, State.claimAt_map hc keep]
    cases s.claimAt c p <;> simp [(fields _).2]
  have rank : ∀ c, s.tickComes.rankAt c p = s.rankAt c p := fun c => by
    simp only [State.rankAt, State.claimAt_map hc keep]
    cases s.claimAt c p <;> simp [(fields _).1]
  simpa only [State.tickComes_claimList, lives, rank] using (State.listsOk_iff h.pool.2.1).mp h.lists p

theorem State.PoolLists.boundary {s : State} (h : s.PoolLists) (k : Chan) : (s.boundary k).PoolLists :=
  State.PoolLists.congr ((h.congr (t := s.boundaryCommit k) (by simp) (by simp)).activate k)
    (by simp [State.boundary]) (by simp [State.boundary])

/-- A channel whose next input is being taken. -/
def Channel.taken (ch : Channel) : Channel := { ch with inputsDue := ch.inputsDue - 1 }

/-- An input that raises the phase (R51). -/
def Channel.raised (ch : Channel) : Channel := { ch with phase := ch.phase + 1 }

/-- An input that ends the period (R80). -/
def Channel.ended (ch : Channel) : Channel := { ch with phase := 0 }

theorem State.takeInput_raise {s : State} {k : Chan} (h : (s.channel k).taken.nextInput = .raise) :
    s.takeInput k = s.setChannel k (s.channel k).taken.raised := by
  unfold Channel.taken at h
  simp only [State.takeInput, h]; rfl

theorem State.takeInput_tick {s : State} {k : Chan} (h : (s.channel k).taken.nextInput = .tick) :
    s.takeInput k = (s.setChannel k (s.channel k).taken.tick).resolvePads := by
  unfold Channel.taken at h
  simp only [State.takeInput, h]; rfl

theorem State.takeInput_boundary {s : State} {k : Chan} (h : (s.channel k).taken.nextInput = .boundary) :
    s.takeInput k = (s.setChannel k (s.channel k).taken.ended).boundary k := by
  unfold Channel.taken at h
  simp only [State.takeInput, h]; rfl

/-- What a clock input can do (R51, R52). -/
theorem State.takeInput_cases (s : State) (k : Chan) :
    s.takeInput k = s.setChannel k (s.channel k).taken.raised ∨
    s.takeInput k = (s.setChannel k (s.channel k).taken.tick).resolvePads ∨
    s.takeInput k = (s.setChannel k (s.channel k).taken.ended).boundary k := by
  cases h : (s.channel k).taken.nextInput with
  | raise => exact .inl (State.takeInput_raise h)
  | tick => exact .inr (.inl (State.takeInput_tick h))
  | boundary => exact .inr (.inr (State.takeInput_boundary h))

theorem State.PoolLists.takeInput {s : State} (h : s.PoolLists) (k : Chan) : (s.takeInput k).PoolLists := by
  obtain e | e | e := s.takeInput_cases k <;> rw [e]
  · exact h.congr (by simp) (by simp)
  · exact h.congr (by simp) (by simp)
  · exact State.PoolLists.boundary (h.congr (by simp) (by simp)) k

theorem State.PoolLists.tearClaims {s : State} (h : s.PoolLists) (c : Client) : (s.tearClaims c).PoolLists :=
  (h.dropClaims fun c' _ => c' = c).congr (by simp [State.tearClaims]) (by simp [State.tearClaims])

/-- A teardown up to its fourth step (R131). -/
def State.torn (s : State) (c : Client) : State := ((s.tearClaims c).tearWatches c).tearChannels c

theorem State.teardown_eq (s : State) (c : Client) (cause : EndCause) : s.teardown c cause =
    (((s.torn c).purge c).setSession c (((s.torn c).session c).ended cause)).resolvePads := by
  simp only [State.teardown, State.torn, State.purge_session]

theorem State.channel_tearWatches (s : State) (c : Client) (k : Chan) :
    (s.tearWatches c).channel k = { s.channel k with refs := s.refsOf k } := by
  unfold State.tearWatches
  rw [State.channel_recount]
  rfl

theorem State.channel_teardown (s : State) (c : Client) (cause : EndCause) (k : Chan) :
    (s.teardown c cause).channel k = (s.torn c).channel k := by
  rw [State.teardown_eq, State.resolvePads_channel, State.channel_setSession, State.purge_channel]

theorem State.PoolLists.teardown {s : State} (h : s.PoolLists) (c : Client) (cause : EndCause) :
    (s.teardown c cause).PoolLists :=
  (h.tearClaims c).congr (by simp [State.teardown]) (by simp [State.teardown])

theorem State.PoolLists.dropClaim {s : State} (h : s.PoolLists) (c : Client) (p : Pin) (x : Option Client) :
    (s.dropClaim c p x).PoolLists :=
  (h.dropClaims fun c' p' => c' = c && p' = p).congr (by simp [State.dropClaim]) (by simp [State.dropClaim])

/-- An empty pool with empty lists. -/
theorem State.PoolLists.empty {s : State} (hc : s.claims = []) (hl : ∀ p : Pin, s.claimList p = []) : s.PoolLists :=
  ⟨by simp [State.PoolOk, hc], fun p => by simp [hc, hl]⟩

theorem State.PoolLists.claimLive {s : State} (h : s.PoolLists) {c : Client} {a : ClaimArgs} (may : s.MayClaim c a) :
    (s.claimLive c a).PoolLists := by
  have pool : (s.addClaim (newClaim c a none)).PoolOk :=
    h.pool.addClaim (newClaim_ok c may.rank may.hold none) may.new may.room
  have entered : ((s.addClaim (newClaim c a none)).enterList c a.pin).PoolLists := by
    refine ⟨pool.congr (by simp), (h.lists.but_addClaim h.pool.2.1 (newClaim c a none)).enterList pool.2.1 ?_⟩
    exact ⟨newClaim c a none, by simp [State.claimAt_addClaim, newClaim, may.new], rfl⟩
  exact entered.congr (by simp [State.claimLive]) (by simp [State.claimLive]; rfl)

theorem State.PoolLists.claimPending {s : State} (h : s.PoolLists) {c : Client} {a : ClaimArgs} (may : s.MayClaim c a)
    (k : Chan) : (s.claimPending c a k).PoolLists := by
  have pool : (s.addClaim (newClaim c a (some k))).PoolOk :=
    h.pool.addClaim (newClaim_ok c may.rank may.hold (some k)) may.new may.room
  have added : (s.addClaim (newClaim c a (some k))).PoolLists :=
    ⟨pool, h.lists.addClaim_pending h.pool.2.1 may.new rfl pool.2.1⟩
  exact added.congr (by simp [State.claimPending]) (by simp [State.claimPending])

theorem State.claimLists_enterList_congr {s t : State} (hc : t.claims = s.claims) (hl : t.claimLists = s.claimLists)
    (c : Client) (p : Pin) : (t.enterList c p).claimLists = (s.enterList c p).claimLists :=
  State.claimLists_ext fun x => by
    simp only [State.claimList_enterList, State.rankAt_congr hc, State.claimList_congr hl]

/-- The pool and the lists after a MODIFY that is applied at once, before its notices (R17). -/
def State.modifiedPool (s : State) (c : Client) (q : Claim) (a : ModifyArgs) : State :=
  let t := (s.setClaim (q.modified a)).leaveWait c q.pin
  if (q.modified a).rank ≠ q.rank then t.enterList c q.pin else t

theorem State.modifyNow_eq (s : State) (c : Client) (q : Claim) (a : ModifyArgs) :
    s.modifyNow c q a = (State.noteTops s (some c) (s.modifiedPool c q a)).settleRefs.resolvePads := rfl

theorem State.modifiedPool_claims (s : State) (c : Client) (q : Claim) (a : ModifyArgs) :
    (s.modifiedPool c q a).claims = (s.setClaim (q.modified a)).claims := by
  unfold State.modifiedPool
  split <;> simp

theorem State.modifiedPool_waitLists (s : State) (c : Client) (q : Claim) (a : ModifyArgs) :
    (s.modifiedPool c q a).waitLists = ((s.setClaim (q.modified a)).leaveWait c q.pin).waitLists := by
  unfold State.modifiedPool
  split <;> simp

theorem State.modifiedPool_channels (s : State) (c : Client) (q : Claim) (a : ModifyArgs) :
    (s.modifiedPool c q a).channels = s.channels := by
  unfold State.modifiedPool
  split <;> simp

theorem State.modifiedPool_claimLists (s : State) (c : Client) (q : Claim) (a : ModifyArgs) :
    (s.modifiedPool c q a).claimLists =
      if (q.modified a).rank = q.rank then s.claimLists
      else ((s.setClaim (q.modified a)).enterList c q.pin).claimLists := by
  unfold State.modifiedPool
  by_cases e : (q.modified a).rank = q.rank
  · simp [e]
  · simp only [ne_eq, e, not_false_eq_true, if_true, if_false]
    exact State.claimLists_enterList_congr (by simp) (by simp) c q.pin

theorem State.PoolLists.modifiedPool {s : State} (h : s.PoolLists) {c : Client} {q : Claim} {a : ModifyArgs}
    (may : s.MayModify c q a) : (s.modifiedPool c q a).PoolLists := by
  obtain ⟨hm, hc, hp⟩ := State.claimAt_mem may.claim
  obtain ⟨fc, fp, -, -, fs⟩ := q.rehold_fields a.hold
  have ok := Claim.modified_ok (h.pool.2.2 q hm) may.live may.rank may.hold
  have hl := s.modifiedPool_claimLists c q a
  split_ifs at hl with e
  · exact (h.setClaim may.claim ok (fc.trans hc) (fp.trans hp) fs e).congr (s.modifiedPool_claims c q a) (by simpa using hl)
  · rw [hp] at hl
    exact (h.setClaim_enterList may.claim ok (fc.trans hc) (fp.trans hp) (fs.trans may.live)).congr
      (by rw [s.modifiedPool_claims c q a]; simp) hl

theorem State.PoolLists.modifyNow {s : State} (h : s.PoolLists) {c : Client} {q : Claim} {a : ModifyArgs}
    (may : s.MayModify c q a) : (s.modifyNow c q a).PoolLists :=
  (h.modifiedPool may).congr (by simp [State.modifyNow_eq]) (by simp [State.modifyNow_eq])

theorem State.PoolLists.modifyLater {s : State} (h : s.PoolLists) {c : Client} {q : Claim} {a : ModifyArgs}
    (may : s.MayModify c q a) (k : Chan) : (s.modifyLater c q a k).PoolLists := by
  obtain ⟨hm, hc, hp⟩ := State.claimAt_mem may.claim
  obtain ⟨fc, fp, fr, -, fs⟩ := q.rehold_fields a.hold
  have ok := Claim.deferred_ok (h.pool.2.2 q hm) may.live may.given may.rank may.hold k
  exact (h.setClaim may.claim ok (fc.trans hc) (fp.trans hp) fs fr).congr (by simp [State.modifyLater_eq])
    (by simp [State.modifyLater_eq])

/-- What a STOP of a RUNNING channel leads to before the waiting list is activated (R65). -/
def State.stopped (s : State) (k : Chan) : State :=
  let t := s.setChannel k { s.channel k with state := .stopped, output := false, commit := none, inputsDue := 0 }
  if (s.channel k).commit.isSome then t.noteOwner k (.commitEnd k false) else t

theorem State.stopRunning_eq (s : State) (k : Chan) (c : Client) :
    s.stopRunning k c = (((s.stopped k).activate k).noteSource k (some c)).settleRefs.resolvePads := rfl

@[simp] theorem State.stopped_claims (s : State) (k : Chan) : (s.stopped k).claims = s.claims := by
  unfold State.stopped; split <;> simp
@[simp] theorem State.stopped_claimLists (s : State) (k : Chan) : (s.stopped k).claimLists = s.claimLists := by
  unfold State.stopped; split <;> simp
@[simp] theorem State.stopped_waitLists (s : State) (k : Chan) : (s.stopped k).waitLists = s.waitLists := by
  unfold State.stopped; split <;> simp

theorem State.channel_stopped (s : State) (k j : Chan) : (s.stopped k).channel j =
    if k = j then { s.channel k with state := .stopped, output := false, commit := none, inputsDue := 0 }
    else s.channel j := by
  unfold State.stopped; split <;> simp [State.channel_setChannel]

theorem State.PoolLists.stopRunning {s : State} (h : s.PoolLists) (k : Chan) (c : Client) :
    (s.stopRunning k c).PoolLists :=
  ((h.congr (t := s.stopped k) (by simp) (by simp)).activate k).congr (by simp [State.stopRunning_eq])
    (by simp [State.stopRunning_eq])

/-- What an event leaves of the pool and the claim lists is lawful. -/
theorem Event.poolLists {s t : State} (e : Event s t) (h : s.PoolLists) : t.PoolLists := by
  cases e with
  | input k _ => exact h.takeInput k
  | tick => exact h.tickComes
  | hold c p _ => exact (h.dropClaim c p none).congr (by simp [State.expireHold]) (by simp [State.expireHold])
  | grace c _ => exact h.teardown c .lapsed
  | reset => exact .empty rfl fun p => by simp [State.deviceReset, State.claimList]
  | resetLasts => exact h.congr rfl rfl
  | _ => exact h.congr (by simp) (by simp)

theorem Effect.poolLists {c : Client} {s t : State} (e : Effect c s t) (h : s.PoolLists) : t.PoolLists := by
  cases e with
  | unchanged => exact h
  | closes => exact h.teardown c .closed
  | resets => exact .empty rfl fun p => by simp [State.deviceReset, State.claimList]
  | claimsLive a may => exact h.claimLive may
  | claimsPending a k may => exact h.claimPending may k
  | modifiesNow q a may => exact h.modifyNow may
  | modifiesLater q a k may => exact h.modifyLater may k
  | stops k _ _ => exact h.stopRunning k c
  | releases p q _ => exact (h.dropClaim c p (some c)).congr (by simp [State.releaseClaim]) (by simp [State.releaseClaim])
  | _ => exact h.congr (by simp) (by simp)

/-! ## The waiting lists through the shared operations -/

theorem State.waitsOk_of {s t : State} (h : s.WaitsOk) (hu : s.Unique) (hu' : t.Unique)
    (held : s.WaitsHeld → t.WaitsHeld) (run : s.WaitsRun → t.WaitsRun) : t.WaitsOk :=
  (State.waitsOk_iff hu').mpr ⟨held ((State.waitsOk_iff hu).mp h).1, run ((State.waitsOk_iff hu).mp h).2⟩

theorem State.PoolOk.unique {s : State} (h : s.PoolOk) : s.Unique := h.2.1

/-- The claims after an activation: those of the waiting list are activated. -/
theorem State.claims_activate_map {s : State} (hu : s.Unique) {k : Chan} (hn : (s.waitList k).Nodup) :
    (s.activate k).claims = s.claims.map fun q => if (q.client, q.pin) ∈ s.waitList k then q.activated else q := by
  rw [State.claims_activate_eq, State.claims_foldl_activateOne _ hn hu]

theorem State.claimAt_activate {s : State} (hu : s.Unique) {k : Chan} (hn : (s.waitList k).Nodup) (c : Client)
    (p : Pin) : (s.activate k).claimAt c p =
      (s.claimAt c p).map fun q => if (c, p) ∈ s.waitList k then q.activated else q := by
  rw [State.claimAt_map (State.claims_activate_map hu hn) fun q _ => by split <;> exact ⟨rfl, rfl⟩]
  cases h : s.claimAt c p with
  | none => rfl
  | some q =>
    obtain ⟨-, hc, hp⟩ := State.claimAt_mem h
    simp only [Option.map_some, hc, hp]

theorem State.WaitsHeld.activate {s : State} (h : s.WaitsHeld) (hu : s.Unique) (k : Chan) :
    (s.activate k).WaitsHeld := by
  intro j
  rw [State.waitList_activate]
  have same : ∀ c p, (s.activate k).WaitsFor c p j ↔ k ≠ j ∧ s.WaitsFor c p j := fun c p => by
    simp only [State.WaitsFor, State.claimAt_activate hu (h k).1, Option.map_eq_some_iff]
    have mem := (h k).2 c p
    simp only [State.WaitsFor] at mem
    constructor
    · rintro ⟨r, ⟨q, hq, rfl⟩, hw⟩
      split at hw
      · cases hw
      · next hm =>
        refine ⟨fun e => hm (mem.mpr ⟨q, hq, by rw [hw, e]⟩), q, hq, hw⟩
    · rintro ⟨hne, q, hq, hw⟩
      refine ⟨q, ⟨q, hq, if_neg fun hm => ?_⟩, hw⟩
      obtain ⟨r, hr, hwr⟩ := mem.mp hm
      rw [hq] at hr; cases hr
      rw [hw] at hwr
      exact hne (Option.some.inj hwr).symm
  by_cases e : k = j
  · rw [if_pos e]
    exact ⟨List.nodup_nil, fun c p => by rw [same]; simp [e]⟩
  · rw [if_neg e]
    exact ⟨(h j).1, fun c p => by rw [same, (h j).2]; simp [e]⟩

/-- A channel whose waiting list is activated may stop running (R23, R80). -/
theorem State.WaitsOk.activate {s t u : State} (h : s.WaitsOk) (hu : s.Unique) {k : Chan}
    (hc : t.claims = s.claims) (hw : t.waitLists = s.waitLists)
    (hc' : u.claims = (t.activate k).claims) (hw' : u.waitLists = (t.activate k).waitLists)
    (run : ∀ j : Chan, k ≠ j → (s.channel j).state = .running → (u.channel j).state = .running) : u.WaitsOk := by
  have tu : t.Unique := by rw [State.Unique, hc]; exact hu
  have nd : (t.waitList k).Nodup := by rw [State.waitList_congr hw]; exact (h k).1
  refine State.waitsOk_of h hu ?_ (fun held => ?_) (fun runs j hj => ?_)
  · rw [State.Unique, hc', State.claims_activate_map tu nd, activated_ids _ (· ∈ t.waitList k)]
    exact tu
  · exact ((held.congr hc hw).activate tu k).congr hc' hw'
  · rw [State.waitList_congr hw', State.waitList_activate, State.waitList_congr hw] at hj
    split_ifs at hj with e
    · exact absurd rfl hj
    · exact run j e (runs j hj)

theorem State.state_setChannel {s : State} {k : Chan} {ch : Channel}
    (h : (s.channel k).state = .running → ch.state = .running) (j : Chan) (hj : (s.channel j).state = .running) :
    ((s.setChannel k ch).channel j).state = .running := by
  rw [State.channel_setChannel]
  split
  · next e => exact h (e ▸ hj)
  · exact hj

theorem Channel.handEdge_state (ch : Channel) (p : Pin) (e : Edge) : (ch.handEdge p e).state = ch.state := by
  unfold Channel.handEdge
  (repeat' split) <;> rfl

theorem Channel.handChain_state (ch : Channel) (k : Chan) : (ch.handChain k).state = ch.state := by
  unfold Channel.handChain; split <;> rfl

theorem State.state_startChans {s : State} (ks : List Chan) (x : Option Client) (j : Chan)
    (h : (s.channel j).state = .running) : ((s.startChans ks x).channel j).state = .running := by
  rw [State.channel_startChans]
  split
  · rfl
  · exact h

theorem State.channel_baseTick (s : State) (k : Chan) : s.baseTick.channel k =
    if (s.channel k).state = .running && (s.channel k).settings.clock = .base then
      { s.channel k with inputsDue := (s.channel k).inputsDue + 1 } else s.channel k := by
  simp [State.baseTick]

theorem State.state_baseTick (s : State) (k : Chan) : (s.baseTick.channel k).state = (s.channel k).state := by
  rw [State.channel_baseTick]; split <;> rfl

theorem State.state_recount (s : State) (k : Chan) : (s.recount.channel k).state = (s.channel k).state := by
  rw [State.channel_recount]

theorem State.PoolLists.boundaryDone {s : State} (h : s.PoolLists) (k : Chan) : (s.boundaryDone k).PoolLists :=
  State.PoolLists.congr ((h.congr (t := s.boundaryCommit k) (by simp) (by simp)).activate k)
    (by simp [State.boundaryDone]) (by simp [State.boundaryDone])

theorem State.WaitsOk.boundary {s : State} (h : s.WaitsOk) (hp : s.PoolLists) (k : Chan) : (s.boundary k).WaitsOk := by
  have done : (s.boundaryDone k).WaitsOk := by
    refine h.activate hp.pool.unique (t := s.boundaryCommit k) (k := k) (by simp) (by simp) (by simp [State.boundaryDone])
      (by simp [State.boundaryDone]) fun j hj hr => ?_
    rw [State.channel_boundaryDone, if_neg hj, Channel.handChain_state]
    exact hr
  exact (done.settleRefs (hp.boundaryDone k).pool.unique).congr (by simp [State.boundary_eq]) (by simp [State.boundary_eq])
    fun j _ hr => by simpa [State.boundary_eq] using hr

theorem State.WaitsOk.takeInput {s : State} (h : s.WaitsOk) (hp : s.PoolLists) (k : Chan) :
    (s.takeInput k).WaitsOk := by
  have keep (ch : Channel) (e : ch.state = (s.channel k).state) : (s.setChannel k ch).WaitsOk :=
    h.congr (by simp) (by simp) fun j _ => State.state_setChannel (fun hr => e.trans hr) j
  obtain e | e | e := s.takeInput_cases k <;> rw [e]
  · exact keep _ rfl
  · exact (keep (s.channel k).taken.tick rfl).congr (by simp) (by simp) fun j _ hr => by simpa using hr
  · exact (keep (s.channel k).taken.ended rfl).boundary (hp.congr (by simp) (by simp)) k

theorem State.WaitsOk.stopRunning {s : State} (h : s.WaitsOk) (hp : s.PoolLists) (k : Chan) (c : Client) :
    (s.stopRunning k c).WaitsOk := by
  have pool : (s.stopped k).PoolLists := hp.congr (by simp) (by simp)
  have done : (((s.stopped k).activate k).noteSource k (some c)).WaitsOk := by
    refine h.activate hp.pool.unique (t := s.stopped k) (k := k) (by simp) (by simp) (by simp) (by simp)
      fun j hj hr => ?_
    rw [State.noteSource_channel, State.activate_channel, State.channel_stopped, if_neg hj]
    exact hr
  have pool' : (((s.stopped k).activate k).noteSource k (some c)).PoolLists :=
    (pool.activate k).congr (by simp) (by simp)
  exact (done.settleRefs pool'.pool.unique).congr (by simp [State.stopRunning_eq]) (by simp [State.stopRunning_eq])
    fun j _ hr => by simpa [State.stopRunning_eq] using hr

theorem State.WaitsOk.letGo {s : State} (h : s.WaitsOk) (hp : s.PoolLists) (k : Chan) (c : Client) :
    (s.letGo k c).WaitsOk := by
  have set : (s.setChannel k (s.channel k).letGo).WaitsOk := h.congr (by simp) (by simp) fun j _ =>
    State.state_setChannel (fun hr => by simp [Channel.letGo, hr]) j
  have settled := set.settleRefs (hp.congr (t := s.setChannel k (s.channel k).letGo) (by simp) (by simp)).pool.unique
  unfold State.letGo
  dsimp only
  split
  · exact settled
  · exact settled.congr (by simp) (by simp) fun j _ hr => by simpa using hr

theorem State.WaitsOk.dropClaims {s : State} (h : s.WaitsOk) (hp : s.PoolLists) (gone : Client → Pin → Bool) :
    (s.dropClaims gone).WaitsOk := by
  refine State.waitsOk_of h hp.pool.unique (hp.dropClaims gone).pool.unique (fun held => held.dropClaims gone)
    fun runs k hk => ?_
  rw [State.waitList_dropClaims] at hk
  rw [State.dropClaims_channel]
  exact runs k fun e => hk (by rw [e]; rfl)

theorem State.WaitsOk.tearChannels {s : State} (h : s.WaitsOk) (hp : s.PoolLists) (c : Client) :
    (s.tearChannels c).WaitsOk := by
  unfold State.tearChannels
  refine (foldl_inv (P := fun t => t.WaitsOk ∧ t.PoolLists) (l := allChans)
    (f := fun t k => if (t.channel k).owner = some c then t.letGo k c else t) (fun t k _ ht => ?_) ⟨h, hp⟩).1
  split
  · exact ⟨ht.1.letGo ht.2 k c, ht.2.congr (by simp) (by simp)⟩
  · exact ht

theorem State.WaitsOk.torn {s : State} (h : s.WaitsOk) (hp : s.PoolLists) (c : Client) : (s.torn c).WaitsOk := by
  have claims : (s.tearClaims c).WaitsOk :=
    ((h.dropClaims hp fun c' _ => c' = c).settleRefs (hp.dropClaims _).pool.unique).congr
      (State.noteTops_claims ..) (State.noteTops_waitLists ..) fun k _ hr => by
        unfold State.tearClaims; rw [State.noteTops_channel]; exact hr
  have watches : ((s.tearClaims c).tearWatches c).WaitsOk := claims.congr (by simp) (by simp) fun k _ hr => by
    rw [State.channel_tearWatches]; exact hr
  exact watches.tearChannels ((hp.tearClaims c).congr (by simp) (by simp)) c

theorem State.WaitsOk.teardown {s : State} (h : s.WaitsOk) (hp : s.PoolLists) (c : Client) (cause : EndCause) :
    (s.teardown c cause).WaitsOk :=
  (h.torn hp c).congr (by simp [State.teardown_eq]) (by simp [State.teardown_eq]) fun k _ hr => by
    rw [State.channel_teardown]; exact hr

theorem State.WaitsOk.tickComes {s : State} (h : s.WaitsOk) (hp : s.PoolLists) : s.tickComes.WaitsOk := by
  refine State.waitsOk_of h hp.pool.unique hp.tickComes.pool.unique (fun held k => ?_)
    (fun runs => runs.congr (by simp) fun k _ hr => by simpa using hr)
  rw [State.tickComes_waitList]
  refine ⟨(held k).1, fun c p => ?_⟩
  rw [(held k).2]
  simp only [State.WaitsFor, State.claimAt_map s.claims_tickComes fun q _ => by
    split
    · exact ⟨rfl, rfl⟩
    · exact ⟨q.tick_fields.1, q.tick_fields.2.1⟩]
  have wait : ∀ q : Claim, (if s.inReset = true then q else q.tick).wait = q.wait := fun q => by
    split
    · rfl
    · exact q.tick_fields.2.2.2.2.2.1
  cases s.claimAt c p <;> simp [wait]

theorem State.claimLive_eq (s : State) (c : Client) (a : ClaimArgs) : s.claimLive c a =
    (State.noteTops s (some c) ((s.addClaim (newClaim c a none)).enterList c a.pin)).recount.resolvePads := rfl

theorem State.claimPending_eq (s : State) (c : Client) (a : ClaimArgs) (k : Chan) : s.claimPending c a k =
    ((s.addClaim (newClaim c a (some k))).enterWait c a.pin k).recount := rfl

@[simp] theorem State.addClaim_channel (s : State) (q : Claim) (k : Chan) : (s.addClaim q).channel k = s.channel k := rfl

theorem State.WaitsOk.claimLive {s : State} (h : s.WaitsOk) (hp : s.PoolLists) {c : Client} {a : ClaimArgs}
    (may : s.MayClaim c a) : (s.claimLive c a).WaitsOk := by
  refine State.waitsOk_of h hp.pool.unique (hp.claimLive may).pool.unique
    (fun held => held.addClaim (q := newClaim c a none) may.new (by simp [State.claimLive_eq]) fun k => ?_)
    (fun runs => runs.congr (by simp [State.claimLive_eq]) fun k _ hr => ?_)
  · simp [newClaim, State.claimLive_eq]
  · simpa [State.claimLive_eq, State.state_recount] using hr

theorem State.WaitsOk.claimPending {s : State} (h : s.WaitsOk) (hp : s.PoolLists) {c : Client} {a : ClaimArgs}
    (may : s.MayClaim c a) {k : Chan} (hk : (s.channel k).state = .running) : (s.claimPending c a k).WaitsOk := by
  have fresh : s.WaitsHeld → ∀ j, (s.waitList j).filter (· ≠ (c, a.pin)) = s.waitList j := fun held j => by
    refine List.filter_eq_self.mpr fun w hw => decide_eq_true fun e => ?_
    subst e
    obtain ⟨q, hq, -⟩ := ((held j).2 c a.pin).mp hw
    rw [may.new] at hq; cases hq
  have lists : s.WaitsHeld → ∀ j, (s.claimPending c a k).waitList j =
      s.waitList j ++ if k = j then [(c, a.pin)] else [] := fun held j => by
    rw [State.claimPending_eq, State.recount_waitList, State.waitList_enterWait, State.addClaim_waitList, fresh held]
  have held := ((State.waitsOk_iff hp.pool.unique).mp h).1
  refine State.waitsOk_of h hp.pool.unique (hp.claimPending may k).pool.unique
    (fun held => held.addClaim (q := newClaim c a (some k)) may.new (by simp [State.claimPending_eq]) fun j => ?_)
    (fun runs j hj => ?_)
  · rw [lists held]; simp [newClaim]
  · rw [lists held] at hj
    simp only [State.claimPending_eq, State.state_recount, State.enterWait_channel, State.addClaim_channel]
    by_cases e : k = j
    · exact e ▸ hk
    · exact runs j (by simpa [e] using hj)

theorem State.WaitsOk.modifyNow {s : State} (h : s.WaitsOk) (hp : s.PoolLists) {c : Client} {q : Claim} {a : ModifyArgs}
    (may : s.MayModify c q a) : (s.modifyNow c q a).WaitsOk := by
  obtain ⟨hm, hc, hpin⟩ := State.claimAt_mem may.claim
  obtain ⟨fc, fp, -⟩ := q.rehold_fields a.hold
  have done : (State.noteTops s (some c) (s.modifiedPool c q a)).WaitsOk := by
    refine State.waitsOk_of h hp.pool.unique ((hp.modifiedPool may).congr (by simp) (by simp)).pool.unique
      (fun held => ?_) (fun runs k hk => ?_)
    · refine (held.setClaim_leave may.claim (q' := q.modified a) (fc.trans hc) (fp.trans hpin) rfl).congr ?_ ?_
      · rw [State.noteTops_claims, State.modifiedPool_claims]; simp
      · rw [State.noteTops_waitLists, State.modifiedPool_waitLists, hpin]
    · rw [State.noteTops_waitList, State.waitList_congr (s.modifiedPool_waitLists c q a), State.waitList_leaveWait] at hk
      rw [State.noteTops_channel, State.channel_congr (s.modifiedPool_channels c q a)]
      exact runs k fun e => hk (by simp [e])
  have pool : (State.noteTops s (some c) (s.modifiedPool c q a)).PoolLists :=
    (hp.modifiedPool may).congr (by simp) (by simp)
  exact (done.settleRefs pool.pool.unique).congr (by simp [State.modifyNow_eq]) (by simp [State.modifyNow_eq])
    fun k _ hr => by simpa [State.modifyNow_eq] using hr

theorem State.WaitsOk.modifyLater {s : State} (h : s.WaitsOk) (hp : s.PoolLists) {c : Client} {q : Claim}
    {a : ModifyArgs} (may : s.MayModify c q a) {k : Chan} (hk : (s.channel k).state = .running) :
    (s.modifyLater c q a k).WaitsOk := by
  obtain ⟨hm, hc, hpin⟩ := State.claimAt_mem may.claim
  obtain ⟨fc, fp, fr, -, fs⟩ := q.rehold_fields a.hold
  have pool : ((s.setClaim (q.deferred a k)).enterWait c q.pin k).PoolLists :=
    (hp.setClaim may.claim (Claim.deferred_ok (hp.pool.2.2 q hm) may.live may.given may.rank may.hold k)
      (fc.trans hc) (fp.trans hpin) fs fr).congr (by simp) (by simp)
  rw [State.modifyLater_eq]
  refine State.WaitsOk.settleRefs ?_ pool.pool.unique
  refine State.waitsOk_of h hp.pool.unique pool.pool.unique (fun held => ?_) (fun runs j hj => ?_)
  · rw [hpin]
    exact held.setClaim_enter may.claim (fc.trans hc) (fp.trans hpin) rfl
  · rw [State.waitList_enterWait, State.setClaim_waitList] at hj
    rw [State.enterWait_channel, State.setClaim_channel]
    by_cases e : k = j
    · exact e ▸ hk
    · exact runs j fun e' => hj (by simp [e', e])

theorem State.WaitsOk.dropClaim {s : State} (h : s.WaitsOk) (hp : s.PoolLists) (c : Client) (p : Pin)
    (x : Option Client) : (s.dropClaim c p x).settleRefs.WaitsOk :=
  State.WaitsOk.settleRefs ((h.dropClaims hp fun c' p' => c' = c && p' = p).congr (State.noteTops_claims ..)
    (State.noteTops_waitLists ..) fun k _ hr => by unfold State.dropClaim; rw [State.noteTops_channel]; exact hr)
    (hp.dropClaim c p x).pool.unique

theorem State.WaitsOk.empty {s : State} (hc : s.claims = []) (hl : ∀ k : Chan, s.waitList k = []) : s.WaitsOk :=
  fun k => by simp [hc, hl]

/-- An event that leaves the pool and the waiting lists alone and stops no channel. -/
theorem State.WaitsOk.running {s t : State} (h : s.WaitsOk) (hc : t.claims = s.claims) (hw : t.waitLists = s.waitLists)
    (hr : ∀ k : Chan, (s.channel k).state = .running → (t.channel k).state = .running) : t.WaitsOk :=
  h.congr hc hw fun k _ => hr k

theorem State.WaitsOk.setChannel {s : State} (h : s.WaitsOk) {k : Chan} {ch : Channel}
    (hr : (s.channel k).state = .running → ch.state = .running) : (s.setChannel k ch).WaitsOk :=
  h.running (by simp) (by simp) (State.state_setChannel hr)

theorem Event.waitsOk {s t : State} (e : Event s t) (hp : s.PoolLists) (h : s.WaitsOk) : t.WaitsOk := by
  cases e with
  | edge p =>
    refine h.running (by simp) (by simp) fun k hr => ?_
    rw [State.channel_takeEdge, Channel.handEdge_state]; exact hr
  | edgeBegins p =>
    refine h.running (by simp) (by simp) fun k hr => ?_
    rw [State.channel_beginEdge, State.channel_takeEdge, Channel.handEdge_state]; exact hr
  | input k _ => exact h.takeInput hp k
  | trigger k => exact h.running (by simp) (by simp) fun j hr => State.state_startChans [k] none j hr
  | tick => exact h.tickComes hp
  | hold c p _ =>
    exact (h.dropClaim hp c p none).running (by simp [State.expireHold]) (by simp [State.expireHold])
      fun k hr => by simpa [State.expireHold] using hr
  | grace c _ => exact h.teardown hp c .lapsed
  | reset => exact .empty rfl fun k => by simp [State.deviceReset, State.waitList]
  | resetLasts => exact h.running rfl rfl fun _ hr => hr
  | resetEnds => exact h.running rfl rfl fun _ hr => hr
  | _ => exact h.running (by simp) (by simp) fun k hr => by simpa using hr

theorem State.channel_writePolicy (s : State) (p : Pin) (e : Policy) (k : Chan) : (s.writePolicy p e).channel k =
    if (s.pad p).tickDue = true then (s.takeEdge p).channel k else s.channel k := by
  unfold State.writePolicy
  dsimp only
  split <;> simp

/-- A COMMIT starts and stops no channel (R77). -/
theorem Channel.commitStaged_fields (ch : Channel) (x : Staged) : (ch.commitStaged x).1.state = ch.state ∧
    (ch.commitStaged x).1.owner = ch.owner ∧ (ch.commitStaged x).1.output = ch.output ∧
    (ch.commitStaged x).1.settings.clock = ch.settings.clock := by
  unfold Channel.commitStaged
  (repeat' split) <;> exact ⟨rfl, rfl, rfl, rfl⟩

theorem Effect.waitsOk {c : Client} {s t : State} (e : Effect c s t) (hp : s.PoolLists) (h : s.WaitsOk) :
    t.WaitsOk := by
  cases e with
  | unchanged => exact h
  | closes => exact h.teardown hp c .closed
  | resets => exact .empty rfl fun k => by simp [State.deviceReset, State.waitList, State.firstSamples, State.mapPads]
  | setsPolicy p e =>
    refine h.running (by simp) (by simp) fun k hr => ?_
    rw [State.channel_writePolicy]
    split
    · rw [State.channel_takeEdge, Channel.handEdge_state]; exact hr
    · exact hr
  | claimsLive a may => exact h.claimLive hp may
  | claimsPending a k may _ hk => exact h.claimPending hp may hk
  | modifiesNow q a may => exact h.modifyNow hp may
  | modifiesLater q a k may _ hk => exact h.modifyLater hp may hk
  | releases p q _ =>
    exact (h.dropClaim hp c p (some c)).running (by simp [State.releaseClaim]) (by simp [State.releaseClaim])
      fun k hr => by simpa [State.releaseClaim] using hr
  | binds k _ free =>
    refine (h.setChannel (k := k) fun e => ?_).running (State.recount_claims _) (State.recount_waitLists _)
      fun j hr => (State.state_recount _ j).trans hr
    rw [free] at e; cases e
  | configures k r =>
    have set : (s.setChannel k { s.channel k with settings := r, staging := none }).WaitsOk := h.setChannel fun hr => hr
    exact set.settleRefs (hp.congr (t := s.setChannel k { s.channel k with settings := r, staging := none })
      (by simp) (by simp)).pool.unique
  | stages k x => exact h.setChannel fun hr => hr
  | commits k x => exact h.setChannel fun hr => (Channel.commitStaged_fields _ x).1.trans hr
  | cancels k => exact h.setChannel fun hr => hr
  | starts ks => exact h.running (by simp) (by simp) fun j hr => State.state_startChans ks (some c) j hr
  | arms k p e _ idle =>
    refine h.setChannel fun hr => ?_
    rw [hr] at idle
    exact absurd idle (by decide)
  | stops k => exact h.stopRunning hp k c
  | disarms k _ armed =>
    refine h.setChannel fun hr => ?_
    rw [armed] at hr; cases hr
  | releasesChannel k => exact h.letGo hp k c
  | adopts k =>
    have set : (s.setChannel k { s.channel k with owner := some c }).WaitsOk := h.setChannel fun hr => hr
    refine set.running (by simp [State.adopt]) (by simp [State.adopt]) fun j hr => ?_
    unfold State.adopt
    rw [State.noteSource_channel, State.state_recount]; exact hr
  | addsWatch w =>
    exact h.running (by simp) (by simp) fun j hr => (State.state_recount _ j).trans hr
  | dropsWatch p =>
    exact h.running (by simp) (by simp) fun j hr => (State.state_recount _ j).trans hr
  | _ => exact h.running (by simp) (by simp) fun k hr => by simpa using hr

/-! ## The step lemma of the pool, the claim lists and the waiting lists -/

/-- The laws of R1, R2, R4, R5 and R50 together. -/
structure State.ClaimBlock (s : State) : Prop where
  base : s.PoolLists
  waits : s.WaitsOk

theorem State.ClaimBlock.congr {s t : State} (h : s.ClaimBlock) (hc : t.claims = s.claims)
    (hl : t.claimLists = s.claimLists) (hw : t.waitLists = s.waitLists)
    (hr : ∀ k : Chan, (s.channel k).state = .running → (t.channel k).state = .running) : t.ClaimBlock :=
  ⟨h.base.congr hc hl, h.waits.running hc hw hr⟩

theorem claimBlock_keeps : Keeps State.ClaimBlock where
  pending _ _ h := h.congr rfl rfl rfl fun _ hr => hr
  event _ _ h e := ⟨e.poolLists h.base, e.waitsOk h.base h.waits⟩
  base s _ h := h.congr (State.baseTick_claims _) (State.baseTick_claimLists _) (State.baseTick_waitLists _)
    fun k hr => (State.state_baseTick _ k).trans hr
  request s u c tag st pl h _ _ e := by
    have taken : (s.taken c).ClaimBlock := h.congr rfl rfl rfl fun _ hr => hr
    have done : u.ClaimBlock := ⟨e.poolLists taken.base, e.waitsOk taken.base taken.waits⟩
    exact done.congr (by simp) (by simp) (by simp) fun k hr => by simpa using hr

/-- Settles O11: the pool and the claim lists are kept on their own, the waiting lists with them. -/
theorem everyStepKeepsTheClaimPool : Obligations.EveryStepKeepsTheClaimPool := by
  intro s t ⟨hp, hl, hw⟩ ht
  obtain ⟨⟨hp', hl'⟩, hw'⟩ := claimBlock_keeps.step ⟨⟨hp, hl⟩, hw⟩ ht
  exact ⟨hp', hl', hw'⟩

end Sys2Proof.Machine
end

section
/-! PROOFS. The pads at their pins' resolution (R8, R9, R39 to R41) through every event and every effect. -/

namespace Sys2Proof.Machine

open Sys2Proof

/-! ## What a resolution looks at -/

/-- The level of a source looks at the outputs of the channels it names. -/
theorem State.levelOf_congr_names {s t : State} {src : Source}
    (h : ∀ k : Chan, src.names k = true → (t.channel k).output = (s.channel k).output) :
    t.levelOf src = s.levelOf src := by
  cases src with
  | high => rfl
  | low => rfl
  | float => rfl
  | ch k => simp only [State.levelOf, h k (by simp [Source.names])]
  | chn k => simp only [State.levelOf, h k (by simp [Source.names])]
  | gate k m => simp only [State.levelOf, h k (by simp [Source.names]), h m (by simp [Source.names])]

/-- A pin's resolution looks at its policy entry, its top claim's source and the outputs this names. -/
theorem State.resolve_congr_top {s t : State} {p : Pin} (hp : t.policy p = s.policy p)
    (ht : (t.topClaim p).map (·.source) = (s.topClaim p).map (·.source))
    (ho : ∀ q ∈ s.claims, ∀ k : Chan, q.source.names k = true → (t.channel k).output = (s.channel k).output) :
    t.resolve p = s.resolve p := by
  unfold State.resolve
  rw [hp]
  cases hs : s.topClaim p with
  | none =>
    rw [hs, Option.map_none, Option.map_eq_none_iff] at ht
    rw [ht]
  | some q =>
    rw [hs, Option.map_some, Option.map_eq_some_iff] at ht
    obtain ⟨r, hr, e⟩ := ht
    have hq : q ∈ s.claims := by
      unfold State.topClaim at hs
      rw [Option.bind_eq_some_iff] at hs
      obtain ⟨c, -, hc⟩ := hs
      exact (State.claimAt_mem hc).1
    simp only [hr, e, State.levelOf_congr_names (ho q hq)]

/-- Two states with the same policy, pool and claim lists, and with the same outputs where a claim looks. -/
theorem State.resolve_congr_pool {s t : State} (hp : t.policies = s.policies) (hc : t.claims = s.claims)
    (hl : t.claimLists = s.claimLists)
    (ho : ∀ q ∈ s.claims, ∀ k : Chan, q.source.names k = true → (t.channel k).output = (s.channel k).output)
    (p : Pin) : t.resolve p = s.resolve p := by
  refine State.resolve_congr_top (State.policy_congr hp p) ?_ ho
  simp only [State.topClaim, State.top, State.claimList_congr hl, State.claimAt_congr hc]

/-! ## What keeps the pads resolved -/

/-- A pad's drive: what resolution and the board make of it, and not its filter. -/
def Pad.drive (pad : Pad) : (Driven × Pull) × Level × BoardLevel := ((pad.driven, pad.pull), pad.raw, pad.board)

theorem State.PadsOk.congr {s t : State} (h : s.PadsOk) (hd : ∀ p : Pin, (t.pad p).drive = (s.pad p).drive)
    (hp : t.policies = s.policies) (hr : ∀ p : Pin, t.resolve p = s.resolve p) : t.PadsOk := by
  intro p
  have e := hd p
  simp only [Pad.drive, Prod.mk.injEq] at e
  obtain ⟨⟨hdriven, hpull⟩, hraw, hboard⟩ := e
  rw [hdriven, hpull, hraw, hboard, hr, State.policy_congr hp]
  exact h p

/-- An event that changes nothing the pins look at. -/
theorem State.PadsOk.frame {s t : State} (h : s.PadsOk) (hd : ∀ p : Pin, (t.pad p).drive = (s.pad p).drive)
    (hp : t.policies = s.policies) (hc : t.claims = s.claims) (hl : t.claimLists = s.claimLists)
    (ho : ∀ k : Chan, (t.channel k).output = (s.channel k).output) : t.PadsOk :=
  h.congr hd hp (State.resolve_congr_pool hp hc hl fun _ _ k _ => ho k)

/-- The resolution of all pins puts the pads right (R9). -/
theorem State.padsOk_resolvePads {s : State} (h : ∀ p : Pin, policyOk (s.policy p) = true) : s.resolvePads.PadsOk :=
  fun p => by
    rw [State.resolve_resolvePads, State.pad_resolvePads, State.resolvePads_policy]
    exact ⟨rfl, rfl, h p⟩

/-- An event that ends with the resolution of all pins and leaves the policy table. -/
theorem State.PadsOk.resolved {s t u : State} (h : s.PadsOk) (e : t = u.resolvePads) (hp : t.policies = s.policies) :
    t.PadsOk := by
  subst e
  refine State.padsOk_resolvePads fun p => ?_
  rw [← State.resolvePads_policy, State.policy_congr hp]
  exact (h p).2.2

/-- The settling of references frees no channel that a claim names (R95, R97). -/
theorem State.channel_settleRefs_of_named {s : State} {k : Chan} {q : Claim} (hq : q ∈ s.claims)
    (hk : q.names k = true) : s.settleRefs.channel k = { s.channel k with refs := s.settleRefs.refsOf k } := by
  obtain e | ⟨-, -, -, hz⟩ := s.settleRefs_cases k
  · exact e
  · have pos : 0 < s.settleRefs.claims.countP (·.names k) :=
      List.countP_pos_iff.mpr ⟨q, by rwa [State.settleRefs_claims], hk⟩
    unfold State.refsOf at hz
    omega

theorem Claim.names_of_source {q : Claim} {k : Chan} (h : q.source.names k = true) : q.names k = true := by
  simp [Claim.names, h]

/-- The settling of references leaves every pin's resolution. -/
theorem State.resolve_settleRefs (s : State) (p : Pin) : s.settleRefs.resolve p = s.resolve p :=
  State.resolve_congr_pool (by simp) (by simp) (by simp)
    (fun q hq k hk => by rw [State.channel_settleRefs_of_named hq (Claim.names_of_source hk)]) p

theorem State.PadsOk.settleRefs {s : State} (h : s.PadsOk) : s.settleRefs.PadsOk :=
  h.congr (by simp) (by simp) s.resolve_settleRefs

theorem State.PadsOk.setChannel {s : State} (h : s.PadsOk) {k : Chan} {ch : Channel}
    (ho : ch.output = (s.channel k).output) : (s.setChannel k ch).PadsOk :=
  h.frame (by simp) (by simp) (by simp) (by simp) fun j => by
    rw [State.channel_setChannel]
    split
    · next e => rw [ho, e]
    · rfl

theorem State.output_recount (s : State) (k : Chan) : (s.recount.channel k).output = (s.channel k).output := by
  rw [State.channel_recount]

theorem State.PadsOk.recount {s : State} (h : s.PadsOk) : s.recount.PadsOk :=
  h.frame (by simp) (by simp) (by simp) (by simp) s.output_recount

theorem Channel.handEdge_output (ch : Channel) (p : Pin) (e : Edge) : (ch.handEdge p e).output = ch.output := by
  unfold Channel.handEdge
  (repeat' split) <;> rfl

theorem State.pad_takeEdge_drive (s : State) (p x : Pin) : ((s.takeEdge p).pad x).drive = (s.pad x).drive := by
  rw [State.pad_takeEdge]
  split
  · next e => subst e; rfl
  · rfl

theorem State.PadsOk.takeEdge {s : State} (h : s.PadsOk) (p : Pin) : (s.takeEdge p).PadsOk :=
  h.frame (s.pad_takeEdge_drive p) (by simp) (by simp) (by simp) fun k => by
    rw [State.channel_takeEdge, Channel.handEdge_output]

theorem Pad.tick_drive (pad : Pad) (n : Nat) : (pad.tick n).drive = pad.drive := by
  unfold Pad.tick
  (repeat' split) <;> rfl

theorem State.pad_tickComes (s : State) (p : Pin) : s.tickComes.pad p =
    if s.inReset = true then s.pad p else (s.pad p).tick (s.policy p).filterLen.val := by
  unfold State.tickComes
  split
  · rfl
  · exact State.pad_mapPads ..

theorem State.claimAt_tickComes (s : State) (c : Client) (p : Pin) : s.tickComes.claimAt c p =
    (s.claimAt c p).map fun q => if s.inReset = true then q else q.tick :=
  State.claimAt_map s.claims_tickComes (fun q _ => by
    split
    · exact ⟨rfl, rfl⟩
    · exact ⟨q.tick_fields.1, q.tick_fields.2.1⟩) c p

theorem State.PadsOk.tickComes {s : State} (h : s.PadsOk) : s.tickComes.PadsOk := by
  refine h.congr (fun p => ?_) (by simp) fun p => ?_
  · rw [State.pad_tickComes]
    split
    · rfl
    · exact Pad.tick_drive ..
  · have source : ∀ q : Claim, (if s.inReset = true then q else q.tick).source = q.source := fun q => by
      split
      · rfl
      · exact q.tick_fields.2.2.2.1
    refine State.resolve_congr_top (by simp) ?_ fun _ _ k _ => by simp
    simp only [State.topClaim, State.top, State.tickComes_claimList, State.claimAt_tickComes]
    cases (s.claimList p).head? with
    | none => rfl
    | some c => cases hc : s.claimAt c p <;> simp [hc, source]

theorem State.PadsOk.boardChange {s : State} (h : s.PadsOk) (p : Pin) (b : BoardLevel) : (s.boardChange p b).PadsOk := by
  intro x
  have hr : (s.boardChange p b).resolve x = s.resolve x :=
    State.resolve_congr_pool (by simp) (by simp) (by simp) (fun _ _ _ _ => by simp) x
  rw [hr, State.boardChange_policy]
  simp only [State.boardChange, State.pad_setPad]
  split
  · next e => subst e; exact ⟨(h p).1, rfl, (h p).2.2⟩
  · exact h x

/-- A part at its reset values: every pad RELEASED with the pull-down (R38). -/
theorem State.padsOk_deviceReset (s : State) (cause : ResetCause) : (s.deviceReset cause).PadsOk := by
  intro p
  have hp : (s.deviceReset cause).policy p = Policy.atReset := by simp [State.deviceReset, State.policy]
  have hl : (s.deviceReset cause).claimList p = [] := by simp [State.deviceReset, State.claimList]
  have hd : (s.deviceReset cause).pad p = (s.pad p).cleared := by simp [State.deviceReset, State.pad]
  have hr : (s.deviceReset cause).resolve p = (.released, .down) := by
    simp [State.resolve, hp, State.topClaim, State.top, hl, Policy.atReset, Policy.idle]
  rw [hd, hr, hp]
  exact ⟨rfl, rfl, rfl⟩

theorem State.PadsOk.firstSamples {s : State} (h : s.PadsOk) : s.firstSamples.PadsOk :=
  h.frame (fun p => by unfold State.firstSamples; rw [State.pad_mapPads, Pad.drive, Pad.drive]) (by simp) (by simp)
    (by simp) (by simp)

/-! ## Every event and every effect -/

theorem State.PadsOk.takeInput {s : State} (h : s.PadsOk) (k : Chan) : (s.takeInput k).PadsOk := by
  obtain e | e | e := s.takeInput_cases k <;> rw [e]
  · exact h.setChannel rfl
  · exact h.resolved rfl (by simp)
  · exact h.resolved rfl (by simp)

theorem Event.padsOk {s t : State} (e : Event s t) (h : s.PadsOk) : t.PadsOk := by
  cases e with
  | edge p => exact h.takeEdge p
  | edgeBegins p =>
    exact (h.takeEdge p).frame (fun x => by rw [State.pad_beginEdge]) (by simp) (by simp) (by simp) fun k => by
      rw [State.channel_beginEdge]
  | input k _ => exact h.takeInput k
  | trigger k => exact h.resolved rfl (by simp)
  | board p b => exact h.boardChange p b
  | tick => exact h.tickComes
  | hold c p _ =>
    have done : (s.dropClaim c p none).settleRefs.resolvePads.PadsOk :=
      h.resolved rfl (by simp [State.dropClaim])
    exact done.frame (by simp [State.expireHold]) (by simp [State.expireHold]) (by simp [State.expireHold])
      (by simp [State.expireHold]) (by simp [State.expireHold])
  | grace c _ => exact h.resolved rfl (by simp)
  | reset cause => exact (s.padsOk_deviceReset cause).frame (fun _ => rfl) rfl rfl rfl fun _ => rfl
  | resetLasts => exact h.frame (fun _ => rfl) rfl rfl rfl fun _ => rfl
  | resetEnds por nrstLow =>
    exact State.PadsOk.firstSamples (s := { s with por := por, nrstLow := nrstLow })
      (h.frame (fun _ => rfl) rfl rfl rfl fun _ => rfl)
  | _ => exact h.frame (by simp) (by simp) (by simp) (by simp) (by simp)

/-- The top of a pin has a LIVE claim, so a claim that joins the pool PENDING is not it. -/
theorem State.topClaim_addClaim {s : State} (h : s.PoolLists) (q : Claim) (new : s.claimAt q.client q.pin = none)
    (p : Pin) : (s.addClaim q).topClaim p = s.topClaim p := by
  unfold State.topClaim
  rw [State.top, State.addClaim_claimList, ← State.top]
  cases ht : s.top p with
  | none => rfl
  | some c =>
    have live := (((State.listsOk_iff h.pool.2.1).mp h.lists p).2.1 c).mp (List.mem_of_head? ht)
    obtain ⟨r, hr, -⟩ := live
    refine State.claimAt_addClaim_ne fun e => ?_
    cases e
    rw [new] at hr; cases hr

theorem State.PadsOk.claimPending {s : State} (h : s.PadsOk) (hp : s.PoolLists) {c : Client} {a : ClaimArgs}
    (may : s.MayClaim c a) (k : Chan) : (s.claimPending c a k).PadsOk := by
  have added : ((s.addClaim (newClaim c a (some k)))).PadsOk :=
    h.congr (fun _ => rfl) rfl fun p =>
      State.resolve_congr_top rfl (by rw [State.topClaim_addClaim hp _ may.new]) fun _ _ _ _ => rfl
  have entered : ((s.addClaim (newClaim c a (some k))).enterWait c a.pin k).PadsOk :=
    added.frame (by simp) (by simp) (by simp) (by simp) (by simp)
  exact entered.recount

theorem State.PadsOk.modifyLater {s : State} (h : s.PadsOk) {c : Client} {q : Claim}
    {a : ModifyArgs} (may : s.MayModify c q a) (k : Chan) : (s.modifyLater c q a k).PadsOk := by
  obtain ⟨-, hc, hpin⟩ := State.claimAt_mem may.claim
  obtain ⟨fc, fp, -, fsrc, -⟩ := q.rehold_fields a.hold
  have set : (s.setClaim (q.deferred a k)).PadsOk := by
    refine h.congr (by simp) (by simp) fun p => State.resolve_congr_top (by simp) ?_ fun _ _ _ _ => by simp
    simp only [State.topClaim, State.top, State.setClaim_claimList]
    cases (s.claimList p).head? with
    | none => rfl
    | some d =>
      simp only [Option.bind_some, State.claimAt_setClaim]
      split
      · next e =>
        have same : s.claimAt d p = some q := by
          rw [← e.1, ← e.2]
          simp only [Claim.deferred, fc, fp, hc, hpin]
          exact may.claim
        simp [same, Claim.deferred, fsrc]
      · rfl
  have entered : ((s.setClaim (q.deferred a k)).enterWait c q.pin k).PadsOk :=
    set.frame (by simp) (by simp) (by simp) (by simp) (by simp)
  exact entered.settleRefs

theorem State.PadsOk.letGo {s : State} (h : s.PadsOk) (k : Chan) (c : Client) : (s.letGo k c).PadsOk := by
  have set : (s.setChannel k (s.channel k).letGo).PadsOk := h.setChannel rfl
  have settled := set.settleRefs
  unfold State.letGo
  dsimp only
  split
  · exact settled
  · exact settled.frame (by simp) (by simp) (by simp) (by simp) (by simp)

theorem State.PadsOk.writePolicy {s : State} (h : s.PadsOk) (p : Pin) {e : Policy} (ok : policyOk e = true) :
    (s.writePolicy p e).PadsOk := by
  refine State.padsOk_resolvePads fun x => ?_
  rw [State.policy_setPad, State.policy_setPolicy]
  split
  · exact ok
  · split
    · rw [State.takeEdge_policy]; exact (h x).2.2
    · exact (h x).2.2

theorem Effect.padsOk {c : Client} {s t : State} (e : Effect c s t) (hp : s.PoolLists) (h : s.PadsOk) : t.PadsOk := by
  cases e with
  | unchanged => exact h
  | closes => exact h.resolved rfl (by simp)
  | resets => exact (s.padsOk_deviceReset _).firstSamples
  | setsPolicy p e ok => exact h.writePolicy p ok
  | claimsLive a => exact h.resolved rfl (by simp)
  | claimsPending a k may => exact h.claimPending hp may k
  | modifiesNow q a => exact h.resolved rfl (by simp)
  | modifiesLater q a k may => exact h.modifyLater may k
  | releases p q _ => exact h.resolved rfl (by simp)
  | binds k => exact State.PadsOk.recount (h.setChannel rfl)
  | configures k r => exact State.PadsOk.settleRefs (h.setChannel rfl)
  | stages k x => exact h.setChannel rfl
  | commits k x => exact h.setChannel (Channel.commitStaged_fields _ x).2.2.1
  | cancels k => exact h.setChannel rfl
  | starts ks => exact h.resolved rfl (by simp)
  | arms k p e => exact h.setChannel rfl
  | stops k => exact h.resolved rfl (by simp)
  | disarms k => exact h.setChannel rfl
  | releasesChannel k => exact h.letGo k c
  | adopts k =>
    have counted : (s.setChannel k { s.channel k with owner := some c }).recount.PadsOk :=
      State.PadsOk.recount (h.setChannel rfl)
    exact counted.frame (by simp [State.adopt]) (by simp [State.adopt]) (by simp [State.adopt]) (by simp [State.adopt])
      (by simp [State.adopt])
  | addsWatch w =>
    exact h.frame (by simp) (by simp) (by simp) (by simp) (State.output_recount { s with watches := s.watches ++ [w] })
  | dropsWatch p =>
    exact h.frame (by simp) (by simp) (by simp) (by simp) (State.output_recount
      { s with watches := s.watches.filter fun w => !(w.client = c && w.pin = p) })
  | _ => exact h.frame (by simp) (by simp) (by simp) (by simp) (by simp)

/-! ## The step lemma of the pads -/

/-- The laws of the pads with those of the pool and the claim lists, which the resolutions rest on. -/
structure State.PadBlock (s : State) : Prop where
  base : s.PoolLists
  pads : s.PadsOk

theorem State.PadBlock.frame {s t : State} (h : s.PadBlock) (hd : ∀ p : Pin, (t.pad p).drive = (s.pad p).drive)
    (hp : t.policies = s.policies) (hc : t.claims = s.claims) (hl : t.claimLists = s.claimLists)
    (ho : ∀ k : Chan, (t.channel k).output = (s.channel k).output) : t.PadBlock :=
  ⟨h.base.congr hc hl, h.pads.frame hd hp hc hl ho⟩

theorem State.output_baseTick (s : State) (k : Chan) : (s.baseTick.channel k).output = (s.channel k).output := by
  rw [State.channel_baseTick]; split <;> rfl

theorem padBlock_keeps : Keeps State.PadBlock where
  pending _ _ h := h.frame (fun _ => rfl) rfl rfl rfl fun _ => rfl
  event _ _ h e := ⟨e.poolLists h.base, e.padsOk h.pads⟩
  base s _ h := h.frame (fun p => by rw [State.baseTick_pad]) (State.baseTick_policies _) (State.baseTick_claims _)
    (State.baseTick_claimLists _) (State.output_baseTick _)
  request s u c tag st pl h _ _ e := by
    have taken : (s.taken c).PadBlock := h.frame (fun _ => rfl) rfl rfl rfl fun _ => rfl
    have done : u.PadBlock := ⟨e.poolLists taken.base, e.padsOk taken.base taken.pads⟩
    exact done.frame (by simp) (by simp) (by simp) (by simp) (by simp)

/-- Settles O14: a pad is resolved again wherever its pin's top claim, its policy entry or an output that the top
claim names may have changed. -/
theorem everyStepKeepsThePadsResolved : Obligations.EveryStepKeepsThePadsResolved := by
  intro s t ⟨hpads, hl, hp⟩ ht
  obtain ⟨⟨hp', hl'⟩, hpads'⟩ := padBlock_keeps.step ⟨⟨hp, hl⟩, hpads⟩ ht
  exact ⟨hpads', hl', hp'⟩

end Sys2Proof.Machine
end

section
/-! PROOFS. The reset values, the levels of sources and the table of resolutions, the millisecond tick and the expiries
that bring it. -/

namespace Sys2Proof.Machine

open Sys2Proof

/-! ## Reset values -/

/-- Settles O2: every table of the reset state is one value repeated. -/
theorem resetLeavesTheResetValues : Obligations.ResetLeavesTheResetValues := by
  refine ⟨⟨rfl, ?_, rfl, ?_, ?_, rfl, ?_, rfl⟩, rfl, ?_, ?_, rfl, rfl, rfl, rfl⟩
  · exact fun c => by simp [State.reset, State.session]
  · exact fun p => by simp [State.reset, State.claimList, State.policy]
  · exact fun k => by simp [State.reset, State.waitList, State.channel]
  · exact fun c => by simp [State.reset, State.queue]
  · exact fun c => by simp [State.reset, State.port]
  · intro p
    have pad : State.reset.pad p = Pad.atReset := by simp [State.reset, State.pad]
    simp only [PadReset, pad]
    exact ⟨⟨rfl, rfl, rfl, rfl⟩, rfl⟩

/-! ## Levels and resolutions (R7, R8) -/

theorem State.topClaim_of_nil {s : State} {p : Pin} (h : s.claimList p = []) : s.topClaim p = none := by
  simp [State.topClaim, State.top, h]

theorem State.topClaim_of_cons {s : State} {p : Pin} {c : Client} {rest : List Client} {q : Claim}
    (h : s.claimList p = c :: rest) (hq : s.claimAt c p = some q) : s.topClaim p = some q := by
  simp [State.topClaim, State.top, h, hq]

theorem State.resolve_inputOnly {s : State} {p : Pin} (h : (s.policy p).role = .inputOnly) :
    s.resolve p = (.released, (s.policy p).pull) := by simp [State.resolve, h]

theorem State.resolve_idle {s : State} {p : Pin} (h : (s.policy p).role = .io) (ht : s.topClaim p = none) :
    s.resolve p = (s.policy p).idle := by simp [State.resolve, h, ht]

theorem State.resolve_driven {s : State} {p : Pin} (h : (s.policy p).role = .io) {q : Claim}
    (ht : s.topClaim p = some q) : s.resolve p = (s.policy p).driven (s.levelOf q.source) := by
  simp [State.resolve, h, ht]

/-- A pin with a claim in its list is an IO pin (R3, R4). -/
theorem State.Lawful.role_of_claimList {s : State} (h : s.Lawful) {c : Client} {p : Pin} (hc : c ∈ s.claimList p) :
    (s.policy p).role = .io := by
  obtain ⟨q, hq, -, rfl, -⟩ := ((h.lists p).2.1 c).mp hc
  exact (h.claims q hq).2.1

/-- A channel that is not RUNNING has an inactive output (R53). -/
theorem Channel.Ok.output_of_not_running {ch : Channel} (h : ch.Ok) (hr : ch.state ≠ .running) : ch.output = false := by
  obtain ⟨-, -, -, -, -, -, ho, -⟩ := h
  simpa [hr] using ho

/-- Settles O4, from the definitions of R7 and R8; that an INPUT_ONLY pin has no claim and that a pin with claims is an
IO pin is R3. -/
theorem sourcesGiveLevelsAndPinsResolve : Obligations.SourcesGiveLevelsAndPinsResolve := by
  refine ⟨fun s k m h => ⟨(h.channels k).output_of_not_running, rfl, rfl, rfl, rfl, rfl, by simp [State.levelOf]⟩,
    fun s p h => ⟨fun hr => ⟨?_, State.resolve_inputOnly hr⟩, fun hr hl => ?_, fun c rest q hl hq => ?_⟩⟩
  · refine List.eq_nil_iff_forall_not_mem.mpr fun c hc => ?_
    rw [h.role_of_claimList hc] at hr; cases hr
  · rw [State.resolve_idle hr (State.topClaim_of_nil hl)]
    unfold Policy.idle
    cases (s.policy p).dflt <;> cases (s.policy p).drive <;> rfl
  · have hr := h.role_of_claimList (hl ▸ List.mem_cons_self)
    rw [State.resolve_driven hr (State.topClaim_of_cons hl hq)]
    unfold Policy.driven
    cases s.levelOf q.source with
    | none => rfl
    | some l => cases l <;> cases (s.policy p).drive <;> rfl

/-! ## Ticks -/

/-- An event that is not due but that the next tick makes due is that tick with the event first. -/
theorem State.ofTick_nextTick {s : State} {due : State → Bool} {event : State → State} (h : due s = false)
    (ht : due s.nextTick = true) : s.ofTick due event = s.nextTick.ofTick due event := by
  simp [State.ofTick, h, ht]

/-- Settles O57: in a calm state no settling comes between the tick and the event it brings. -/
theorem expiriesBringTheirTick : Obligations.ExpiriesBringTheirTick := by
  intro s m hs hm
  have tick : s.nextTick = m := by
    have : s.settle.nextTick = m := by injection hm
    rwa [hs.settle] at this
  subst tick
  refine ⟨fun c p h ht hm => ?_, fun c h ht hm => ?_, fun c h ht hm => ?_, fun p h ht hm => ?_⟩
  · simp only [exec, execHoldExpiry, hs.settle, hm.settle]
    rw [State.ofTick_nextTick h ht]
  · simp only [exec, execLeaseExpiry, hs.settle, hm.settle]
    rw [State.ofTick_nextTick h ht]
  · simp only [exec, execGraceExpiry, hs.settle, hm.settle]
    rw [State.ofTick_nextTick h ht]
  · obtain ⟨hr, hl, ho⟩ := hs
    obtain ⟨hr', hl', ho'⟩ := hm
    have due : s.edgeDue p = false := h
    have due' : s.nextTick.edgeDue p = true := ht
    have settled : s.settle = s := State.settle_of_calm hl ho
    simp only [exec, execFilteredEdge, hr, ho, hl p, due, settled, hr', ho', due', State.endEdge_of_none ho',
      State.ofTick, Bool.false_eq_true, if_false, Option.any_none, Bool.or_true, Bool.or_false, if_true]

theorem BitVec.ofNat_toNat_sub_one {w : Word} (h : w.toNat ≠ 0) : BitVec.ofNat 16 (w.toNat - 1) = w - 1 := by
  refine BitVec.eq_of_toNat_eq ?_
  rw [BitVec.toNat_ofNat, BitVec.toNat_sub]
  have := w.isLt
  simp; omega

/-- The counting of a hold (R26). -/
theorem Claim.tick_eq {q : Claim} (h : q.Ok) : q.tick =
    match q.state, q.holdLeft with
    | .live, some w => if w = 1 then { q with tickDue := true } else { q with holdLeft := some (w - 1) }
    | .live, none => q
    | .pending, _ => q := by
  obtain ⟨-, -, -, -, -, hleft, -⟩ := h
  unfold Claim.tick
  cases hs : q.state with
  | pending => rfl
  | live =>
    cases hw : q.holdLeft with
    | none => rfl
    | some w =>
      rw [hw, Option.all_some, Bool.and_eq_true, decide_eq_true_eq] at hleft
      have one : w.toNat ≤ 1 ↔ w = 1 :=
        ⟨fun e => BitVec.eq_of_toNat_eq (show w.toNat = 1 by omega), fun e => by rw [e]; decide⟩
      dsimp only
      unfold countDown
      by_cases e : w = 1
      · rw [if_pos (one.mpr e), if_pos e]
      · rw [if_neg fun e' => e (one.mp e'), if_neg e, ← BitVec.ofNat_toNat_sub_one (w := w) (by omega)]

/-- The counting of a lease or a grace period (R125, R127). -/
theorem Session.tick_eq {e : Session} (h : e.Ok) : e.tick =
    match e.state, e.leaseRemaining, e.graceRemaining with
    | .opened, some n, _ => if n = 1 then { e with tickDue := true } else { e with leaseRemaining := some (n - 1) }
    | .grace, _, some n => if n = 1 then { e with tickDue := true } else { e with graceRemaining := some (n - 1) }
    | _, _, _ => e := by
  obtain ⟨-, hopen, hgrace, hl, hg, -⟩ := h
  unfold Session.tick countDown
  cases hs : e.state with
  | closed => rfl
  | opened =>
    obtain ⟨n, hn⟩ := Option.isSome_iff_exists.mp (hopen.mpr hs)
    have := hl n hn
    by_cases e1 : n = 1
    · simp [hn, e1]
    · have : ¬n ≤ 1 := by omega
      simp [hn, e1, this]
  | grace =>
    obtain ⟨n, hn⟩ := Option.isSome_iff_exists.mp (hgrace.mpr hs)
    have := hg n hn
    by_cases e1 : n = 1
    · simp [hn, e1]
    · have : ¬n ≤ 1 := by omega
      simp [hn, e1, this]

/-- With nothing left of the last tick, the next one just comes. -/
theorem State.takeDue_of_none {s : State} (hq : ∀ q ∈ s.claims, q.tickDue = false)
    (hc : ∀ c : Client, (s.session c).tickDue = false) (hp : ∀ p : Pin, (s.pad p).tickDue = false) :
    s.takeDue = s := by
  have hold : ∀ c p, s.holdDue c p = false := fun c p => by
    unfold State.holdDue
    cases h : s.claimAt c p with
    | none => rfl
    | some q => simp [hq q (State.claimAt_mem h).1]
  unfold State.takeDue
  refine foldl_inv (P := (· = s)) (fun t p _ ht => ?_) (foldl_inv (P := (· = s)) (fun t c _ ht => ?_)
    (foldl_inv (P := (· = s)) (fun t p _ ht => foldl_inv (P := (· = s)) (fun u c _ hu => ?_) ht) rfl))
  · subst ht; simp [State.edgeDue, hp]
  · subst ht; simp [State.leaseDue, State.graceDue, hc]
  · subst hu; simp [hold]

theorem State.session_tickComes (s : State) (c : Client) : s.tickComes.session c =
    if s.inReset = true then s.session c else (s.session c).tick := by
  unfold State.tickComes
  split
  · rfl
  · exact State.session_mapSessions ..

/-- Settles O54: with nothing left of the last tick, the tick counts each timer and each filter. -/
theorem millisecondTickCounts : Obligations.MillisecondTickCounts := by
  intro s h hs hq hc hp
  have out : s.inReset = false := hs.1
  have tick : s.settle.nextTick = s.tickComes := by
    rw [hs.settle]
    simp only [State.nextTick, out, State.takeDue_of_none hq hc hp, Bool.false_eq_true, if_false]
  have run : ¬s.inReset = true := by simp [out]
  refine ⟨s.tickComes, by rw [← tick]; rfl, ?_, fun c => ?_, fun p => ?_, by simp, by simp, by simp, by simp, by simp,
    by simp, by simp, by simp [SameDevice]⟩
  · rw [State.claims_tickComes]
    refine List.map_congr_left fun q hq => ?_
    exact (if_neg run).trans (Claim.tick_eq (h.pool.2.2 q hq))
  · rw [State.session_tickComes]
    exact (if_neg run).trans (Session.tick_eq (h.sessions c))
  · rw [State.pad_tickComes, if_neg run]
    unfold Pad.tick
    exact if_congr Fin.val_eq_zero_iff rfl rfl

end Sys2Proof.Machine
end

section
/-! PROOFS. The checks of CLAIM and MODIFY in their order (R13, R16), and the payloads that fail the first of them. -/

namespace Sys2Proof.Machine

open Sys2Proof

/-! ## Payloads as bytes -/

theorem toNat_nibbles (b : Byte) : b.toNat = 16 * (highNibble b).toNat + (lowNibble b).toNat := by
  have low : (lowNibble b).toNat = b.toNat % 16 := by
    have : (0x0F : Byte).toNat = 2 ^ 4 - 1 := rfl
    rw [lowNibble, BitVec.toNat_and, this, Nat.and_two_pow_sub_one_eq_mod]
  have high : (highNibble b).toNat = b.toNat / 16 := by
    simp [highNibble, BitVec.toNat_ushiftRight, Nat.shiftRight_eq_div_pow]
  omega

theorem chanOf?_toNat {b : Byte} {k : Chan} (h : chanOf? b = some k) : b.toNat = k.val := by
  rw [chanOf?_eq_some] at h
  rw [h, toNat_byteOf (by omega)]

theorem eq_byteOf_toNat (b : Byte) : b = byteOf b.toNat := by simp [byteOf]

/-- A byte whose nibbles are two channels. -/
theorem byte_of_nibbles {b : Byte} {k m : Chan} (hk : chanOf? (highNibble b) = some k)
    (hm : chanOf? (lowNibble b) = some m) : b = byteOf (16 * k.val + m.val) := by
  rw [eq_byteOf_toNat b, toNat_nibbles, chanOf?_toNat hk, chanOf?_toNat hm]

/-- A byte whose high nibble is a channel and whose low nibble is zero. -/
theorem byte_of_highNibble {b : Byte} {k : Chan} (hk : chanOf? (highNibble b) = some k) (h0 : lowNibble b = 0) :
    b = byteOf (16 * k.val) := by
  rw [eq_byteOf_toNat b, toNat_nibbles, chanOf?_toNat hk, h0]; rfl

/-- The bytes that decode as a source are those of that source (R181). -/
theorem sourceBytes_of_sourceOf? {f g : Byte} {src : Source} (h : sourceOf? f g = some src) :
    sourceBytes src = [f, g] := by
  have form : ∀ n, f.toNat = n → n < 256 → f = byteOf n := fun n hn _ => by rw [eq_byteOf_toNat f, hn]
  unfold sourceOf? at h
  split at h
  case h_1 hf | h_2 hf | h_3 hf =>
    split_ifs at h with hg
    cases h
    rw [form _ hf (by decide), hg]; rfl
  case h_4 hf | h_5 hf =>
    split_ifs at h with hg
    obtain ⟨k, hk, rfl⟩ := Option.map_eq_some_iff.mp h
    rw [form _ hf (by decide), byte_of_highNibble hk hg]; rfl
  case h_6 hf =>
    split at h
    · next k m hk hm =>
      split_ifs at h
      cases h
      rw [form _ hf (by decide), byte_of_nibbles hk hm]; rfl
    · cases h
  case h_7 => cases h

/-- Bytes that spell no source, or a GATE of one channel twice, are none (R13, R16). -/
theorem sourceOf?_eq_none_of_unformed {f g : Byte} (h : ∀ src : Source, sourceBytes src = [f, g] → src.formed = false) :
    sourceOf? f g = none := by
  cases hs : sourceOf? f g with
  | none => rfl
  | some src =>
    have := h src (sourceBytes_of_sourceOf? hs)
    rw [sourceOf?_formed hs] at this; cases this

theorem rankOf?_eq_none {b : Byte} (h : b = 0 ∨ 7 < b.toNat) : rankOf? b = none := by
  unfold rankOf? ceilingOf?
  split
  · rfl
  · next h0 => rw [dif_neg (by have := h.resolve_left h0; omega)]

theorem holdField_eq_none {x : Option Word} (h : x = some 0) : holdField x = none := by subst h; rfl

theorem optField_eq_none {α : Type} {d : Byte → Option α} {x : Option Byte} {b : Byte} (hx : x = some b)
    (h : d b = none) : optField d x = none := by subst hx; simp [optField, h]

theorem optField_chan_eq_none {x : Option Byte} (h : (x.any fun b => 5 < b.toNat) = true) :
    optField chanOf? x = none := by
  obtain ⟨b, hb, h5⟩ := (Option.any_eq_true ..).mp h
  exact optField_eq_none hb (chanOf?_eq_none.mpr (of_decide_eq_true h5))

theorem optWord_isSome (x : Option Word) (bs : List Byte) :
    optWord x.isSome ((x.map wordBytes).getD [] ++ bs) = (x, bs) := by
  cases x with
  | none => rfl
  | some w => simp [optWord, wordBytes, wordOf_wordBytes]

theorem optByte_isSome (x : Option Byte) (bs : List Byte) : optByte x.isSome (x.toList ++ bs) = (x, bs) := by
  cases x <;> rfl

theorem presenceByte_two (a b : Bool) : (presenceByte [a, b]).getLsbD 0 = a ∧ (presenceByte [a, b]).getLsbD 1 = b := by
  revert a b; decide

theorem presenceByte_four (a b c d : Bool) : (presenceByte [a, b, c, d]).getLsbD 0 = a ∧
    (presenceByte [a, b, c, d]).getLsbD 1 = b ∧ (presenceByte [a, b, c, d]).getLsbD 2 = c ∧
    (presenceByte [a, b, c, d]).getLsbD 3 = d := by
  revert a b c d; decide

/-- A CLAIM payload with any byte in each field. -/
def claimBytes (bp br f g : Byte) (hold : Option Word) (wait : Option Byte) : List Byte :=
  [bp, br, f, g, presenceByte [hold.isSome, wait.isSome]] ++ (hold.map wordBytes).getD [] ++ wait.toList

theorem lengthOk_claimBytes (bp br f g : Byte) (hold : Option Word) (wait : Option Byte) :
    lengthOk .claim (claimBytes bp br f g hold wait) = true := by
  cases hold <;> cases wait <;> simp [claimBytes, lengthOk, presenceByte, flagByte, marked, wordBytes]

/-- A CLAIM payload with a field that is out of its encoding decodes as nothing (R13, check 1). -/
theorem decodeClaim_eq_none {bp br f g : Byte} {hold : Option Word} {wait : Option Byte}
    (h : pinOf? bp = none ∨ rankOf? br = none ∨ sourceOf? f g = none ∨ holdField hold = none ∨
      optField chanOf? wait = none) : decodeClaim (claimBytes bp br f g hold wait) = none := by
  obtain ⟨m0, m1⟩ := presenceByte_two hold.isSome wait.isSome
  have w := optWord_isSome hold wait.toList
  have b := optByte_isSome wait []
  rw [List.append_nil] at b
  have fields : decodeClaim (claimBytes bp br f g hold wait) = (pinOf? bp).bind fun p => (rankOf? br).bind fun r =>
      (sourceOf? f g).bind fun src => (holdField hold).bind fun hold => (optField chanOf? wait).map fun wait =>
        { pin := p, rank := r, source := src, hold := hold, wait := wait } := by
    simp only [decodeClaim, claimBytes, List.cons_append, List.nil_append, byteAt_zero, byteAt_succ, m0, m1,
      List.drop_succ_cons, List.drop_zero, w, b]
    cases pinOf? bp <;> cases rankOf? br <;> cases sourceOf? f g <;> cases holdField hold <;>
      cases optField chanOf? wait <;> rfl
  rw [fields]
  obtain h | h | h | h | h := h <;> simp [h]

/-- A MODIFY payload with any byte in each field. -/
def modifyBytes (bp : Byte) (br : Option Byte) (src : Option (Byte × Byte)) (hold : Option Word) (wait : Option Byte) :
    List Byte :=
  [bp, presenceByte [br.isSome, src.isSome, hold.isSome, wait.isSome]] ++ br.toList ++
    (src.map fun x => [x.1, x.2]).getD [] ++ (hold.map wordBytes).getD [] ++ wait.toList

theorem lengthOk_modifyBytes (bp : Byte) (br : Option Byte) (src : Option (Byte × Byte)) (hold : Option Word)
    (wait : Option Byte) : lengthOk .modify (modifyBytes bp br src hold wait) = true := by
  cases br <;> cases src <;> cases hold <;> cases wait <;>
    simp [modifyBytes, lengthOk, presenceByte, flagByte, marked, wordBytes]

theorem optSource_isSome (x : Option (Byte × Byte)) (bs : List Byte) :
    optSource x.isSome ((x.map fun y => [y.1, y.2]).getD [] ++ bs) =
      (x.elim (some none) fun y => (sourceOf? y.1 y.2).map some, bs) := by
  cases x <;> rfl

/-- A MODIFY payload that gives neither rank nor source, or with a field that is out of its encoding, decodes as
nothing (R16, check 1). -/
theorem decodeModify_eq_none {bp : Byte} {br : Option Byte} {src : Option (Byte × Byte)} {hold : Option Word}
    {wait : Option Byte}
    (h : (br = none ∧ src = none) ∨ pinOf? bp = none ∨ optField rankOf? br = none ∨
      (src.elim (some none) fun y => (sourceOf? y.1 y.2).map some) = none ∨ holdField hold = none ∨
      optField chanOf? wait = none) : decodeModify (modifyBytes bp br src hold wait) = none := by
  obtain ⟨m0, m1, m2, m3⟩ := presenceByte_four br.isSome src.isSome hold.isSome wait.isSome
  have r := optByte_isSome br ((src.map fun x => [x.1, x.2]).getD [] ++ ((hold.map wordBytes).getD [] ++ wait.toList))
  have sr := optSource_isSome src ((hold.map wordBytes).getD [] ++ wait.toList)
  have w := optWord_isSome hold wait.toList
  have b := optByte_isSome wait []
  rw [List.append_nil] at b
  have fields : decodeModify (modifyBytes bp br src hold wait) = if br.isSome || src.isSome then
      (pinOf? bp).bind fun p => (optField rankOf? br).bind fun r =>
      (src.elim (some none) fun y => (sourceOf? y.1 y.2).map some).bind fun src => (holdField hold).bind fun hold =>
        (optField chanOf? wait).map fun wait => { pin := p, rank := r, source := src, hold := hold, wait := wait }
      else none := by
    simp only [decodeModify, modifyBytes, List.cons_append, List.nil_append, List.append_assoc, byteAt_zero, byteAt_succ,
      m0, m1, m2, m3, List.drop_succ_cons, List.drop_zero, r, sr, w, b]
    refine if_congr Iff.rfl ?_ rfl
    cases pinOf? bp <;> cases optField rankOf? br <;>
      cases src.elim (some none) fun y => (sourceOf? y.1 y.2).map some <;> cases holdField hold <;>
      cases optField chanOf? wait <;> rfl
  rw [fields]
  obtain ⟨hr, hs⟩ | h := h
  · simp [hr, hs]
  · refine ite_eq_right_iff.mpr fun _ => ?_
    obtain h | h | h | h | h := h <;> simp [h]

/-! ## The requests at their block -/

theorem State.served_claim {s : State} {c : Client} (hs : s.InSession c) {pl : List Byte} (hl : lengthOk .claim pl = true) :
    s.served c .claim pl = claimAct c pl (s.taken c) := State.served_act (fun _ => hs) hl

theorem State.served_modify {s : State} {c : Client} (hs : s.InSession c) {pl : List Byte}
    (hl : lengthOk .modify pl = true) : s.served c .modify pl = modifyAct c pl (s.taken c) :=
  State.served_act (fun _ => hs) hl

theorem claimAct_badArg {c : Client} {pl : List Byte} {s : State} (h : decodeClaim pl = none) :
    claimAct c pl s = refuse s .badArg := by simp [claimAct, h]

theorem modifyAct_badArg {c : Client} {pl : List Byte} {s : State} (h : decodeModify pl = none) :
    modifyAct c pl s = refuse s .badArg := by simp [modifyAct, h]

theorem State.namesFree_eq_true {s : State} {src : Option Source} {wait : Option Chan} :
    s.namesFree src wait = true ↔
      ∃ k : Chan, (src.any (·.names k) = true ∨ wait = some k) ∧ (s.channel k).state = .free := by
  rw [← Bool.not_eq_false, namesFree_eq_false]
  push Not
  rfl

/-- Settles O28: the checks come in the order in which the block writes them. -/
theorem claimChecksInOrder : Obligations.ClaimChecksInOrder := by
  refine ⟨fun s c tag p r src hold wait ha hs hr hf hh hfail => ?_, fun s c tag p r src hold wait ha hs hbad => ?_,
    fun s c tag bp br f g hold wait ha hs hbad => ?_⟩
  · refine exec_refused ha ?_
    have free : s.namesFree (some src) wait = true ↔
        ∃ k : Chan, (src.names k = true ∨ wait = some k) ∧ (s.channel k).state = .free := by
      rw [State.namesFree_eq_true]; rfl
    rw [State.served_claim hs (lengthOk_claim ..), claimAct, decodeClaim_bytes, if_pos ⟨hr, hf, hh⟩]
    dsimp only
    rw [show (s.taken c).policy p = s.policy p from rfl, show (s.taken c).claimAt c p = s.claimAt c p from rfl,
      show (s.taken c).namesFree (some src) wait = s.namesFree (some src) wait from rfl,
      show (s.taken c).claims = s.claims from rfl, Policy.ceiling]
    by_cases h1 : (s.policy p).role ≠ .io
    · rw [if_pos h1, if_pos h1]
    rw [if_neg h1, if_neg h1]
    by_cases h2 : (s.policy p).ceilings[c.val] < r
    · rw [if_pos h2, if_pos h2]
    rw [if_neg h2, if_neg h2]
    by_cases h3 : (s.claimAt c p).isSome = true
    · rw [if_pos h3, if_pos h3]
    rw [if_neg h3, if_neg h3]
    by_cases h4 : s.namesFree (some src) wait = true
    · rw [if_pos h4, if_pos (free.mp h4)]
    have h5 : Config.claimPool ≤ s.claims.length := by
      obtain e | e | e | e | e := hfail
      · exact absurd e h1
      · exact absurd e h2
      · exact absurd e h3
      · exact absurd (free.mpr e) h4
      · exact e
    rw [if_neg h4, if_neg (mt free.mpr h4), if_pos h5]
  · refine exec_refused ha ?_
    rw [State.served_claim hs (lengthOk_claim ..), claimAct_badArg]
    rw [decodeClaim_bytes, if_neg]
    rintro ⟨hr, hf, hh⟩
    obtain e | e | e := hbad
    · exact hr e
    · rw [hf] at e; cases e
    · exact hh e
  · refine exec_refused ha ?_
    refine (State.served_claim hs (lengthOk_claimBytes bp br f g hold wait)).trans (claimAct_badArg ?_)
    refine decodeClaim_eq_none ?_
    obtain e | e | e | e | e | e := hbad
    · exact .inl (pinOf?_eq_none.mpr e)
    · exact .inr (.inl (rankOf?_eq_none (.inl e)))
    · exact .inr (.inl (rankOf?_eq_none (.inr e)))
    · exact .inr (.inr (.inl (sourceOf?_eq_none_of_unformed e)))
    · exact .inr (.inr (.inr (.inl (holdField_eq_none e))))
    · exact .inr (.inr (.inr (.inr (optField_chan_eq_none e))))

/-- Settles O60: the checks come in the order in which the block writes them. -/
theorem modifyChecksInOrder : Obligations.ModifyChecksInOrder := by
  refine ⟨fun s c tag p r src hold wait ha hs hg hr hf hh hfail => ?_,
    fun s c tag bp br src hold wait ha hs hbad => ?_⟩
  · refine exec_refused ha ?_
    rw [State.served_modify hs (lengthOk_modify ..), modifyAct, decodeModify_bytes, if_pos ⟨hg, hr, hf, hh⟩]
    dsimp only
    rw [show (s.taken c).policy p = s.policy p from rfl, show (s.taken c).claimAt c p = s.claimAt c p from rfl,
      show (s.taken c).namesFree src wait = s.namesFree src wait from rfl, Policy.ceiling]
    cases hq : s.claimAt c p with
    | none => rfl
    | some q =>
      rw [hq, Option.all_some] at hfail
      rw [if_neg (Option.some_ne_none q), Option.any_some]
      dsimp only
      cases hst : q.state with
      | pending => rfl
      | live =>
        have h1 : ¬ClaimState.live ≠ .live := by simp
        have h1' : ¬decide (ClaimState.live = .pending) = true := by simp
        rw [if_neg h1, if_neg h1']
        by_cases h2 : (r.any fun x => (s.policy p).ceilings[c.val] < x) = true
        · rw [if_pos h2, if_pos h2]
        · have h3 : s.namesFree src wait = true := by
            simp only [hst, reduceCtorEq, h2, false_or, decide_eq_true_eq] at hfail
            exact State.namesFree_eq_true.mpr hfail
          rw [if_neg h2, if_neg h2, if_pos h3]
  · refine exec_refused ha ?_
    refine (State.served_modify hs (lengthOk_modifyBytes bp br src hold wait)).trans (modifyAct_badArg ?_)
    refine decodeModify_eq_none ?_
    obtain e | e | e | ⟨x, rfl, e⟩ | e | e := hbad
    · exact .inr (.inl (pinOf?_eq_none.mpr e))
    · exact .inl e
    · obtain ⟨b, hb, h⟩ := (Option.any_eq_true ..).mp e
      exact .inr (.inr (.inl (optField_eq_none hb (rankOf?_eq_none (of_decide_eq_true h)))))
    · exact .inr (.inr (.inr (.inl (by simp [sourceOf?_eq_none_of_unformed e]))))
    · exact .inr (.inr (.inr (.inr (.inl (holdField_eq_none e)))))
    · exact .inr (.inr (.inr (.inr (.inr (optField_chan_eq_none e)))))

end Sys2Proof.Machine
end

section
/-! PROOFS. CLAIM, MODIFY, RELEASE and the hold expiry: what an event that changes the claims of one pin leaves. -/

namespace Sys2Proof.Machine

open Sys2Proof

/-! ## A change of the claims of one pin -/

/-- The pool and the lists change at one pin alone, and nothing else changes. -/
structure OnlyAt (s v : State) (p : Pin) : Prop where
  claimAt : ∀ (d : Client) (x : Pin), x ≠ p → v.claimAt d x = s.claimAt d x
  claimList : ∀ x : Pin, x ≠ p → v.claimList x = s.claimList x
  rest : v = { s with claims := v.claims, claimLists := v.claimLists, waitLists := v.waitLists }

section
variable {s v : State} {p : Pin}

theorem OnlyAt.channels (h : OnlyAt s v p) : v.channels = s.channels := by rw [h.rest]
theorem OnlyAt.policies (h : OnlyAt s v p) : v.policies = s.policies := by rw [h.rest]
theorem OnlyAt.pads (h : OnlyAt s v p) : v.pads = s.pads := by rw [h.rest]
theorem OnlyAt.ports (h : OnlyAt s v p) : v.ports = s.ports := by rw [h.rest]
theorem OnlyAt.sessions (h : OnlyAt s v p) : v.sessions = s.sessions := by rw [h.rest]
theorem OnlyAt.watches (h : OnlyAt s v p) : v.watches = s.watches := by rw [h.rest]
theorem OnlyAt.queues (h : OnlyAt s v p) : v.queues = s.queues := by rw [h.rest]
theorem OnlyAt.device (h : OnlyAt s v p) : SameDevice s v := by rw [h.rest]; exact ⟨rfl, rfl, rfl, rfl, rfl⟩

/-- The other pins resolve as they did. -/
theorem OnlyAt.resolve (h : OnlyAt s v p) {x : Pin} (hx : x ≠ p) : v.resolve x = s.resolve x :=
  State.resolve_congr (State.policy_congr h.policies x) (h.claimList x hx) (fun d => h.claimAt d x hx) fun k => by
    rw [State.channel_congr h.channels]

/-- The pads of the other pins are as they were, once every pad has taken its resolution. -/
theorem OnlyAt.pad_resolvePads (h : OnlyAt s v p) (hs : s.PadsOk) {w : State} (hd : w.pads = v.pads)
    (hr : ∀ x : Pin, w.resolve x = v.resolve x) {x : Pin} (hx : x ≠ p) : w.resolvePads.pad x = s.pad x :=
  State.pad_resolvePads_of_same hs (State.pad_congr (hd.trans h.pads) x) ((hr x).trans (h.resolve hx))

/-- The notices of the event are those of its pin (R10). -/
theorem OnlyAt.queue_noteTops (h : OnlyAt s v p) (excl : Option Client) (d : Client) :
    (State.noteTops s excl v).queue d = topNotice s v excl d (s.queue d) p := by
  rw [State.queue_noteTops, State.queue_congr h.queues, topNotices_of_one]
  exact fun r hr => by rw [State.top, State.top, h.claimList r hr]

theorem OnlyAt.samePorts (h : OnlyAt s v p) (excl : Option Client) : SamePorts s (State.noteTops s excl v) := fun c => by
  have := (Placed.noteTops s excl v).samePorts c
  rwa [State.port_congr h.ports] at this

end

theorem State.resolve_noteTops (b : State) (x : Option Client) (s : State) (p : Pin) :
    (State.noteTops b x s).resolve p = s.resolve p :=
  State.resolve_congr_pool (by simp) (by simp) (by simp) (fun _ _ k _ => by simp) p

/-- A change of the claims of one pin, with its notices, its references settled and the pins resolved. -/
def State.claimsChanged (s : State) (excl : Option Client) (v : State) : State :=
  (State.noteTops s excl v).settleRefs.resolvePads

section
variable (s v : State) (excl : Option Client)

@[simp] theorem State.claimsChanged_claims : (s.claimsChanged excl v).claims = v.claims := by simp [State.claimsChanged]
@[simp] theorem State.claimsChanged_claimLists : (s.claimsChanged excl v).claimLists = v.claimLists := by
  simp [State.claimsChanged]
@[simp] theorem State.claimsChanged_claimList (p : Pin) : (s.claimsChanged excl v).claimList p = v.claimList p := by
  simp [State.claimsChanged]
@[simp] theorem State.claimsChanged_waitList (k : Chan) : (s.claimsChanged excl v).waitList k = v.waitList k := by
  simp [State.claimsChanged]
@[simp] theorem State.claimsChanged_policies : (s.claimsChanged excl v).policies = v.policies := by
  simp [State.claimsChanged]
@[simp] theorem State.claimsChanged_watches : (s.claimsChanged excl v).watches = v.watches := by
  simp [State.claimsChanged]

end

section
variable {s v : State} {p : Pin}

theorem OnlyAt.pad_changed (h : OnlyAt s v p) (hs : s.PadsOk) (excl : Option Client) {x : Pin} (hx : x ≠ p) :
    (s.claimsChanged excl v).pad x = s.pad x :=
  h.pad_resolvePads hs (by simp) (fun x => by rw [State.resolve_settleRefs, State.resolve_noteTops]) hx

theorem OnlyAt.pad_changed_self (h : OnlyAt s v p) (excl : Option Client) : (s.claimsChanged excl v).pad p =
    (s.pad p).take ((s.claimsChanged excl v).resolve p) := by
  rw [State.claimsChanged, State.resolve_resolvePads, State.pad_resolvePads, State.settleRefs_pad, State.noteTops_pad,
    State.pad_congr h.pads]

/-- Every channel is as it was, with its references counted, or freed (R95 to R97). -/
theorem OnlyAt.channel_changed (h : OnlyAt s v p) (hs : s.ChannelsOk) (excl : Option Client) (k : Chan) :
    (s.claimsChanged excl v).channel k = (s.channel k).settled ((s.claimsChanged excl v).refsOf k) := by
  have same : ∀ j, (State.noteTops s excl v).channel j = s.channel j := fun j => by
    rw [State.noteTops_channel, State.channel_congr h.channels]
  have refs : (s.claimsChanged excl v).refsOf k = (State.noteTops s excl v).settleRefs.refsOf k :=
    State.refsOf_congr (by simp [State.claimsChanged]) (fun j => by simp [State.claimsChanged]) k
  rw [refs, State.claimsChanged, State.resolvePads_channel,
    State.channel_settleRefs fun j hf => by rw [same] at hf ⊢; exact hs.freeCleared j hf, same]

theorem OnlyAt.queue_changed (h : OnlyAt s v p) (excl : Option Client) (d : Client) :
    (s.claimsChanged excl v).queue d = topNotice s (s.claimsChanged excl v) excl d (s.queue d) p := by
  rw [topNotice_congr (t := v) (by simp [State.claimsChanged]) (by simp [State.claimsChanged])]
  simp [State.claimsChanged, h.queue_noteTops]

theorem OnlyAt.samePorts_changed (h : OnlyAt s v p) (excl : Option Client) : SamePorts s (s.claimsChanged excl v) :=
  fun c => by
    have := h.samePorts excl c
    simpa [State.claimsChanged] using this

/-- The sessions count the claims anew (R120). -/
theorem OnlyAt.session_changed (h : OnlyAt s v p) (hs : s.CountsOk) (excl : Option Client) (d : Client) :
    (s.claimsChanged excl v).session d =
      { s.session d with claimsHeld := v.claims.countP fun q => q.client = d } := by
  simp only [State.claimsChanged, State.resolvePads_session, State.session_settleRefs, State.noteTops_session,
    State.noteTops_claims, State.noteTops_watches, State.noteTops_channel, State.session_congr h.sessions, h.watches,
    State.channel_congr h.channels, ← (hs.2 d).2.1, ← (hs.2 d).2.2]

theorem OnlyAt.device_changed (h : OnlyAt s v p) (excl : Option Client) : SameDevice s (s.claimsChanged excl v) := by
  obtain ⟨h1, h2, h3, h4, h5⟩ := h.device
  exact ⟨by simpa [State.claimsChanged] using h1, by simpa [State.claimsChanged] using h2,
    by simpa [State.claimsChanged] using h3, by simpa [State.claimsChanged] using h4,
    by simpa [State.claimsChanged] using h5⟩

end

/-! ## A claim that leaves (R20, R27) -/

/-- The pool without a client's claim on a pin. -/
def State.without (s : State) (c : Client) (p : Pin) : State := s.dropClaims fun c' p' => c' = c && p' = p

theorem State.onlyAt_without (s : State) (c : Client) (p : Pin) : OnlyAt s (s.without c p) p where
  claimAt d x hx := by rw [State.without, State.claimAt_dropClaims]; simp [hx]
  claimList x hx := by rw [State.without, State.claimList_dropClaims]; simp [hx]
  rest := rfl

theorem State.claimList_without (s : State) (c : Client) (p : Pin) :
    (s.without c p).claimList p = (s.claimList p).filter (· ≠ c) := by
  rw [State.without, State.claimList_dropClaims]
  exact List.filter_congr fun d _ => by simp

theorem State.waitList_without (s : State) (c : Client) (p : Pin) (k : Chan) :
    (s.without c p).waitList k = (s.waitList k).filter (· ≠ (c, p)) := by
  rw [State.without, State.waitList_dropClaims]
  refine List.filter_congr fun w _ => ?_
  obtain ⟨d, x⟩ := w
  simp only [ne_eq, Prod.mk.injEq, Bool.decide_and, decide_not]

theorem State.releaseClaim_eq (s : State) (c : Client) (p : Pin) :
    s.releaseClaim c p = s.claimsChanged (some c) (s.without c p) := rfl

theorem State.expireHold_eq (s : State) (c : Client) (p : Pin) :
    s.expireHold c p = (s.claimsChanged none (s.without c p)).place c (.claimExpired p) := rfl

/-- With at most one claim per pin and client, the removal takes one claim of its client's (R120). -/
theorem State.countP_without {s : State} (hu : s.Unique) {c : Client} {p : Pin} {q : Claim}
    (hq : s.claimAt c p = some q) (d : Client) : ((s.without c p).claims.countP fun r => r.client = d) =
      (s.claims.countP fun r => r.client = d) - if d = c then 1 else 0 := by
  obtain ⟨hm, hc, hp⟩ := State.claimAt_mem hq
  have sub : (s.claims.filter fun r => r.client = c && r.pin = p) = [q] := by
    have nd : (s.claims.filter fun r => r.client = c && r.pin = p).Nodup := (List.Nodup.of_map _ hu).filter _
    refine List.perm_singleton.mp ((List.perm_ext_iff_of_nodup nd (List.nodup_singleton q)).mpr fun r => ?_)
    rw [List.mem_filter, List.mem_singleton, Bool.and_eq_true, decide_eq_true_eq, decide_eq_true_eq]
    refine ⟨fun ⟨hr, hrc, hrp⟩ => ?_, fun e => by subst e; exact ⟨hm, hc, hp⟩⟩
    have := (State.claimAt_iff hu).mpr ⟨hr, hrc, hrp⟩
    rw [hq] at this; exact (Option.some.inj this).symm
  have gone : ((s.claims.filter fun r => r.client = c && r.pin = p).countP fun r => r.client = d) =
      if d = c then 1 else 0 := by
    rw [sub, List.countP_singleton, hc]
    simp [eq_comm]
  have split := List.countP_eq_countP_filter_add s.claims (fun r => decide (r.client = d))
    fun r => r.client = c && r.pin = p
  rw [gone] at split
  rw [split, Nat.add_sub_cancel_left]
  rfl

/-! ## A claim list and its top -/

theorem State.top_eq_some {s : State} {c : Client} {p : Pin} (h : s.top p = some c) : c ∈ s.claimList p :=
  List.mem_of_head? h

/-- A client that holds no claim on a pin stands in no list of it (R4). -/
theorem State.Lawful.not_mem_claimList {s : State} (h : s.Lawful) {c : Client} {p : Pin} (hn : s.claimAt c p = none) :
    c ∉ s.claimList p := fun hc => by
  obtain ⟨q, hq, -⟩ := (((State.listsOk_iff h.pool.unique).mp h.lists p).2.1 c).mp hc
  rw [hn] at hq; cases hq

/-- A list into which a client is inserted has that client or the former head at its head (R4). -/
theorem Inserted.head {l m : List Client} {rk : Client → Rank} {c : Client} {r : Rank} (h : Inserted l m rk c r) :
    m.head? = some c ∨ m.head? = l.head? := by
  obtain ⟨i, hi, rfl, -⟩ := h
  cases i with
  | zero => exact .inl rfl
  | succ i =>
    cases l with
    | nil => simp at hi
    | cons x l => exact .inr rfl

end Sys2Proof.Machine
end

section
/-! PROOFS. RELEASE and the hold expiry (R20, R27), CLAIM (R14, R15) and MODIFY (R17, R18) as their rules give them. -/

namespace Sys2Proof.Machine

open Sys2Proof

/-! ## The state a request's block finds -/

section
variable (s : State) (c : Client)

@[simp] theorem State.taken_claims : (s.taken c).claims = s.claims := rfl
@[simp] theorem State.taken_claimLists : (s.taken c).claimLists = s.claimLists := rfl
@[simp] theorem State.taken_claimList (p : Pin) : (s.taken c).claimList p = s.claimList p := rfl
@[simp] theorem State.taken_waitLists : (s.taken c).waitLists = s.waitLists := rfl
@[simp] theorem State.taken_waitList (k : Chan) : (s.taken c).waitList k = s.waitList k := rfl
@[simp] theorem State.taken_policies : (s.taken c).policies = s.policies := rfl
@[simp] theorem State.taken_policy (p : Pin) : (s.taken c).policy p = s.policy p := rfl
@[simp] theorem State.taken_pads : (s.taken c).pads = s.pads := rfl
@[simp] theorem State.taken_pad (p : Pin) : (s.taken c).pad p = s.pad p := rfl
@[simp] theorem State.taken_channels : (s.taken c).channels = s.channels := rfl
@[simp] theorem State.taken_channel (k : Chan) : (s.taken c).channel k = s.channel k := rfl
@[simp] theorem State.taken_watches : (s.taken c).watches = s.watches := rfl
@[simp] theorem State.taken_queues : (s.taken c).queues = s.queues := rfl
@[simp] theorem State.taken_queue (d : Client) : (s.taken c).queue d = s.queue d := rfl
@[simp] theorem State.taken_claimAt (d : Client) (p : Pin) : (s.taken c).claimAt d p = s.claimAt d p := rfl
@[simp] theorem State.taken_rankAt (d : Client) (p : Pin) : (s.taken c).rankAt d p = s.rankAt d p := rfl
@[simp] theorem State.taken_top (p : Pin) : (s.taken c).top p = s.top p := rfl

end

theorem State.session_taken (s : State) (c d : Client) :
    (s.taken c).session d = if c = d then (s.session c).renewed else s.session d := by
  simp [State.taken, State.session_renew]

theorem State.CountsOk.taken {s : State} (h : s.CountsOk) (c : Client) : (s.taken c).CountsOk := by
  refine ⟨h.1, fun d => ?_⟩
  rw [State.session_taken]
  split
  · next e =>
    subst e
    rw [Session.renewed_claimsHeld, Session.renewed_watchesHeld, Session.renewed_channelsOwned]
    exact h.2 c
  · exact h.2 d

theorem State.PadsOk.taken {s : State} (h : s.PadsOk) (c : Client) : (s.taken c).PadsOk :=
  h.frame (fun _ => rfl) rfl rfl rfl fun _ => rfl

theorem sameDevice_answer {s u : State} {c : Client} (h : SameDevice (s.taken c) u) (tag : Byte) (st : Status)
    (pl : List Byte) : SameDevice s (u.answer c tag st pl) := by
  obtain ⟨h1, h2, h3, h4, h5⟩ := h
  exact ⟨(State.answer_pending ..).trans h1, (State.answer_resetCause ..).trans h2, (State.answer_por ..).trans h3,
    (State.answer_nrstLow ..).trans h4, (State.answer_edgeOwed ..).trans h5⟩

/-- The notices of a request that changes the claims of one pin, seen after the answer. -/
theorem OnlyAt.queue_answer {s v : State} {c : Client} {p : Pin} (h : OnlyAt (s.taken c) v p) (tag : Byte) (st : Status)
    (pl : List Byte) (d : Client) : (((s.taken c).claimsChanged (some c) v).answer c tag st pl).queue d =
      topNotice s (((s.taken c).claimsChanged (some c) v).answer c tag st pl) (some c) d (s.queue d) p := by
  rw [topNotice_congr (t := (s.taken c).claimsChanged (some c) v) (State.answer_claimLists ..) (State.answer_claims ..),
    State.answer_queue, h.queue_changed, State.taken_queue, topNotice_congr_before (State.taken_claimLists s c)]

/-- The sessions after a request that changes the claims of one pin. -/
theorem OnlyAt.session_answer {s v : State} {c : Client} {p : Pin} (h : OnlyAt (s.taken c) v p) (hs : s.CountsOk)
    (tag : Byte) (st : Status) (pl : List Byte) (d : Client) :
    (((s.taken c).claimsChanged (some c) v).answer c tag st pl).session d =
      { (s.taken c).session d with claimsHeld := v.claims.countP fun q => q.client = d } :=
  (State.answer_session ..).trans (h.session_changed (hs.taken c) (some c) d)

theorem State.claimsHeld_taken {s : State} (h : s.CountsOk) (c d : Client) :
    (s.claims.countP fun q => q.client = d) = ((s.taken c).session d).claimsHeld := ((h.taken c).2 d).1.symm

/-- The pads and the channels after a request that changes the claims of one pin. -/
theorem OnlyAt.pads_answer {s v : State} {c : Client} {p : Pin} (h : OnlyAt (s.taken c) v p) (hs : s.PadsOk)
    (tag : Byte) (st : Status) (pl : List Byte) :
    (∀ x : Pin, x ≠ p → (((s.taken c).claimsChanged (some c) v).answer c tag st pl).pad x = s.pad x) ∧
      (((s.taken c).claimsChanged (some c) v).answer c tag st pl).pad p =
        (s.pad p).take ((((s.taken c).claimsChanged (some c) v).answer c tag st pl).resolve p) :=
  ⟨fun x hx => by rw [State.answer_pad, h.pad_changed (hs.taken c) (some c) hx, State.taken_pad],
    by rw [State.answer_pad, State.resolve_answer, h.pad_changed_self, State.taken_pad]⟩

theorem OnlyAt.channel_answer {s v : State} {c : Client} {p : Pin} (h : OnlyAt (s.taken c) v p) (hs : s.ChannelsOk)
    (tag : Byte) (st : Status) (pl : List Byte) (k : Chan) :
    (((s.taken c).claimsChanged (some c) v).answer c tag st pl).channel k =
      (s.channel k).settled ((((s.taken c).claimsChanged (some c) v).answer c tag st pl).refsOf k) := by
  rw [State.answer_channel, State.refsOf_answer, h.channel_changed (s := s.taken c) hs, State.taken_channel]

/-! ## RELEASE and the hold expiry -/

theorem claimStateByte_eq (st : ClaimState) : claimStateByte st = if st = .live then 2 else 1 := by cases st <;> rfl

theorem flagByte_decide (P : Prop) [Decidable P] : flagByte (decide P) = if P then 1 else 0 := by
  by_cases h : P <;> simp [flagByte, h]

theorem State.served_release {s : State} {c : Client} (hs : s.InSession c) (b : Byte) :
    s.served c .release [b] = releaseAct c [b] (s.taken c) := State.served_act (fun _ => hs) rfl

/-- Settles O31: the removal changes the claims of one pin. -/
theorem releaseRemovesTheClaim : Obligations.ReleaseRemovesTheClaim := by
  refine ⟨fun s c tag p q h ha hs hq => ⟨_, exec_of_asks ha, ?_⟩, fun s c tag b ha hs hn => exec_refused ha ?_⟩
  · have served : s.served c .release [byteOf p.val] =
        { state := (s.taken c).releaseClaim c p, status := .ok,
          payload := [claimStateByte q.state, flagByte (s.isTop c p)] } := by
      have hq' : (s.taken c).claimAt c p = some q := hq
      rw [State.served_release hs]
      simp only [releaseAct, byteAt_zero, pinOf?_byteOf, hq']; rfl
    rw [served, State.releaseClaim_eq]
    dsimp only
    have only := (s.taken c).onlyAt_without c p
    obtain ⟨pads, pad⟩ := only.pads_answer h.pads tag .ok [claimStateByte q.state, flagByte (s.isTop c p)]
    have held : ∀ d, ((s.taken c).without c p).claims.countP (fun r => decide (r.client = d)) =
        ((s.taken c).session d).claimsHeld - if d = c then 1 else 0 := fun d => by
      rw [← State.claimsHeld_taken h.counts]
      exact State.countP_without (s := s.taken c) h.pool.unique hq d
    refine ⟨by simp [State.without, State.claims_dropClaims, State.taken], ?_, fun x hx => ⟨?_, pads x hx⟩, fun k => ?_,
      by simp [State.without, State.taken], pad, only.channel_answer h.channels _ _ _, fun d hd => ?_,
      by simp [State.without, State.taken], sameDevice_answer (only.device_changed _) tag .ok _, only.queue_answer _ _ _,
      ?_, ?_⟩
    · rw [State.answer_claimList, State.claimsChanged_claimList, State.claimList_without, State.taken_claimList]
    · rw [State.answer_claimList, State.claimsChanged_claimList, only.claimList x hx, State.taken_claimList]
    · rw [State.answer_waitList, State.claimsChanged_waitList, State.waitList_without, State.taken_waitList]
    · rw [only.session_answer h.counts, held, if_neg hd, Nat.sub_zero, State.session_taken, if_neg (Ne.symm hd)]
    · rw [only.session_answer h.counts, held, if_pos rfl, State.session_taken, if_pos rfl, Session.renewed_claimsHeld]
    · rw [claimStateByte_eq, State.isTop, flagByte_decide]
      exact answered_of_placed (only.samePorts_changed _) tag .ok _
  · rw [State.served_release hs]
    unfold releaseAct
    rw [byteAt_zero]
    cases hp : pinOf? b with
    | none => rw [if_neg (by have := pinOf?_eq_none.mp hp; omega)]
    | some p =>
      have hb := pinOf?_eq_some.mp hp
      have none : (s.taken c).claimAt c p = Option.none := hn p hb
      have lt : b.toNat < 16 := by rw [hb, toNat_byteOf (by omega)]; exact p.isLt
      simp only [none, lt, if_true]

/-- A client whose claim leaves the pin's list takes no notice of it (R27). -/
theorem topNotice_of_gone {s t : State} {p : Pin} {c : Client} (h : c ∉ t.claimList p) (x : Option Client) (q : Queue) :
    topNotice s t x c q p = q := by
  unfold topNotice
  split
  · rfl
  · next y hy =>
    refine if_neg fun ⟨_, _, e⟩ => ?_
    obtain rfl | ⟨-, hc⟩ := e
    · exact h (State.top_eq_some hy)
    · exact h hc

theorem State.exec_holdExpiry {s : State} (hs : s.Calm) {c : Client} {p : Pin} {q : Claim} (hq : s.claimAt c p = some q)
    (live : q.state = .live) (due : q.tickDue = true) : exec (.holdExpiry c p) s = .next (s.expireHold c p) := by
  have hd : s.holdDue c p = true := by simp [State.holdDue, hq, live, due]
  show Host.Outcome.next _ = _
  rw [hs.settle, State.ofTick, if_pos hd]

/-- Settles O55: the removal changes the claims of one pin, and the client is told of it. -/
theorem holdExpiryRemovesTheClaim : Obligations.HoldExpiryRemovesTheClaim := by
  intro s c p q h hs hq live due
  refine ⟨_, State.exec_holdExpiry hs hq live due, ?_⟩
  rw [State.expireHold_eq]
  have only := s.onlyAt_without c p
  have held := State.countP_without h.pool.unique hq
  have list : (s.claimsChanged none (s.without c p)).claimList p = (s.claimList p).filter (· ≠ c) := by
    rw [State.claimsChanged_claimList, State.claimList_without]
  have resolve : ((s.claimsChanged none (s.without c p)).place c (.claimExpired p)).resolve p =
      (s.claimsChanged none (s.without c p)).resolve p :=
    State.resolve_congr_pool (by simp) (by simp) (by simp) (fun _ _ k _ => by simp) p
  have refs : ∀ k, ((s.claimsChanged none (s.without c p)).place c (.claimExpired p)).refsOf k =
      (s.claimsChanged none (s.without c p)).refsOf k :=
    State.refsOf_congr (by simp) fun j => by simp
  refine ⟨by simp [State.without, State.claims_dropClaims], by rw [State.place_claimList, list],
    fun x hx => ⟨?_, ?_⟩, fun k => ?_, by simp [State.without], ?_, fun k => ?_, fun d hd => ?_,
    by simp [State.without], ?_, fun d => ?_, ?_, ?_⟩
  · rw [State.place_claimList, State.claimsChanged_claimList, only.claimList x hx]
  · rw [State.place_pad]; exact only.pad_changed h.pads _ hx
  · rw [State.place_waitList, State.claimsChanged_waitList, State.waitList_without]
  · rw [State.place_pad, resolve]; exact only.pad_changed_self _
  · rw [State.place_channel, refs]; exact only.channel_changed h.channels _ k
  · rw [State.place_session, only.session_changed h.counts, held, if_neg hd, Nat.sub_zero, ← (h.counts.2 d).1]
  · obtain ⟨h1, h2, h3, h4, h5⟩ := only.device_changed none
    exact ⟨by simpa using h1, by simpa using h2, by simpa using h3, by simpa using h4, by simpa using h5⟩
  · rw [State.queue_place]
    by_cases e : d = c
    · subst e
      rw [if_pos rfl, if_pos rfl, only.queue_changed, topNotice_of_gone]
      rw [list]; simp
    · rw [if_neg (Ne.symm e), if_neg e, only.queue_changed]
      exact (topNotice_congr (State.place_claimLists ..) (State.place_claims ..) none d _ p).symm
  · rw [State.place_session, only.session_changed h.counts, held, if_pos rfl, ← (h.counts.2 c).1]
  · exact samePorts_trans (only.samePorts_changed none) (Placed.place ..).samePorts

end Sys2Proof.Machine
end

section
/-! PROOFS. CLAIM and MODIFY that pass their checks (R14, R15, R17, R18). -/

namespace Sys2Proof.Machine

open Sys2Proof

/-! ## The block's answers -/

theorem State.waitsOn_eq_none {s : State} {wait : Option Chan}
    (h : ∀ k : Chan, wait = some k → (s.channel k).state ≠ .running) : s.waitsOn wait = none := by
  cases hw : s.waitsOn wait with
  | none => rfl
  | some k =>
    obtain ⟨e, hr⟩ := State.waitsOn_eq_some.mp hw
    exact absurd hr (h k e)

theorem State.MayClaim.not_free {s : State} {c : Client} {a : ClaimArgs} (may : s.MayClaim c a) :
    s.namesFree (some a.source) a.wait = false := namesFree_eq_false.mpr fun k hk => may.named k hk

/-- A CLAIM that passes every check enters LIVE, or PENDING where its wait channel is RUNNING (R14, R15). -/
theorem claimAct_of_may {s : State} {c : Client} {pl : List Byte} {a : ClaimArgs} (hd : decodeClaim pl = some a)
    (may : s.MayClaim c a) : claimAct c pl s = (s.waitsOn a.wait).elim
      { state := s.claimLive c a, status := .ok,
        payload := [claimStateByte .live, flagByte ((s.claimLive c a).isTop c a.pin)] }
      fun k => { state := s.claimPending c a k, status := .ok, payload := [1, 0] } := by
  have ceiling : ¬(s.policy a.pin).ceiling c < a.rank := not_lt.mpr may.ceiling
  unfold claimAct
  rw [hd]
  dsimp only
  rw [if_neg (not_not_intro may.role), if_neg ceiling, if_neg (by simp [may.new]),
    if_neg (by simp [may.not_free]), if_neg (not_le.mpr may.room)]
  cases s.waitsOn a.wait <;> rfl

theorem State.MayModify.not_denied {s : State} {c : Client} {q : Claim} {a : ModifyArgs} (may : s.MayModify c q a) :
    ¬(a.rank.any fun r => (s.policy a.pin).ceiling c < r) = true := fun h => by
  obtain ⟨r, hr, hlt⟩ := (Option.any_eq_true ..).mp h
  exact absurd (of_decide_eq_true hlt) (not_lt.mpr (may.ceiling r hr))

theorem State.MayModify.not_free {s : State} {c : Client} {q : Claim} {a : ModifyArgs} (may : s.MayModify c q a) :
    s.namesFree a.source a.wait = false := namesFree_eq_false.mpr may.named

/-- A MODIFY that passes every check is applied, or stored where its wait channel is RUNNING (R17, R18). -/
theorem modifyAct_of_may {s : State} {c : Client} {pl : List Byte} {q : Claim} {a : ModifyArgs}
    (hd : decodeModify pl = some a) (may : s.MayModify c q a) : modifyAct c pl s = (s.waitsOn a.wait).elim
      { state := s.modifyNow c q a, status := .ok,
        payload := [0, byteOf ((s.modifyNow c q a).rankAt c a.pin).val,
          flagByte ((s.modifyNow c q a).isTop c a.pin)] }
      fun k =>
        { state := s.modifyLater c q a k, status := .ok,
          payload := [1, byteOf ((s.modifyLater c q a k).rankAt c a.pin).val,
            flagByte ((s.modifyLater c q a k).isTop c a.pin)] } := by
  unfold modifyAct
  rw [hd]
  dsimp only
  rw [may.claim]
  dsimp only
  rw [if_neg (not_not_intro may.live), if_neg may.not_denied, if_neg (by simp [may.not_free])]
  cases s.waitsOn a.wait <;> rfl

/-- What a CLAIM payload that passes the checks says to its block. -/
theorem State.MayClaim.taken {s : State} {c : Client} {a : ClaimArgs} (h : s.MayClaim c a) : (s.taken c).MayClaim c a where
  inSession := State.inSession_taken.mpr h.inSession
  rank := h.rank
  hold := h.hold
  role := h.role
  ceiling := h.ceiling
  new := h.new
  named := h.named
  room := h.room

/-- A CLAIM payload that may be granted, at its block. -/
theorem State.served_claim_of_may {s : State} {c : Client} {a : ClaimArgs} (may : s.MayClaim c a)
    (hf : a.source.formed = true) : s.served c .claim (claimPayload a.pin a.rank a.source a.hold a.wait) =
      (s.waitsOn a.wait).elim
        { state := (s.taken c).claimLive c a, status := .ok,
          payload := [claimStateByte .live, flagByte (((s.taken c).claimLive c a).isTop c a.pin)] }
        fun k => { state := (s.taken c).claimPending c a k, status := .ok, payload := [1, 0] } := by
  have decoded := decodeClaim_bytes a.pin a.rank a.source a.hold a.wait
  rw [if_pos ⟨may.rank, hf, may.hold⟩] at decoded
  exact (State.served_claim may.inSession (lengthOk_claim ..)).trans (claimAct_of_may decoded may.taken)

/-! ## CLAIM that enters LIVE -/

/-- The pool with a new LIVE claim in its pin's list. -/
def State.entered (s : State) (c : Client) (a : ClaimArgs) : State :=
  (s.addClaim (newClaim c a none)).enterList c a.pin

theorem State.entered_claims (s : State) (c : Client) (a : ClaimArgs) :
    (s.entered c a).claims = (s.addClaim (newClaim c a none)).claims := State.enterList_claims ..

theorem State.onlyAt_entered (s : State) (c : Client) (a : ClaimArgs) : OnlyAt s (s.entered c a) a.pin where
  claimAt d x hx := by
    rw [State.claimAt_congr (s.entered_claims c a)]
    exact State.claimAt_addClaim_ne fun e => hx (congrArg Prod.snd e)
  claimList x hx := by
    rw [State.entered, State.claimList_enterList, if_neg (Ne.symm hx), State.addClaim_claimList]
  rest := rfl

theorem State.refsOf_addClaim (s : State) (q : Claim) (k : Chan) :
    (s.addClaim q).refsOf k = s.refsOf k + if q.names k = true then 1 else 0 := by
  simp only [State.refsOf, State.addClaim_claims, List.countP_append, List.countP_singleton, State.addClaim_channel]
  exact Nat.add_right_comm ..

theorem newClaim_names (c : Client) (a : ClaimArgs) (wait : Option Chan) (k : Chan) :
    (newClaim c a wait).names k = true ↔ a.source.names k = true ∨ wait = some k := by
  show (a.source.names k || false || decide (wait = some k)) = true ↔ _
  rw [Bool.or_false, Bool.or_eq_true, decide_eq_true_eq]

theorem State.claimAt_addClaim_self {s : State} {q : Claim} (h : s.claimAt q.client q.pin = none) :
    (s.addClaim q).claimAt q.client q.pin = some q := by
  rw [State.claimAt_addClaim, h, if_pos ⟨rfl, rfl⟩, Option.none_or]

theorem State.rankAt_entered {s : State} {c : Client} {a : ClaimArgs} (new : s.claimAt c a.pin = none) :
    (s.entered c a).rankAt c a.pin = a.rank := by
  have h : (s.addClaim (newClaim c a none)).claimAt c a.pin = some (newClaim c a none) :=
    State.claimAt_addClaim_self (q := newClaim c a none) new
  rw [State.rankAt_congr (s.entered_claims c a), State.rankAt, h]
  rfl

/-- The new claim stands after the last claim of equal or higher rank (R4). -/
theorem State.inserted_entered {s : State} {c : Client} {a : ClaimArgs} (new : s.claimAt c a.pin = none)
    (hl : c ∉ s.claimList a.pin) : Inserted (s.claimList a.pin) ((s.entered c a).claimList a.pin)
      (fun d => s.rankAt d a.pin) c a.rank := by
  have rank : ∀ d, d ≠ c → (s.addClaim (newClaim c a none)).rankAt d a.pin = s.rankAt d a.pin := fun d hd => by
    rw [State.rankAt, State.rankAt, State.claimAt_addClaim_ne fun e => hd (congrArg Prod.fst e)]
  have self : (s.addClaim (newClaim c a none)).rankAt c a.pin = a.rank := by
    rw [← State.rankAt_entered new]
    exact (State.rankAt_congr (s.entered_claims c a) c a.pin).symm
  have all : (s.claimList a.pin).filter (· ≠ c) = s.claimList a.pin :=
    List.filter_eq_self.mpr fun d hd => decide_eq_true fun e => hl (e ▸ hd)
  rw [State.entered, State.claimList_enterList, if_pos rfl, State.addClaim_claimList, all, self,
    insertRanked_congr (rk := fun d => s.rankAt d a.pin) fun d hd => rank d fun e => hl (e ▸ hd)]
  exact insertRanked_inserted ..

/-- A channel that lost no reference settles as itself, with its references counted. -/
theorem Channel.Ok.settled_of_le {ch : Channel} (h : ch.Ok) {n : Nat} (hn : ch.refs ≤ n) :
    ch.settled n = { ch with refs := n } := by
  unfold Channel.settled
  split
  · next e =>
    obtain ⟨ho, rfl⟩ := e
    have free := h.1.mpr ⟨ho, Nat.le_zero.mp hn⟩
    rw [h.2.1 free]; rfl
  · rfl

/-- No orphan loses its last reference where none is taken away (R96). -/
theorem State.settleRefs_of_le {s t : State} (h : s.ChannelsOk) (hc : t.channels = s.channels)
    (hr : ∀ k : Chan, (s.channel k).refs ≤ t.refsOf k) : t.settleRefs = t.recount := by
  refine State.freeOrphans_of_none fun k => Bool.eq_false_iff.mpr fun hf => ?_
  obtain ⟨ho, hs, hz⟩ := Channel.forsaken_iff.mp hf
  rw [State.channel_recount, State.channel_congr hc] at ho hs hz
  have le := hr k
  dsimp only at ho hs hz
  exact hs ((h k).1.mpr ⟨ho, by omega⟩)

theorem State.claimLive_eq_changed {s : State} (h : s.ChannelsOk) (hc : s.CountsOk) (c : Client) (a : ClaimArgs) :
    s.claimLive c a = s.claimsChanged (some c) (s.entered c a) := by
  have le : ∀ k, (s.channel k).refs ≤ (State.noteTops s (some c) (s.entered c a)).refsOf k := fun k => by
    have e : (State.noteTops s (some c) (s.entered c a)).refsOf k = (s.addClaim (newClaim c a none)).refsOf k :=
      State.refsOf_congr (by simp [State.entered]) (fun j => by simp [State.entered]) k
    rw [e, State.refsOf_addClaim, hc.1 k]
    omega
  rw [State.claimsChanged, State.settleRefs_of_le h (by simp [State.entered]) le]
  rfl

/-- The notices of a claim that enters a list: the client it displaces from the top is told (R10, R11). -/
theorem topNotice_of_entry {s t : State} {c d : Client} {p : Pin} {q : Queue} {r : Rank} (hc : c ∉ s.claimList p)
    (hm : ∀ d ∈ s.claimList p, d ∈ t.claimList p) (hh : t.top p = some c ∨ t.top p = s.top p)
    (hr : t.rankAt c p = r) : topNotice s t (some c) d q p =
      if d ≠ c ∧ s.top p = some d ∧ t.top p = some c then q.place (.topChange p false c r) else q := by
  have not_top : s.top p ≠ some c := fun e => hc (State.top_eq_some e)
  by_cases ht : t.top p = some c
  · unfold topNotice
    rw [ht]
    dsimp only
    by_cases hd : d = c
    · rw [if_neg (by simp [hd]), if_neg (by simp [hd])]
    · by_cases hs : s.top p = some d
      · rw [if_pos ⟨not_top, by simpa using Ne.symm hd, .inr ⟨hs, hm d (State.top_eq_some hs)⟩⟩,
          if_pos ⟨hd, hs, rfl⟩, hr, decide_eq_false (Ne.symm hd)]
      · rw [if_neg (by simp [hs, Ne.symm hd]), if_neg (by simp [hs])]
  · rw [topNotice_of_same_top (hh.resolve_left ht).symm, if_neg (by simp [ht])]

section
variable {s : State} {c : Client} {a : ClaimArgs}

theorem State.refsOf_claimLive (k : Chan) :
    (s.claimLive c a).refsOf k = s.refsOf k + if a.source.names k = true then 1 else 0 := by
  have e : (s.claimLive c a).refsOf k = (s.addClaim (newClaim c a none)).refsOf k :=
    State.refsOf_congr (by simp [State.claimLive_eq]) (fun j => by
      simp only [State.claimLive_eq, State.resolvePads_channel, State.channel_recount]; simp) k
  rw [e, State.refsOf_addClaim]
  exact congrArg _ (if_congr ((newClaim_names c a none k).trans (by simp)) rfl rfl)

theorem countP_newClaim (l : List Claim) (wait : Option Chan) (d : Client) :
    ((l ++ [newClaim c a wait]).countP fun q => q.client = d) =
      (l.countP fun q => q.client = d) + if c = d then 1 else 0 := by
  rw [List.countP_append, List.countP_singleton]
  exact congrArg _ (if_congr decide_eq_true_iff rfl rfl)

end

theorem Inserted.mem {l m : List Client} {rk : Client → Rank} {c d : Client} {r : Rank} (h : Inserted l m rk c r)
    (hd : d ∈ l) : d ∈ m := by
  obtain ⟨i, -, rfl, -⟩ := h
  rw [List.mem_append, List.mem_cons, or_left_comm, ← List.mem_append, List.take_append_drop]
  exact .inr hd

theorem State.isTop_byte (s : State) (c : Client) (p : Pin) : flagByte (s.isTop c p) = if s.top p = some c then 1 else 0 :=
  flagByte_decide _

/-- Settles O26: the new claim changes the claims of one pin, and no orphan loses a reference. -/
theorem claimEntersLive : Obligations.ClaimEntersLive := by
  intro s c tag p r src hold wait h ha hs hr hf hh hrole hceil hnew hnamed hroom hwait
  obtain ⟨a, rfl, rfl, rfl, rfl, rfl⟩ : ∃ a : ClaimArgs, a.pin = p ∧ a.rank = r ∧ a.source = src ∧ a.hold = hold ∧
    a.wait = wait := ⟨⟨p, r, src, hold, wait⟩, rfl, rfl, rfl, rfl, rfl⟩
  have may : s.MayClaim c a := ⟨hs, hr, hh, hrole, hceil, hnew, hnamed, hroom⟩
  have served := State.served_claim_of_may may hf
  rw [State.waitsOn_eq_none hwait, Option.elim_none] at served
  have hl := h.not_mem_claimList hnew
  have refs := State.refsOf_claimLive (s := s.taken c) (c := c) (a := a)
  rw [State.claimLive_eq_changed (s := s.taken c) h.channels (h.counts.taken c)] at served refs
  have only := (s.taken c).onlyAt_entered c a
  have inserted := State.inserted_entered (s := s.taken c) hnew hl
  obtain ⟨pads, pad⟩ := only.pads_answer h.pads tag .ok
    [claimStateByte .live, flagByte (((s.taken c).claimsChanged (some c) ((s.taken c).entered c a)).isTop c a.pin)]
  have held : ∀ d, ((s.taken c).entered c a).claims.countP (fun q => decide (q.client = d)) =
      ((s.taken c).session d).claimsHeld + if c = d then 1 else 0 := fun d => by
    rw [State.entered_claims, State.addClaim_claims, countP_newClaim, ← State.claimsHeld_taken h.counts]; rfl
  refine ⟨_, exec_of_asks ha, ?_⟩
  rw [served]
  dsimp only
  refine ⟨?_, ?_, fun q hq => ⟨?_, pads q hq⟩, ?_, ?_, pad, fun k => ?_, fun d => ?_, ?_, fun d hd => ?_, ?_, ?_,
    sameDevice_answer (only.device_changed _) tag .ok _⟩
  · rw [State.answer_claims, State.claimsChanged_claims, State.entered_claims]; rfl
  · rw [State.answer_claimList, State.claimsChanged_claimList]; exact inserted
  · rw [State.answer_claimList, State.claimsChanged_claimList, only.claimList q hq, State.taken_claimList]
  · refine State.waitLists_ext fun k => ?_
    rw [State.answer_waitList, State.claimsChanged_waitList]; rfl
  · rw [State.answer_policies, State.claimsChanged_policies]; rfl
  · rw [only.channel_answer h.channels, State.refsOf_answer, refs, (h.channels k).settled_of_le]
    · rw [h.counts.1 k]; rfl
    · rw [h.counts.1 k]; exact Nat.le_add_right ..
  · rw [only.queue_answer]
    refine topNotice_of_entry hl (fun d hd => ?_) ?_ ?_
    · rw [State.answer_claimList, State.claimsChanged_claimList]; exact inserted.mem hd
    · rw [State.top_answer, State.top, State.claimsChanged_claimList]; exact inserted.head
    · rw [State.rankAt_answer, State.rankAt_congr (State.claimsChanged_claims ..)]; exact State.rankAt_entered hnew
  · rw [only.session_answer h.counts, held, if_pos rfl, State.session_taken, if_pos rfl, Session.renewed_claimsHeld]
  · rw [only.session_answer h.counts, held, if_neg (Ne.symm hd), State.session_taken, if_neg (Ne.symm hd)]; rfl
  · rw [State.top_answer, ← State.isTop_byte]
    exact answered_of_placed (only.samePorts_changed _) tag .ok _
  · rw [State.answer_watches, State.claimsChanged_watches]; rfl

/-! ## CLAIM that enters PENDING -/

theorem State.claimAt_taken_new {s : State} {c : Client} {p : Pin} (h : s.claimAt c p = none) {w : Client × Pin} {k : Chan}
    (hw : s.WaitsHeld) (hm : w ∈ s.waitList k) : w ≠ (c, p) := fun e => by
  subst e
  obtain ⟨q, hq, -⟩ := ((hw k).2 c p).mp hm
  rw [h] at hq; cases hq

/-- A recount after a change of the pool alone counts the claims anew (R120). -/
theorem State.session_recount_of_same {s v : State} (hs : s.CountsOk) (h : v.sessions = s.sessions)
    (hw : v.watches = s.watches) (hc : v.channels = s.channels) (d : Client) : v.recount.session d =
      { s.session d with claimsHeld := v.claims.countP fun q => q.client = d } := by
  simp only [State.session_recount, State.session_congr h, hw, State.channel_congr hc, ← (hs.2 d).2.1, ← (hs.2 d).2.2]

/-- Settles O27: the new claim joins the pool and one waiting list; only counts change besides. -/
theorem claimWaitsOnARunningChannel : Obligations.ClaimWaitsOnARunningChannel := by
  intro s c tag p r src hold k h ha hs hr hf hh hrole hceil hnew hnamed hroom hrun
  obtain ⟨a, rfl, rfl, rfl, rfl, hk⟩ : ∃ a : ClaimArgs, a.pin = p ∧ a.rank = r ∧ a.source = src ∧ a.hold = hold ∧
    a.wait = some k := ⟨⟨p, r, src, hold, some k⟩, rfl, rfl, rfl, rfl, rfl⟩
  have may : s.MayClaim c a := ⟨hs, hr, hh, hrole, hceil, hnew, fun j hj => by
    obtain hj | hj := hj
    · exact hnamed j hj
    · rw [hk] at hj
      cases hj
      rw [hrun]; decide, hroom⟩
  have served := State.served_claim_of_may may hf
  rw [State.waitsOn_eq_some.mpr ⟨hk, hrun⟩, Option.elim_some, hk] at served
  have held := ((State.waitsOk_iff h.pool.unique).mp h.waits).1
  have lists : ∀ j, ((s.taken c).claimPending c a k).waitList j = s.waitList j ++ if k = j then [(c, a.pin)] else [] :=
    fun j => by
      have fresh : (s.waitList j).filter (· ≠ (c, a.pin)) = s.waitList j := List.filter_eq_self.mpr fun w hw =>
        decide_eq_true (State.claimAt_taken_new hnew held hw)
      rw [State.claimPending_eq, State.recount_waitList, State.waitList_enterWait, State.addClaim_waitList,
        State.taken_waitList, fresh]
  have refs : ∀ j, (((s.taken c).addClaim (newClaim c a (some k))).enterWait c a.pin k).refsOf j =
      s.refsOf j + if a.source.names j = true ∨ j = k then 1 else 0 := fun j => by
    have e : (((s.taken c).addClaim (newClaim c a (some k))).enterWait c a.pin k).refsOf j =
        ((s.taken c).addClaim (newClaim c a (some k))).refsOf j :=
      State.refsOf_congr (State.enterWait_claims ..) (fun i => by rw [State.enterWait_channel]) j
    rw [e, State.refsOf_addClaim]
    refine congrArg _ (if_congr ((newClaim_names c a (some k) j).trans (or_congr Iff.rfl ?_)) rfl rfl)
    exact ⟨fun e => (Option.some.inj e).symm, fun e => congrArg some e.symm⟩
  have session : ∀ d, ((s.taken c).claimPending c a k).session d = { (s.taken c).session d with
      claimsHeld := ((s.taken c).session d).claimsHeld + if c = d then 1 else 0 } := fun d => by
    rw [State.claimPending_eq, State.session_recount_of_same
      (v := ((s.taken c).addClaim (newClaim c a (some k))).enterWait c a.pin k) (h.counts.taken c) (State.enterWait_sessions ..)
      (State.enterWait_watches ..) (State.enterWait_channels ..), State.enterWait_claims, State.addClaim_claims,
      countP_newClaim, State.taken_claims, State.claimsHeld_taken h.counts]
  refine ⟨_, exec_of_asks ha, ?_⟩
  rw [served]
  dsimp only
  refine ⟨?_, ?_, fun j hj => ?_, ?_, ⟨?_, ?_⟩, ?_, fun j => ?_, ?_, fun d hd => ?_, ?_, ?_, sameDevice_answer ?_ tag .ok _⟩
  · rw [State.answer_claims]; simp [State.claimPending_eq, newClaim]
  · rw [State.answer_waitList, lists, if_pos rfl]
  · rw [State.answer_waitList, lists, if_neg (Ne.symm hj), List.append_nil]
  · rw [State.answer_claimLists]; simp [State.claimPending_eq]
  · rw [State.answer_policies, State.claimPending_eq, State.recount_policies]; rfl
  · rw [State.answer_pads, State.claimPending_eq, State.recount_pads]; rfl
  · rw [State.answer_queues, State.claimPending_eq, State.recount_queues]; rfl
  · rw [State.answer_channel, State.claimPending_eq, State.channel_recount, refs, h.counts.1 j]; rfl
  · rw [State.answer_session, session, if_pos rfl, State.session_taken, if_pos rfl, Session.renewed_claimsHeld]
  · rw [State.answer_session, session, if_neg (Ne.symm hd), State.session_taken, if_neg (Ne.symm hd)]; rfl
  · exact answered_of_ports (fun d => by rw [State.claimPending_eq, State.recount_port]; rfl) tag .ok _
  · rw [State.answer_watches, State.claimPending_eq, State.recount_watches]; rfl
  · exact ⟨rfl, rfl, rfl, rfl, rfl⟩

end Sys2Proof.Machine
end

section
/-! PROOFS. MODIFY that is applied at once, and MODIFY that is stored until a boundary (R17 to R19). -/

namespace Sys2Proof.Machine

open Sys2Proof

/-! ## The request at its block -/

theorem State.MayModify.taken {s : State} {c : Client} {q : Claim} {a : ModifyArgs} (h : s.MayModify c q a) :
    (s.taken c).MayModify c q a where
  inSession := State.inSession_taken.mpr h.inSession
  claim := h.claim
  live := h.live
  given := h.given
  rank := h.rank
  hold := h.hold
  ceiling := h.ceiling
  named := h.named

/-- A MODIFY payload that may be granted, at its block. -/
theorem State.served_modify_of_may {s : State} {c : Client} {q : Claim} {a : ModifyArgs} (may : s.MayModify c q a)
    (hf : a.source.all Source.formed = true) :
    s.served c .modify (modifyPayload a.pin a.rank a.source a.hold a.wait) = (s.waitsOn a.wait).elim
      { state := (s.taken c).modifyNow c q a, status := .ok,
        payload := [0, byteOf (((s.taken c).modifyNow c q a).rankAt c a.pin).val,
          flagByte (((s.taken c).modifyNow c q a).isTop c a.pin)] }
      fun k =>
        { state := (s.taken c).modifyLater c q a k, status := .ok,
          payload := [1, byteOf (((s.taken c).modifyLater c q a k).rankAt c a.pin).val,
            flagByte (((s.taken c).modifyLater c q a k).isTop c a.pin)] } := by
  have decoded := decodeModify_bytes a.pin a.rank a.source a.hold a.wait
  rw [if_pos ⟨may.given, may.rank, hf, may.hold⟩] at decoded
  exact (State.served_modify may.inSession (lengthOk_modify ..)).trans (modifyAct_of_may decoded may.taken)

theorem State.MayModify.ofPayload {s : State} {c : Client} {q : Claim} {a : ModifyArgs} (hs : s.InSession c)
    (hg : a.rank.isSome ∨ a.source.isSome) (hr : a.rank ≠ some 0) (hh : a.hold ≠ some 0)
    (hq : s.claimAt c a.pin = some q) (hl : q.state = .live)
    (hc : (a.rank.all fun x => x ≤ (s.policy a.pin).ceilings[c.val]) = true)
    (hn : ∀ k : Chan, a.source.any (·.names k) = true ∨ a.wait = some k → (s.channel k).state ≠ .free) :
    s.MayModify c q a where
  inSession := hs
  claim := hq
  live := hl
  given := hg
  rank := hr
  hold := hh
  ceiling r h := by
    rw [Option.mem_def.mp h, Option.all_some] at hc
    exact of_decide_eq_true hc
  named := hn

/-! ## The record -/

theorem Claim.modified_eq (q : Claim) (a : ModifyArgs) : q.modified a =
    { q with
      rank := a.rank.getD q.rank, source := a.source.getD q.source, wait := none, change := none
      hold := a.hold.or q.hold, holdLeft := a.hold.or q.holdLeft, tickDue := a.hold.isNone && q.tickDue } := by
  unfold Claim.modified Claim.rehold
  cases a.hold <;> simp

theorem Claim.deferred_eq (q : Claim) (a : ModifyArgs) (k : Chan) : q.deferred a k =
    { q with
      wait := some k, change := some { rank := a.rank, source := a.source }
      hold := a.hold.or q.hold, holdLeft := a.hold.or q.holdLeft, tickDue := a.hold.isNone && q.tickDue } := by
  unfold Claim.deferred Claim.rehold
  cases a.hold <;> simp

/-- A replaced record keeps each client's number of claims. -/
theorem State.countP_setClaim (s : State) (q : Claim) (d : Client) :
    ((s.setClaim q).claims.countP fun r => r.client = d) = s.claims.countP fun r => r.client = d := by
  have ids := claim_setClaim_ids s.claims q
  have clients : (s.setClaim q).claims.map (·.client) = s.claims.map (·.client) := by
    have := congrArg (List.map Prod.fst) ids
    rw [List.map_map, List.map_map (f := fun r : Claim => (r.client, r.pin))] at this
    exact this
  have count : ∀ l : List Claim, (l.countP fun r => r.client = d) = (l.map (·.client)).countP fun x => x = d := fun l => by
    rw [List.countP_map]; rfl
  rw [count, count, clients]

section
variable {s : State} {c : Client} {q : Claim} {a : ModifyArgs}

theorem State.claimAt_setClaim_self {q' : Claim} {p : Pin} (hq : s.claimAt c p = some q) (hc : q'.client = c)
    (hp : q'.pin = p) : (s.setClaim q').claimAt c p = some q' := by
  rw [State.claimAt_setClaim, if_pos ⟨hc, hp⟩, hq]; rfl

theorem State.claimAt_setClaim_ne {q' : Claim} {d : Client} {x : Pin} (h : (d, x) ≠ (q'.client, q'.pin)) :
    (s.setClaim q').claimAt d x = s.claimAt d x := by
  rw [State.claimAt_setClaim, if_neg fun e => h (by rw [e.1, e.2])]

theorem Claim.modified_ids (q : Claim) (a : ModifyArgs) :
    (q.modified a).client = q.client ∧ (q.modified a).pin = q.pin := by
  rw [Claim.modified_eq]; exact ⟨rfl, rfl⟩

theorem Claim.deferred_ids (q : Claim) (a : ModifyArgs) (k : Chan) :
    (q.deferred a k).client = q.client ∧ (q.deferred a k).pin = q.pin := by
  rw [Claim.deferred_eq]; exact ⟨rfl, rfl⟩

/-! ## MODIFY that is applied at once -/

theorem State.claimAt_modifiedPool (d : Client) (x : Pin) :
    (s.modifiedPool c q a).claimAt d x = (s.setClaim (q.modified a)).claimAt d x :=
  State.claimAt_congr (s.modifiedPool_claims c q a) d x

theorem State.claimList_modifiedPool_eq (x : Pin) : (s.modifiedPool c q a).claimList x =
    if (q.modified a).rank = q.rank then s.claimList x
    else ((s.setClaim (q.modified a)).enterList c q.pin).claimList x := by
  simp only [State.claimList, State.modifiedPool_claimLists]
  split <;> rfl

theorem State.onlyAt_modifiedPool (hq : s.claimAt c a.pin = some q) : OnlyAt s (s.modifiedPool c q a) a.pin := by
  obtain ⟨-, hc, hp⟩ := State.claimAt_mem hq
  obtain ⟨mc, mp⟩ := q.modified_ids a
  refine ⟨fun d x hx => ?_, fun x hx => ?_, ?_⟩
  · rw [State.claimAt_modifiedPool, State.claimAt_setClaim_ne fun e => hx ?_]
    obtain ⟨-, rfl⟩ := Prod.mk.inj e
    exact mp.trans hp
  · rw [State.claimList_modifiedPool_eq]
    split
    · rfl
    · rw [State.claimList_enterList, if_neg fun e => hx (e.symm.trans hp), State.setClaim_claimList]
  · unfold State.modifiedPool
    dsimp only
    split <;> rfl

/-- A changed rank moves the claim after the last one of equal or higher rank; else it keeps its place (R4, R17). -/
theorem State.claimList_modifiedPool (hq : s.claimAt c a.pin = some q) :
    if (q.modified a).rank = q.rank then (s.modifiedPool c q a).claimList a.pin = s.claimList a.pin
    else Inserted ((s.claimList a.pin).filter (· ≠ c)) ((s.modifiedPool c q a).claimList a.pin)
      (fun d => s.rankAt d a.pin) c (q.modified a).rank := by
  obtain ⟨-, hc, hp⟩ := State.claimAt_mem hq
  obtain ⟨mc, mp⟩ := q.modified_ids a
  have rank := State.rankAt_setClaim (q' := q.modified a) hq (mc.trans hc) (mp.trans hp)
  rw [State.claimList_modifiedPool_eq]
  split
  · rfl
  · rw [State.claimList_enterList, if_pos hp, hp, State.setClaim_claimList, rank, if_pos rfl,
      insertRanked_congr (rk := fun d => s.rankAt d a.pin) fun d hd => ?_]
    · exact insertRanked_inserted ..
    · rw [rank, if_neg fun e => of_decide_eq_true (List.mem_filter.mp hd).2 (congrArg Prod.fst e)]

theorem State.modifyNow_eq_changed (s : State) (c : Client) (q : Claim) (a : ModifyArgs) :
    s.modifyNow c q a = s.claimsChanged (some c) (s.modifiedPool c q a) := rfl

theorem State.session_modified (hs : s.CountsOk) (hq : s.claimAt c a.pin = some q) (d : Client) :
    (s.claimsChanged (some c) (s.modifiedPool c q a)).session d = s.session d := by
  rw [(State.onlyAt_modifiedPool hq).session_changed hs, State.modifiedPool_claims, State.countP_setClaim, ← (hs.2 d).1]

end

theorem State.onlyRenewed_taken {s u : State} {c : Client} (h : ∀ d, u.session d = (s.taken c).session d) (tag : Byte)
    (st : Status) (pl : List Byte) : OnlyRenewed s (u.answer c tag st pl) c :=
  onlyRenewed_of_sessions (State.sessions_ext h) tag st pl

/-- Settles O29: the modified claim changes the claims of one pin. -/
theorem modifyIsAppliedAtOnce : Obligations.ModifyIsAppliedAtOnce := by
  intro s c tag p r src hold wait q h ha hs hg hr hf hh hq hlive hceil hnamed hwait
  obtain ⟨a, rfl, rfl, rfl, rfl, rfl⟩ : ∃ a : ModifyArgs, a.pin = p ∧ a.rank = r ∧ a.source = src ∧ a.hold = hold ∧
    a.wait = wait := ⟨⟨p, r, src, hold, wait⟩, rfl, rfl, rfl, rfl, rfl⟩
  have served := State.served_modify_of_may (State.MayModify.ofPayload hs hg hr hh hq hlive hceil hnamed) hf
  rw [State.waitsOn_eq_none hwait, Option.elim_none] at served
  obtain ⟨-, hc, hp⟩ := State.claimAt_mem hq
  obtain ⟨mc, mp⟩ := q.modified_ids a
  have changed := (s.taken c).modifyNow_eq_changed c q a
  have only := State.onlyAt_modifiedPool (s := s.taken c) hq
  have list := State.claimList_modifiedPool (s := s.taken c) hq
  have self : ((s.taken c).modifiedPool c q a).claimAt c a.pin = some (q.modified a) := by
    rw [State.claimAt_modifiedPool]
    exact State.claimAt_setClaim_self (s := s.taken c) hq (mc.trans hc) (mp.trans hp)
  have rank : ((s.taken c).claimsChanged (some c) ((s.taken c).modifiedPool c q a)).rankAt c a.pin =
      a.rank.getD q.rank := by
    rw [State.rankAt_congr (State.claimsChanged_claims ..), State.rankAt, self, Claim.modified_eq]
  refine ⟨_, exec_of_asks ha, ?_⟩
  rw [served, changed, rank]
  dsimp only
  obtain ⟨pads, pad⟩ := only.pads_answer h.pads tag .ok [0, byteOf (a.rank.getD q.rank).val,
    flagByte (((s.taken c).claimsChanged (some c) ((s.taken c).modifiedPool c q a)).isTop c a.pin)]
  refine ⟨?_, fun d x hd => ?_, ?_, fun x hx => ⟨?_, pads x hx⟩, fun k => ?_, ?_, pad,
    only.channel_answer h.channels _ _ _, only.queue_answer _ _ _,
    State.onlyRenewed_taken (State.session_modified (h.counts.taken c) hq) _ _ _, ?_, ?_,
    sameDevice_answer (only.device_changed _) tag .ok _⟩
  · rw [State.claimAt_answer, State.claimAt_congr (State.claimsChanged_claims ..), self, Claim.modified_eq]
  · rw [State.claimAt_answer, State.claimAt_congr (State.claimsChanged_claims ..), State.claimAt_modifiedPool,
      State.claimAt_setClaim_ne (by rw [mc, mp, hc, hp]; exact hd), State.taken_claimAt]
  · rw [State.answer_claimList, State.claimsChanged_claimList]
    simpa only [Claim.modified_eq, State.taken_claimList, State.taken_rankAt] using list
  · rw [State.answer_claimList, State.claimsChanged_claimList, only.claimList x hx, State.taken_claimList]
  · rw [State.answer_waitList, State.claimsChanged_waitList, State.waitList_congr (State.modifiedPool_waitLists ..), hp,
      State.waitList_leaveWait, State.setClaim_waitList, State.taken_waitList]
  · rw [State.answer_policies, State.claimsChanged_policies, only.policies]; rfl
  · rw [State.top_answer, ← State.isTop_byte]
    exact answered_of_placed (only.samePorts_changed _) tag .ok _
  · rw [State.answer_watches, State.claimsChanged_watches, only.watches]; rfl

/-! ## MODIFY that is stored -/

/-- The settling of references after a change of the pool alone counts the claims anew (R120). -/
theorem State.session_settleRefs_of_same {s v : State} (hs : s.CountsOk) (h : v.sessions = s.sessions)
    (hw : v.watches = s.watches) (hc : v.channels = s.channels) (d : Client) : v.settleRefs.session d =
      { s.session d with claimsHeld := v.claims.countP fun q => q.client = d } := by
  simp only [State.session_settleRefs, State.session_congr h, hw, State.channel_congr hc, ← (hs.2 d).2.1,
    ← (hs.2 d).2.2]

/-- Settles O30: the stored change leaves the claim's place and source, so no pad, list or queue changes. -/
theorem modifyIsStoredForABoundary : Obligations.ModifyIsStoredForABoundary := by
  intro s c tag p r src hold k q h ha hs hg hr hf hh hq hlive hceil hnamed hrun
  obtain ⟨a, rfl, rfl, rfl, rfl, hk⟩ : ∃ a : ModifyArgs, a.pin = p ∧ a.rank = r ∧ a.source = src ∧ a.hold = hold ∧
    a.wait = some k := ⟨⟨p, r, src, hold, some k⟩, rfl, rfl, rfl, rfl, rfl⟩
  have may : s.MayModify c q a := State.MayModify.ofPayload hs hg hr hh hq hlive hceil fun j hj => by
    obtain hj | hj := hj
    · exact hnamed j hj
    · rw [hk] at hj
      cases hj
      rw [hrun]; decide
  have served := State.served_modify_of_may may hf
  rw [State.waitsOn_eq_some.mpr ⟨hk, hrun⟩, Option.elim_some, hk] at served
  obtain ⟨-, hc, hp⟩ := State.claimAt_mem hq
  obtain ⟨dc, dp⟩ := q.deferred_ids a k
  obtain ⟨v, hv⟩ : ∃ v, v = ((s.taken c).setClaim (q.deferred a k)).enterWait c a.pin k := ⟨_, rfl⟩
  have later : (s.taken c).modifyLater c q a k = v.settleRefs := by rw [State.modifyLater_eq, hv, hp]
  have claims : v.claims = ((s.taken c).setClaim (q.deferred a k)).claims := by rw [hv, State.enterWait_claims]
  have self : v.settleRefs.claimAt c a.pin = some (q.deferred a k) := by
    rw [State.claimAt_congr ((State.settleRefs_claims v).trans claims)]
    exact State.claimAt_setClaim_self (s := s.taken c) hq (dc.trans hc) (dp.trans hp)
  have rank : v.settleRefs.rankAt c a.pin = q.rank := by rw [State.rankAt, self, Claim.deferred_eq]
  have channel : ∀ j, v.channel j = s.channel j := fun j => by rw [hv]; simp
  have waits : ∀ j, v.waitList j = (s.waitList j).filter (· ≠ (c, a.pin)) ++ if k = j then [(c, a.pin)] else [] :=
    fun j => by rw [hv, State.waitList_enterWait, State.setClaim_waitList, State.taken_waitList]
  have top : v.settleRefs.top a.pin = s.top a.pin := by
    rw [State.top, State.settleRefs_claimList, hv, State.enterWait_claimList, State.setClaim_claimList]; rfl
  have session : ∀ d, v.settleRefs.session d = (s.taken c).session d := fun d => by
    rw [State.session_settleRefs_of_same (h.counts.taken c) (by rw [hv]; simp) (by rw [hv]; simp) (by rw [hv]; simp),
      claims, State.countP_setClaim, ← ((h.counts.taken c).2 d).1]
  refine ⟨_, exec_of_asks ha, ?_⟩
  rw [served, later, rank]
  dsimp only
  refine ⟨?_, fun d x hd => ?_, ?_, fun j hj => ?_, ?_, ⟨?_, ?_⟩, ?_, fun j => ?_,
    State.onlyRenewed_taken session _ _ _, ?_, ?_, sameDevice_answer ?_ tag .ok _⟩
  · rw [State.claimAt_answer, self, Claim.deferred_eq]
  · rw [State.claimAt_answer, State.claimAt_congr ((State.settleRefs_claims v).trans claims),
      State.claimAt_setClaim_ne (by rw [dc, dp, hc, hp]; exact hd), State.taken_claimAt]
  · rw [State.answer_waitList, State.settleRefs_waitList, waits, if_pos rfl]
  · rw [State.answer_waitList, State.settleRefs_waitList, waits, if_neg (Ne.symm hj), List.append_nil]
  · rw [State.answer_claimLists, State.settleRefs_claimLists, hv]; simp
  · rw [State.answer_policies, State.settleRefs_policies, hv]; simp
  · rw [State.answer_pads, State.settleRefs_pads, hv]; simp
  · rw [State.answer_queues, State.settleRefs_queues, hv]; simp
  · rw [State.answer_channel, State.refsOf_answer, State.channel_settleRefs, channel]
    exact fun i hi => by rw [channel] at hi ⊢; exact h.channels.freeCleared i hi
  · rw [State.isTop, top, flagByte_decide]
    exact answered_of_ports (fun d => by rw [State.settleRefs_port, hv]; simp) tag .ok _
  · rw [State.answer_watches, State.settleRefs_watches, hv]; simp
  · rw [hv]; exact ⟨by simp, by simp, by simp, by simp, by simp⟩

end Sys2Proof.Machine
end

section
/-! PROOFS. Who is told: the notices of an event go to the clients that a claim, a claim list, a watch or a channel knows,
and each port's attention line follows its queue (R142 to R145, R165). -/

namespace Sys2Proof.Machine

open Sys2Proof

/-! ## Queues -/

/-- A queue but for the law that it drops notices only where it is full. -/
structure Queue.Fits (q : Queue) : Prop where
  length : q.entries.length ≤ Config.queueSize
  keys : q.keys.Nodup
  repeats : ∀ e ∈ q.entries, 1 ≤ e.repeats ∧ e.repeats ≤ Config.countMax
  dropped : q.dropped ≤ Config.countMax

theorem Queue.ok_iff {q : Queue} : q.Ok ↔ q.Fits ∧ (0 < q.dropped → q.entries.length = Config.queueSize) :=
  ⟨fun ⟨h1, h2, h3, h4, h5⟩ => ⟨⟨h1, h2, h3, h4⟩, h5⟩, fun ⟨⟨h1, h2, h3, h4⟩, h5⟩ => ⟨h1, h2, h3, h4, h5⟩⟩

theorem Queue.empty_ok : Queue.empty.Ok := by decide

theorem Queue.Fits.place {q : Queue} (h : q.Fits) (n : Notice) : (q.place n).Fits := by
  have keys := q.place_keys n
  by_cases hm : n.key ∈ q.keys
  · rw [if_pos (.inl hm)] at keys
    have e := Queue.place_of_mem hm
    refine ⟨?_, keys ▸ h.keys, fun x hx => ?_, by rw [e]; exact h.dropped⟩
    · rw [e, List.length_map]; exact h.length
    · rw [e, List.mem_map] at hx
      obtain ⟨y, hy, rfl⟩ := hx
      have := h.repeats y hy
      split
      · exact ⟨le_min (by decide) (by omega), min_le_left ..⟩
      · exact this
  · by_cases hf : Config.queueSize ≤ q.entries.length
    · rw [if_pos (.inr hf)] at keys
      have e := Queue.place_of_full hm hf
      exact ⟨by rw [e]; exact h.length, keys ▸ h.keys, by rw [e]; exact h.repeats, by rw [e]; exact min_le_left ..⟩
    · rw [if_neg (by simp [hm, hf])] at keys
      have e := Queue.place_of_room hm (Nat.not_le.mp hf)
      refine ⟨?_, ?_, fun x hx => ?_, by rw [e]; exact h.dropped⟩
      · rw [e, List.length_append, List.length_singleton]; omega
      · rw [keys]
        exact List.nodup_append'.mpr ⟨h.keys, List.nodup_singleton _, by simpa using hm⟩
      · rw [e, List.mem_append, List.mem_singleton] at hx
        obtain hx | rfl := hx
        · exact h.repeats x hx
        · exact ⟨le_refl 1, show 1 ≤ Config.countMax by decide⟩

theorem Queue.Ok.place {q : Queue} (h : q.Ok) (n : Notice) : (q.place n).Ok := by
  obtain ⟨fits, full⟩ := Queue.ok_iff.mp h
  refine Queue.ok_iff.mpr ⟨fits.place n, fun hd => ?_⟩
  have len := q.place_length n
  by_cases hm : n.key ∈ q.keys
  · rw [if_pos (.inl hm)] at len
    rw [Queue.place_of_mem hm] at hd
    exact len.trans (full hd)
  · by_cases hf : Config.queueSize ≤ q.entries.length
    · rw [if_pos (.inr hf)] at len
      exact len.trans (le_antisymm fits.length hf)
    · rw [Queue.place_of_room hm (Nat.not_le.mp hf)] at hd
      exact absurd (full hd) (by omega)

theorem Queue.Ok.fetch {q : Queue} (h : q.Ok) {n : Nat} (hn : 1 ≤ n) : (q.fetch n).Ok := by
  obtain ⟨fits, full⟩ := Queue.ok_iff.mp h
  have rest : ({ q with entries := q.entries.drop n } : Queue).Fits :=
    ⟨(by simp : _ ≤ q.entries.length).trans fits.length, fits.keys.sublist ((List.drop_sublist n _).map _),
      fun e he => fits.repeats e (List.mem_of_mem_drop he), fits.dropped⟩
  by_cases hc : (q.entries.take n).isEmpty = true ∨ q.dropped = 0
  · rw [Queue.fetch_of_none hc]
    refine Queue.ok_iff.mpr ⟨rest, fun hd => ?_⟩
    have hd : 0 < q.dropped := hd
    have empty : q.entries = [] := by
      obtain hc | hc := hc
      · have := List.isEmpty_iff.mp hc
        rw [List.take_eq_nil_iff] at this
        obtain e | e := this
        · omega
        · exact e
      · omega
    rw [empty] at full
    exact absurd (full hd) (by decide)
  · rw [not_or, Bool.not_eq_true] at hc
    rw [Queue.fetch_of_dropped hc.1 hc.2]
    obtain ⟨h1, h2, h3, -⟩ := rest.place (.overflow q.dropped)
    exact Queue.ok_iff.mpr ⟨⟨h1, h2, h3, Nat.zero_le _⟩, fun hd => absurd hd (lt_irrefl 0)⟩

/-- A queue that has taken notices. -/
def Queue.Grows : Queue → Queue → Prop := Relation.ReflTransGen fun q r => ∃ n, r = q.place n

theorem Queue.Grows.ok {q r : Queue} (h : q.Grows r) (hq : q.Ok) : r.Ok := by
  induction h with
  | refl => exact hq
  | tail _ hs ih =>
    obtain ⟨n, rfl⟩ := hs
    exact ih.place n

/-! ## What an event tells -/

/-- An event that places notices in the queues of clients in `T` and changes no more of a port than its attention line. -/
structure Notified (T : Client → Prop) (s t : State) : Prop where
  ports : ∀ c : Client, t.port c = { s.port c with attention := (t.port c).attention }
  attention : ∀ c : Client, t.queue c = s.queue c ∧ (t.port c).attention = (s.port c).attention ∨
    (t.queue c).entries ≠ [] ∧ (t.port c).attention = true
  queue : ∀ c : Client, (s.queue c).Grows (t.queue c)
  quiet : ∀ c : Client, ¬T c → t.queue c = s.queue c

section
variable {T : Client → Prop} {s t u : State}

theorem Notified.of_same (hp : t.ports = s.ports) (hq : t.queues = s.queues) : Notified T s t where
  ports c := by rw [State.port_congr hp]
  attention c := .inl ⟨State.queue_congr hq c, by rw [State.port_congr hp]⟩
  queue c := by rw [State.queue_congr hq]; exact .refl
  quiet c _ := State.queue_congr hq c

theorem Notified.trans (a : Notified T s t) (b : Notified T t u) : Notified T s u where
  ports c := by rw [b.ports c, a.ports c]
  attention c := by
    obtain ⟨hq, ha⟩ | h := b.attention c
    · rw [hq, ha]; exact a.attention c
    · exact .inr h
  queue c := (a.queue c).trans (b.queue c)
  quiet c hc := (b.quiet c hc).trans (a.quiet c hc)

theorem Notified.place (s : State) {c : Client} (hc : T c) (n : Notice) : Notified T s (s.place c n) where
  ports := (Placed.place s c n).ports
  attention := (Placed.place s c n).attention
  queue d := by
    rw [State.queue_place]
    split
    · next e => subst e; exact .single ⟨n, rfl⟩
    · exact .refl
  quiet d hd := by rw [State.queue_place, if_neg fun (e : c = d) => hd (e ▸ hc)]

theorem Notified.queuesOk (h : Notified T s t) (hs : s.QueuesOk) : t.QueuesOk := fun c => (h.queue c).ok (hs c)

theorem Notified.attentionOk (h : Notified T s t) (hs : s.AttentionOk) : t.AttentionOk := by
  intro c
  obtain ⟨hq, ha⟩ | ⟨hq, ha⟩ := h.attention c
  · rw [ha, hq, hs c, h.ports c]
  · have : (t.queue c).entries.isEmpty = false := by simpa using hq
    rw [ha, this]; simp

theorem Notified.portsOk (h : Notified T s t) (hs : s.PortsOk) : t.PortsOk := fun c => by
  rw [h.ports c]; exact hs c

end

/-! ## Whom the tables know -/

/-- Every client that a claim, a claim list, a channel or a watch names is in `T`. -/
structure State.Knows (T : Client → Prop) (s : State) : Prop where
  claims : ∀ q ∈ s.claims, T q.client
  lists : ∀ (p : Pin) (c : Client), c ∈ s.claimList p → T c
  owners : ∀ (k : Chan) (c : Client), (s.channel k).owner = some c → T c
  watches : ∀ w ∈ s.watches, T w.client

/-- An event that knows nobody new and tells nobody else. -/
def Heeds (T : Client → Prop) (s t : State) : Prop := s.Knows T → t.Knows T ∧ Notified T s t

section
variable {T : Client → Prop} {s t u : State}

theorem Heeds.refl (s : State) : Heeds T s s := fun h => ⟨h, .of_same rfl rfl⟩

theorem Heeds.trans (a : Heeds T s t) (b : Heeds T t u) : Heeds T s u := fun h =>
  ⟨(b (a h).1).1, (a h).2.trans (b (a h).1).2⟩

theorem Heeds.foldl {α : Type} {f : State → α → State} {l : List α} (h : ∀ s, ∀ a ∈ l, Heeds T s (f s a)) (s : State) :
    Heeds T s (l.foldl f s) := foldl_inv (P := fun t => Heeds T s t) (fun t a ha ht => ht.trans (h t a ha)) (.refl s)

theorem State.Knows.mono (h : s.Knows T) (hc : ∀ q ∈ t.claims, ∃ r ∈ s.claims, r.client = q.client)
    (hl : ∀ p : Pin, t.claimList p ⊆ s.claimList p)
    (ho : ∀ (k : Chan) (c : Client), (t.channel k).owner = some c → (s.channel k).owner = some c)
    (hw : ∀ w ∈ t.watches, ∃ v ∈ s.watches, v.client = w.client) : t.Knows T where
  claims q hq := by obtain ⟨r, hr, e⟩ := hc q hq; exact e ▸ h.claims r hr
  lists p c hm := h.lists p c (hl p hm)
  owners k c hk := h.owners k c (ho k c hk)
  watches w hm := by obtain ⟨v, hv, e⟩ := hw w hm; exact e ▸ h.watches v hv

/-- An event that names nobody new and places no notice. -/
theorem Heeds.frame (hc : t.claims = s.claims) (hl : t.claimLists = s.claimLists)
    (ho : ∀ k : Chan, (t.channel k).owner = (s.channel k).owner) (hw : t.watches = s.watches) (hp : t.ports = s.ports)
    (hq : t.queues = s.queues) : Heeds T s t := fun h =>
  ⟨h.mono (fun q hm => ⟨q, hc ▸ hm, rfl⟩) (fun p => by rw [State.claimList_congr hl]; exact List.Subset.refl _)
    (fun k c e => (ho k).symm.trans e) (fun w hm => ⟨w, hw ▸ hm, rfl⟩), .of_same hp hq⟩

theorem State.Knows.congr (h : s.Knows T) (hc : t.claims = s.claims) (hl : t.claimLists = s.claimLists)
    (hk : t.channels = s.channels) (hw : t.watches = s.watches) : t.Knows T :=
  h.mono (fun q hm => ⟨q, hc ▸ hm, rfl⟩) (fun p => by rw [State.claimList_congr hl]; exact List.Subset.refl _)
    (fun k c e => by rwa [State.channel_congr hk] at e) (fun w hm => ⟨w, hw ▸ hm, rfl⟩)

theorem Heeds.place (s : State) {c : Client} (hc : T c) (n : Notice) : Heeds T s (s.place c n) := fun h =>
  ⟨h.congr (State.place_claims ..) (State.place_claimLists ..) (State.place_channels ..) (State.place_watches ..),
    .place s hc n⟩

theorem Heeds.placeAll (s : State) {cs : List Client} (hc : ∀ c ∈ cs, T c) (n : Notice) : Heeds T s (s.placeAll cs n) :=
  Heeds.foldl (fun s c hm => .place s (hc c hm) n) s

theorem Heeds.noteOwner (s : State) (k : Chan) (n : Notice) : Heeds T s (s.noteOwner k n) := fun h => by
  unfold State.noteOwner
  split
  · next c hc => exact Heeds.place s (h.owners k c hc) n h
  · exact Heeds.refl s h

theorem Heeds.noteSource (s : State) (k : Chan) (x : Option Client) : Heeds T s (s.noteSource k x) := fun h => by
  refine Heeds.placeAll s (fun c hc => ?_) _ h
  have := (List.mem_filter.mp hc).2
  simp only [Bool.and_eq_true, State.relies, List.any_eq_true, decide_eq_true_eq] at this
  obtain ⟨-, q, hq, rfl, -⟩ := this
  exact h.claims q hq

theorem Heeds.noteTop (b : State) (x : Option Client) (s : State) (p : Pin) :
    Heeds T s (State.noteTop b x s p) := fun h => by
  unfold State.noteTop
  split
  · exact Heeds.refl s h
  · split
    · exact Heeds.refl s h
    · next y hy =>
      have top : T y := h.lists p y (State.top_eq_some hy)
      dsimp only
      have displaced : Heeds T s (match b.top p with
          | some o => if (s.claimList p).contains o && decide (x ≠ some o) then
              s.place o (.topChange p false y (s.rankAt y p)) else s
          | none => s) := by
        split
        · split
          · next o _ hm =>
            simp only [Bool.and_eq_true, List.contains_iff_mem] at hm
            exact Heeds.place s (h.lists p o hm.1) _
          · exact .refl s
        · exact .refl s
      split
      · exact displaced h
      · exact displaced.trans (.place _ top _) h

theorem Heeds.noteTops (b : State) (x : Option Client) (s : State) : Heeds T s (State.noteTops b x s) :=
  Heeds.foldl (fun t p _ => .noteTop b x t p) s

theorem Heeds.resolvePads (s : State) : Heeds T s s.resolvePads :=
  .frame (by simp) (by simp) (by simp) (by simp) (by simp) (by simp)

theorem Heeds.setChannel (s : State) (k : Chan) {ch : Channel} (ho : ch.owner = (s.channel k).owner) :
    Heeds T s (s.setChannel k ch) :=
  .frame (by simp) (by simp) (fun j => by
    rw [State.channel_setChannel]
    split
    · next e => rw [ho, e]
    · rfl) (by simp) (by simp) (by simp)

theorem State.owner_recount (s : State) (k : Chan) : (s.recount.channel k).owner = (s.channel k).owner := by
  rw [State.channel_recount]

theorem Heeds.recount (s : State) : Heeds T s s.recount :=
  .frame (by simp) (by simp) s.owner_recount (by simp) (by simp) (by simp)

theorem State.owner_settleRefs (s : State) (k : Chan) : (s.settleRefs.channel k).owner = (s.channel k).owner := by
  obtain e | ⟨e, ho, -⟩ := s.settleRefs_cases k
  · rw [e]
  · rw [e, ho]; rfl

theorem Heeds.settleRefs (s : State) : Heeds T s s.settleRefs :=
  .frame (by simp) (by simp) s.owner_settleRefs (by simp) (by simp) (by simp)

theorem Heeds.dropClaims (s : State) (gone : Client → Pin → Bool) : Heeds T s (s.dropClaims gone) := fun h =>
  ⟨h.mono (fun q hm => ⟨q, List.mem_of_mem_filter hm, rfl⟩) (fun p => by
    rw [State.claimList_dropClaims]; exact List.filter_subset_self _) (fun _ _ e => e) fun w hm => ⟨w, hm, rfl⟩,
    .of_same rfl rfl⟩

theorem Heeds.setClaim (s : State) {q : Claim} (hq : T q.client) : Heeds T s (s.setClaim q) := fun h =>
  ⟨{ claims := fun r hr => by
       obtain ⟨r', hr', rfl⟩ := List.mem_map.mp hr
       split
       · exact hq
       · exact h.claims r' hr'
     lists := h.lists, owners := h.owners, watches := h.watches }, .of_same rfl rfl⟩

theorem Heeds.addClaim (s : State) {q : Claim} (hq : T q.client) : Heeds T s (s.addClaim q) := fun h =>
  ⟨{ claims := fun r hr => by
       rw [State.addClaim_claims, List.mem_append, List.mem_singleton] at hr
       obtain hr | rfl := hr
       · exact h.claims r hr
       · exact hq
     lists := h.lists, owners := h.owners, watches := h.watches }, .of_same rfl rfl⟩

theorem Heeds.enterList (s : State) {c : Client} (hc : T c) (p : Pin) : Heeds T s (s.enterList c p) := fun h =>
  ⟨{ claims := h.claims
     lists := fun x d hd => by
       rw [State.claimList_enterList] at hd
       split at hd
       · obtain rfl | hd := (insertRanked_mem ..).mp hd
         · exact hc
         · exact h.lists p d (List.mem_of_mem_filter hd)
       · exact h.lists x d hd
     owners := h.owners, watches := h.watches }, .of_same rfl rfl⟩

theorem Heeds.leaveWait (s : State) (c : Client) (p : Pin) : Heeds T s (s.leaveWait c p) :=
  .frame rfl rfl (fun _ => rfl) rfl rfl rfl

theorem Heeds.enterWait (s : State) (c : Client) (p : Pin) (k : Chan) : Heeds T s (s.enterWait c p k) :=
  .frame rfl rfl (fun _ => rfl) rfl rfl rfl

theorem Heeds.activateOne (s : State) (id : Client × Pin) : Heeds T s (s.activateOne id) := fun h => by
  unfold State.activateOne
  split
  · exact Heeds.refl s h
  · next q hq =>
    obtain ⟨hm, hc, -⟩ := State.claimAt_mem hq
    have hT : T id.1 := hc ▸ h.claims q hm
    have set : Heeds T s (s.setClaim q.activated) := .setClaim s (h.claims q hm)
    dsimp only
    split
    · exact set.trans (.enterList _ hT _) h
    · exact set h

theorem Heeds.activate (s : State) (k : Chan) : Heeds T s (s.activate k) := by
  have start : Heeds T s (s.setWaitList k []) := .frame rfl rfl (fun _ => rfl) rfl rfl rfl
  exact (start.trans (Heeds.foldl (fun t id _ => .activateOne t id) _)).trans (.noteTops _ _ _)

theorem Heeds.boundaryCommit (s : State) (k : Chan) : Heeds T s (s.boundaryCommit k) := by
  unfold State.boundaryCommit
  split
  · exact .refl s
  · refine Heeds.trans ?_ (.noteOwner _ _ _)
    exact .setChannel s k rfl

theorem Channel.handChain_owner (ch : Channel) (k : Chan) : (ch.handChain k).owner = ch.owner := by
  unfold Channel.handChain; split <;> rfl

theorem Heeds.handBoundary (s : State) (k : Chan) : Heeds T s (s.handBoundary k) :=
  .frame (by simp) (by simp) (fun j => by rw [State.channel_handBoundary, Channel.handChain_owner]) (by simp) (by simp)
    (by simp)

theorem Heeds.boundaryMode (s : State) (k : Chan) : Heeds T s (s.boundaryMode k) := by
  unfold State.boundaryMode
  dsimp only
  split
  · refine Heeds.trans ?_ (.handBoundary _ _)
    exact .setChannel s k rfl
  · refine Heeds.trans ?_ (.handBoundary _ _)
    exact .setChannel s k rfl
  · refine Heeds.trans (Heeds.trans ?_ (.noteSource _ _ _)) (.handBoundary _ _)
    exact .setChannel s k rfl

theorem Heeds.boundaryTerminal (s : State) (k : Chan) : Heeds T s (s.boundaryTerminal k) := by
  unfold State.boundaryTerminal
  split
  · exact .noteOwner _ _ _
  · exact .refl s

theorem Heeds.boundary (s : State) (k : Chan) : Heeds T s (s.boundary k) := by
  have done : Heeds T s (s.boundaryDone k) :=
    (((Heeds.boundaryCommit s k).trans (.activate _ k)).trans (.boundaryMode _ k)).trans (.boundaryTerminal _ k)
  exact (done.trans (.settleRefs _)).trans (.resolvePads _)

theorem Heeds.takeInput (s : State) (k : Chan) : Heeds T s (s.takeInput k) := by
  obtain e | e | e := s.takeInput_cases k <;> rw [e]
  · exact .setChannel s k rfl
  · refine Heeds.trans ?_ (.resolvePads _)
    exact .setChannel s k rfl
  · refine Heeds.trans ?_ (.boundary _ k)
    exact .setChannel s k rfl

theorem Heeds.startChans (s : State) (ks : List Chan) (x : Option Client) : Heeds T s (s.startChans ks x) := by
  have start : Heeds T s (s.mapChannels fun k ch => if ks.contains k then ch.start else ch) :=
    .frame (by simp) (by simp) (fun j => by
      rw [State.channel_mapChannels]
      split
      · rw [Channel.start_eq_fresh]; rfl
      · rfl) (by simp) (by simp) (by simp)
  exact (start.trans (Heeds.foldl (fun t k _ => .noteSource t k x) _)).trans (.resolvePads _)

theorem Channel.handEdge_owner (ch : Channel) (p : Pin) (e : Edge) : (ch.handEdge p e).owner = ch.owner := by
  unfold Channel.handEdge
  (repeat' split) <;> rfl

theorem State.Knows.watchers (h : s.Knows T) {p : Pin} {e : Edge} {c : Client} (hc : c ∈ s.watchers p e) : T c := by
  obtain ⟨w, hw, rfl⟩ := List.mem_map.mp hc
  exact h.watches w (List.mem_of_mem_filter hw)

theorem Heeds.handEdge (s : State) (p : Pin) (e : Edge) : Heeds T s (s.mapChannels fun _ ch => ch.handEdge p e) :=
  .frame (by simp) (by simp) (fun k => by rw [State.channel_mapChannels, Channel.handEdge_owner]) (by simp) (by simp)
    (by simp)

theorem Heeds.takeEdge (s : State) (p : Pin) : Heeds T s (s.takeEdge p) := fun h => by
  unfold State.takeEdge
  dsimp only
  have set : ∀ v : Pad, Heeds T s (s.setPad p v) := fun v => .frame rfl rfl (fun _ => rfl) rfl rfl rfl
  exact ((set _).trans ((Heeds.placeAll _ (fun c hc => h.watchers hc) _).trans (.handEdge _ p _))) h

theorem Heeds.beginEdge (s : State) (p : Pin) : Heeds T s (s.beginEdge p) :=
  .frame (by simp) (by simp) (fun k => by rw [State.channel_beginEdge, State.channel_takeEdge, Channel.handEdge_owner])
    (by simp) (by simp) (by simp)

theorem Heeds.endEdge (s : State) : Heeds T s s.endEdge := fun h => by
  unfold State.endEdge
  split
  · exact Heeds.refl s h
  · have clear : Heeds T s { s with edgeOwed := none } := .frame rfl rfl (fun _ => rfl) rfl rfl rfl
    exact clear.trans (.placeAll _ (fun c hc => h.watchers hc) _) h

theorem Heeds.letGo (s : State) (k : Chan) (c : Client) : Heeds T s (s.letGo k c) := by
  have set : Heeds T s (s.setChannel k (s.channel k).letGo) := fun h =>
    ⟨h.mono (fun q hm => ⟨q, hm, rfl⟩) (fun p => List.Subset.refl _) (fun j d e => by
      rw [State.channel_setChannel] at e
      split at e
      · cases e
      · exact e) fun w hm => ⟨w, hm, rfl⟩, .of_same rfl rfl⟩
  unfold State.letGo
  dsimp only
  split
  · exact set.trans (.settleRefs _)
  · exact (set.trans (.settleRefs _)).trans (.noteSource _ _ _)

theorem Heeds.tearClaims (s : State) (c : Client) : Heeds T s (s.tearClaims c) :=
  (Heeds.trans (.dropClaims s fun c' _ => c' = c) (.settleRefs _)).trans (.noteTops _ _ _)

theorem Heeds.tearWatches (s : State) (c : Client) : Heeds T s (s.tearWatches c) := by
  have drop : Heeds T s { s with watches := s.watches.filter fun w => w.client ≠ c } := fun h =>
    ⟨h.mono (fun q hm => ⟨q, hm, rfl⟩) (fun p => List.Subset.refl _) (fun _ _ e => e)
      fun w hm => ⟨w, List.mem_of_mem_filter hm, rfl⟩, .of_same rfl rfl⟩
  exact drop.trans (.recount _)

theorem Heeds.tearChannels (s : State) (c : Client) : Heeds T s (s.tearChannels c) := by
  unfold State.tearChannels
  refine Heeds.foldl (fun t k _ => ?_) s
  split
  · exact .letGo t k c
  · exact .refl t

/-- A teardown up to its purge tells the clients it finds (R131). -/
theorem Heeds.torn (s : State) (c : Client) : Heeds T s (s.torn c) :=
  ((Heeds.tearClaims s c).trans (.tearWatches _ c)).trans (.tearChannels _ c)

theorem Heeds.tickComes (s : State) : Heeds T s s.tickComes := fun h =>
  ⟨h.mono (fun q hm => by
    rw [State.claims_tickComes, List.mem_map] at hm
    obtain ⟨r, hr, rfl⟩ := hm
    refine ⟨r, hr, ?_⟩
    split
    · rfl
    · exact r.tick_fields.1.symm) (fun p => by simp) (fun k c e => by simpa using e)
    (fun w hm => ⟨w, by simpa using hm, rfl⟩),
    .of_same (by simp) (by simp)⟩

theorem Heeds.claimsChanged (s v : State) (x : Option Client) (h : Heeds T s v) : Heeds T s (s.claimsChanged x v) :=
  (((h.trans (.noteTops s x v)).trans (.settleRefs _)).trans (.resolvePads _))

theorem Heeds.expireHold (s : State) {c : Client} {p : Pin} (due : s.holdDue c p = true) :
    Heeds T s (s.expireHold c p) := fun h => by
  obtain ⟨q, hq, -⟩ := (Option.any_eq_true ..).mp due
  obtain ⟨hm, hc, -⟩ := State.claimAt_mem hq
  exact Heeds.trans (.claimsChanged s _ none (.dropClaims s _)) (.place _ (hc ▸ h.claims q hm) _) h

theorem Heeds.writePolicy (s : State) (p : Pin) (e : Policy) : Heeds T s (s.writePolicy p e) := by
  have edge : Heeds T s (if (s.pad p).tickDue = true then s.takeEdge p else s) := by
    split
    · exact .takeEdge s p
    · exact .refl s
  have set : ∀ u : State, ∀ v : Pad, Heeds T u ((u.setPolicy p e).setPad p v) := fun u v =>
    .frame rfl rfl (fun _ => rfl) rfl rfl rfl
  exact (edge.trans (set _ _)).trans (.resolvePads _)

/-- A channel that comes to be owned by a client in `T`. -/
theorem Heeds.own (s : State) (k : Chan) {ch : Channel} {c : Client} (ho : ch.owner = some c) (hc : T c) :
    Heeds T s (s.setChannel k ch) := fun h =>
  ⟨{ claims := h.claims, lists := h.lists, watches := h.watches
     owners := fun j d e => by
       rw [State.channel_setChannel] at e
       split at e
       · rw [ho] at e; cases e; exact hc
       · exact h.owners j d e }, .of_same rfl rfl⟩

end

end Sys2Proof.Machine
end

section
/-! PROOFS. The sessions (R120, R123, R125 to R127): what each event and each effect makes of them. -/

namespace Sys2Proof.Machine

open Sys2Proof

/-! ## A session but for its counts -/

/-- A session entry without its three counts. -/
def Session.core (e : Session) : Session := { e with claimsHeld := 0, watchesHeld := 0, channelsOwned := 0 }

theorem Session.ok_core {e : Session} : e.core.Ok ↔ e.Ok := Iff.rfl

theorem Session.core_state (e : Session) : e.core.state = e.state := rfl

/-- Every session is as it was but for its counts. -/
def SameCore (s t : State) : Prop := ∀ c : Client, (t.session c).core = (s.session c).core

section
variable {s t u : State}

theorem SameCore.refl (s : State) : SameCore s s := fun _ => rfl

theorem SameCore.trans (a : SameCore s t) (b : SameCore t u) : SameCore s u := fun c => (b c).trans (a c)

theorem SameCore.of_same (h : t.sessions = s.sessions) : SameCore s t := fun c => by rw [State.session_congr h]

theorem SameCore.sessionsOk (h : SameCore s t) (hs : s.SessionsOk) : t.SessionsOk := fun c => by
  rw [← Session.ok_core, h c, Session.ok_core]; exact hs c

theorem SameCore.state (h : SameCore s t) (c : Client) : (t.session c).state = (s.session c).state := by
  rw [← Session.core_state, h c, Session.core_state]

theorem SameCore.recount (s : State) : SameCore s s.recount := fun c => by rw [State.session_recount]; rfl

theorem SameCore.settleRefs (s : State) : SameCore s s.settleRefs := fun c => by rw [State.session_settleRefs]; rfl

/-- An event that ends with the settling of references, and another that changes no session. -/
theorem SameCore.settled (ht : t.sessions = s.sessions) (hu : u.sessions = t.settleRefs.sessions) : SameCore s u :=
  (SameCore.of_same ht).trans ((SameCore.settleRefs t).trans (.of_same hu))

theorem SameCore.counted (ht : t.sessions = s.sessions) (hu : u.sessions = t.recount.sessions) : SameCore s u :=
  (SameCore.of_same ht).trans ((SameCore.recount t).trans (.of_same hu))

theorem State.sessions_boundaryDone (s : State) (k : Chan) : (s.boundaryDone k).sessions = s.sessions := by
  simp [State.boundaryDone]

theorem SameCore.takeInput (s : State) (k : Chan) : SameCore s (s.takeInput k) := by
  obtain e | e | e := s.takeInput_cases k <;> rw [e]
  · exact .of_same (by simp)
  · exact .of_same (by simp)
  · rw [State.boundary_eq]
    refine .settled (t := (s.setChannel k (s.channel k).taken.ended).boundaryDone k) ?_ (by simp)
    rw [State.sessions_boundaryDone, State.setChannel_sessions]

theorem SameCore.letGo (s : State) (k : Chan) (c : Client) : SameCore s (s.letGo k c) := by
  unfold State.letGo
  dsimp only
  refine .settled (t := s.setChannel k (s.channel k).letGo) (by simp) ?_
  split
  · rfl
  · simp

theorem SameCore.torn (s : State) (c : Client) : SameCore s (s.torn c) := by
  have claims : SameCore s (s.tearClaims c) :=
    .settled (t := s.dropClaims fun c' _ => c' = c) (by simp) (State.noteTops_sessions ..)
  have watches : SameCore (s.tearClaims c) ((s.tearClaims c).tearWatches c) :=
    .counted (t := { s.tearClaims c with watches := (s.tearClaims c).watches.filter fun w => w.client ≠ c }) rfl rfl
  have channels : SameCore ((s.tearClaims c).tearWatches c) (s.torn c) := by
    unfold State.torn State.tearChannels
    refine foldl_inv (P := fun t => SameCore ((s.tearClaims c).tearWatches c) t) (fun t k _ ht => ?_) (.refl _)
    split
    · exact ht.trans (.letGo t k c)
    · exact ht
  exact (claims.trans watches).trans channels

theorem State.session_teardown_ne (s : State) {c d : Client} (hd : d ≠ c) (cause : EndCause) :
    (s.teardown c cause).session d = (s.torn c).session d := by
  rw [State.teardown_eq, State.resolvePads_session, State.session_setSession, if_neg (Ne.symm hd), State.purge_session]

theorem State.session_teardown_self_eq (s : State) (c : Client) (cause : EndCause) :
    (s.teardown c cause).session c = ((s.torn c).session c).ended cause := by
  rw [State.teardown_eq, State.resolvePads_session, State.session_setSession, if_pos rfl]

theorem State.sessions_claimsChanged (s v : State) (x : Option Client) (h : v.sessions = s.sessions) :
    SameCore s (s.claimsChanged x v) :=
  .settled (t := State.noteTops s x v) ((State.noteTops_sessions ..).trans h) (State.resolvePads_sessions _)

end

/-! ## Session entries -/

theorem Session.atReset_ok : Session.atReset.Ok := by decide

theorem Session.ended_ok (e : Session) (cause : EndCause) : (e.ended cause).Ok := by
  simp [Session.Ok, Session.ended]

/-- A session in force has a lease of at least one unit (R120). -/
theorem Session.Ok.lease_pos {e : Session} (h : e.Ok) (hs : e.state ≠ .closed) :
    1 ≤ (e.lease.getD 0).toNat * Config.leaseUnit := by
  obtain ⟨-, hopen, hgrace, hl, hg, -⟩ := h
  cases he : e.state with
  | closed => exact absurd he hs
  | opened =>
    obtain ⟨n, hn⟩ := Option.isSome_iff_exists.mp (hopen.mpr he)
    exact (hl n hn).1.trans (hl n hn).2
  | grace =>
    obtain ⟨n, hn⟩ := Option.isSome_iff_exists.mp (hgrace.mpr he)
    exact (hg n hn).1.trans (hg n hn).2

theorem Session.Ok.renewed {e : Session} (h : e.Ok) : e.renewed.Ok := by
  by_cases hc : e.state = .closed
  · rw [Session.renewed_closed hc]; exact h
  · have pos := h.lease_pos hc
    rw [Session.renewed_open hc]
    refine ⟨by simpa [hc] using h.1, by simp, by simp, ?_, by simp, by simp⟩
    intro n hn
    obtain rfl := Option.some.inj hn
    exact ⟨pos, le_refl _⟩

theorem Session.openWith_ok (e : Session) {lease : Byte} (h : lease ≠ 0) : (e.openWith lease).Ok := by
  have pos : 1 ≤ lease.toNat := by
    have : lease.toNat ≠ 0 := fun h0 => h (BitVec.eq_of_toNat_eq h0)
    omega
  refine ⟨by simp [Session.openWith], by simp [Session.openWith], by simp [Session.openWith], ?_,
    by simp [Session.openWith], by simp [Session.openWith]⟩
  intro n hn
  obtain rfl := Option.some.inj hn
  refine ⟨?_, le_refl _⟩
  have : 1 ≤ Config.leaseUnit := by decide
  exact Nat.mul_pos pos this

theorem Session.Ok.toGrace {e : Session} (h : e.Ok) (hs : e.state = .opened) : e.toGrace.Ok := by
  have hc : e.state ≠ .closed := by simp [hs]
  have pos := h.lease_pos hc
  refine ⟨by simpa [Session.toGrace, hc] using h.1, by simp [Session.toGrace], by simp [Session.toGrace],
    by simp [Session.toGrace], ?_, by simp [Session.toGrace]⟩
  intro n hn
  obtain rfl := Option.some.inj hn
  exact ⟨pos, le_refl _⟩

theorem Session.Ok.tick {e : Session} (h : e.Ok) : e.tick.Ok := by
  rw [Session.tick_eq h]
  obtain ⟨state, lease, left, grace, prior, claims, watches, channels, due⟩ := e
  obtain ⟨hlease, hopen, hgrace, hl, hg, hd⟩ := h
  dsimp only at *
  split
  · next n =>
    have none : grace = none := by simpa using hgrace
    have bounds := hl n rfl
    split
    · next h1 => exact ⟨hlease, hopen, hgrace, hl, hg, fun _ => .inl (by rw [h1])⟩
    · next h1 =>
      refine ⟨hlease, by simp, hgrace, fun m hm => ?_, hg, fun hdue => ?_⟩
      · cases hm; dsimp only; omega
      · have := hd hdue; simp_all
  · next n =>
    have none : left = none := by simpa using hopen
    have bounds := hg n rfl
    split
    · next h1 => exact ⟨hlease, hopen, hgrace, hl, hg, fun _ => .inr (by rw [h1])⟩
    · next h1 =>
      refine ⟨hlease, hopen, by simp, hl, fun m hm => ?_, fun hdue => ?_⟩
      · cases hm; dsimp only; omega
      · have := hd hdue; simp_all
  · exact ⟨hlease, hopen, hgrace, hl, hg, hd⟩

theorem Session.tick_state (e : Session) : e.tick.state = e.state := by
  unfold Session.tick
  (repeat' split) <;> simp_all

/-! ## Every event and every effect -/

section
variable {s t : State}

theorem State.session_reset (s : State) (cause : ResetCause) (por nrstLow : Bool) (c : Client) :
    ({ s.deviceReset cause with por := por, nrstLow := nrstLow } : State).session c = Session.atReset :=
  State.deviceReset_session s cause c

/-- A session at an event: as it was but for its counts, or counted down, or gone to GRACE, or closed. -/
theorem Event.sessions (e : Event s t) : SameCore s t ∨ (∀ c, t.session c = (s.session c).tick) ∨
    (∃ c, s.leaseDue c = true ∧ ∀ d, t.session d = if c = d then (s.session c).toGrace else s.session d) ∨
    (∃ c, s.graceDue c = true ∧ t = s.teardown c .lapsed) ∨
    ∃ cause por nrstLow, t = { s.deviceReset cause with por := por, nrstLow := nrstLow } := by
  cases e with
  | input k => exact .inl (.takeInput s k)
  | tick =>
    by_cases hr : s.inReset = true
    · exact .inl fun c => by rw [State.session_tickComes, if_pos hr]
    · exact .inr (.inl fun c => by rw [State.session_tickComes, if_neg hr])
  | hold c p =>
    rw [State.expireHold_eq]
    exact .inl (.trans (State.sessions_claimsChanged s (s.without c p) none rfl) (.of_same (State.place_sessions ..)))
  | lease c due =>
    refine .inr (.inr (.inl ⟨c, due, fun d => ?_⟩))
    rw [State.expireLease, State.place_session, State.session_setSession]
  | grace c due => exact .inr (.inr (.inr (.inl ⟨c, due, rfl⟩)))
  | reset cause por nrstLow => exact .inr (.inr (.inr (.inr ⟨cause, por, nrstLow, rfl⟩)))
  | resetLasts => exact .inl (.of_same rfl)
  | resetEnds => exact .inl (.of_same (State.firstSamples_sessions _))
  | _ => exact .inl (.of_same (by simp))

/-- A session at an effect: as it was but for its counts, or opened, or closed. -/
theorem Effect.sessions {c : Client} (e : Effect c s t) : SameCore s t ∨
    (∃ lease : Byte, lease ≠ 0 ∧ (s.session c).state = .closed ∧
      t = s.setSession c ((s.session c).openWith lease)) ∨
    t = s.teardown c .closed ∨ t = (s.deviceReset .resetCommand).firstSamples := by
  cases e with
  | opens lease closed pos => exact .inr (.inl ⟨lease, pos, closed, rfl⟩)
  | closes => exact .inr (.inr (.inl rfl))
  | resets => exact .inr (.inr (.inr rfl))
  | claimsLive a =>
    exact .inl (.counted (t := State.noteTops s (some c) (s.entered c a)) (by simp [State.entered]; rfl)
      (State.resolvePads_sessions _))
  | claimsPending a k =>
    exact .inl (.counted (t := (s.addClaim (newClaim c a (some k))).enterWait c a.pin k) rfl rfl)
  | modifiesNow q a =>
    refine .inl (State.sessions_claimsChanged s (s.modifiedPool c q a) (some c) ?_)
    unfold State.modifiedPool
    dsimp only
    split <;> rfl
  | modifiesLater q a k =>
    exact .inl (.settled (t := (s.setClaim (q.deferred a k)).enterWait c q.pin k) rfl (by rw [State.modifyLater_eq]))
  | releases p q => exact .inl (State.sessions_claimsChanged s (s.without c p) (some c) rfl)
  | binds k =>
    exact .inl (.counted (t := s.setChannel k { s.channel k with state := .stopped, owner := some c }) rfl rfl)
  | configures k r =>
    exact .inl (.settled (t := s.setChannel k { s.channel k with settings := r, staging := none }) rfl rfl)
  | stops k =>
    refine .inl (.settled (t := ((s.stopped k).activate k).noteSource k (some c)) ?_ (State.resolvePads_sessions _))
    rw [State.noteSource_sessions, State.activate_sessions]
    unfold State.stopped
    dsimp only
    split <;> simp
  | releasesChannel k => exact .inl (.letGo s k c)
  | adopts k =>
    exact .inl (.counted (t := s.setChannel k { s.channel k with owner := some c }) rfl (State.noteSource_sessions ..))
  | addsWatch w => exact .inl (.counted (t := { s with watches := s.watches ++ [w] }) rfl rfl)
  | dropsWatch p =>
    exact .inl (.counted (t := { s with watches := s.watches.filter fun w => !(w.client = c && w.pin = p) }) rfl rfl)
  | _ => exact .inl (.of_same (by simp))

/-- Whoever is in session stays so, but where a session is torn down or the part is reset. -/
theorem Event.inSession (e : Event s t) : (∀ c, s.InSession c → t.InSession c) ∨
    (∃ c, s.graceDue c = true ∧ t = s.teardown c .lapsed) ∨
    ∃ cause por nrstLow, t = { s.deviceReset cause with por := por, nrstLow := nrstLow } := by
  obtain e | e | ⟨c, -, e⟩ | e | e := e.sessions
  · exact .inl fun c h => by rw [State.InSession, e.state]; exact h
  · exact .inl fun c h => by rw [State.InSession, e, Session.tick_state]; exact h
  · refine .inl fun d h => ?_
    rw [State.InSession, e]
    split
    · simp [Session.toGrace]
    · exact h
  · exact .inr (.inl e)
  · exact .inr (.inr e)

theorem Effect.inSession {c : Client} (e : Effect c s t) : (∀ d, s.InSession d → t.InSession d) ∨
    t = s.teardown c .closed ∨ t = (s.deviceReset .resetCommand).firstSamples := by
  obtain e | ⟨lease, -, -, rfl⟩ | e | e := e.sessions
  · exact .inl fun c h => by rw [State.InSession, e.state]; exact h
  · refine .inl fun d h => ?_
    rw [State.InSession, State.session_setSession]
    split
    · simp [Session.openWith]
    · exact h
  · exact .inr (.inl e)
  · exact .inr (.inr e)

theorem State.sessionsOk_teardown (h : s.SessionsOk) (c : Client) (cause : EndCause) :
    (s.teardown c cause).SessionsOk := fun d => by
  by_cases hd : d = c
  · subst hd
    rw [State.session_teardown_self_eq]
    exact Session.ended_ok ..
  · rw [State.session_teardown_ne s hd]
    exact (SameCore.torn s c).sessionsOk h d

theorem Event.sessionsOk (e : Event s t) (h : s.SessionsOk) : t.SessionsOk := by
  obtain e | e | ⟨c, hd, e⟩ | ⟨c, -, rfl⟩ | ⟨cause, por, nrstLow, rfl⟩ := e.sessions
  · exact e.sessionsOk h
  · exact fun c => by rw [e]; exact (h c).tick
  · refine fun d => ?_
    rw [e]
    split
    · simp only [State.leaseDue, Bool.and_eq_true, decide_eq_true_eq] at hd
      exact (h c).toGrace hd.1
    · exact h d
  · exact State.sessionsOk_teardown h c _
  · exact fun c => by rw [State.session_reset]; exact Session.atReset_ok

theorem Effect.sessionsOk {c : Client} (e : Effect c s t) (h : s.SessionsOk) : t.SessionsOk := by
  obtain e | ⟨lease, pos, -, rfl⟩ | rfl | rfl := e.sessions
  · exact e.sessionsOk h
  · intro d
    rw [State.session_setSession]
    split
    · exact Session.openWith_ok _ pos
    · exact h d
  · exact State.sessionsOk_teardown h c _
  · intro d
    rw [State.firstSamples_session, State.deviceReset_session]
    exact Session.atReset_ok

theorem State.SessionsOk.taken (h : s.SessionsOk) (c : Client) : (s.taken c).SessionsOk := fun d => by
  rw [State.session_taken]
  split
  · exact (h c).renewed
  · exact h d

end

end Sys2Proof.Machine
end

section
/-! PROOFS. Ports and queues (R140 to R145, R155, R157, R165): every event and every effect keeps each of them. -/

namespace Sys2Proof.Machine

open Sys2Proof

/-- A port and its queue: each by its own laws, and the attention line that tells of both. -/
structure Linked (q : Port) (n : Queue) : Prop where
  queue : n.Ok
  port : q.Ok
  line : q.attention = (q.state = .answered || !n.entries.isEmpty)

/-- Every port and every queue by their laws. -/
abbrev State.LinksOk (s : State) : Prop := ∀ c : Client, Linked (s.port c) (s.queue c)

theorem State.linksOk_iff {s : State} : s.LinksOk ↔ s.QueuesOk ∧ s.PortsOk ∧ s.AttentionOk :=
  ⟨fun h => ⟨fun c => (h c).queue, fun c => (h c).port, fun c => (h c).line⟩,
    fun ⟨hq, hp, ha⟩ c => ⟨hq c, hp c, ha c⟩⟩

section
variable {s t : State} {q v : Port} {n : Queue}

/-- A port whose slot and line are as they were. -/
theorem Linked.moved (h : Linked q n) (hs : v.state = q.state) (hh : v.held = q.held) (hr : v.reply = q.reply)
    (ha : v.attention = q.attention) (rx : v.transaction = .receive → q.state = .ready)
    (tx : v.txReply = true → v.transaction = .send ∧ q.state = .answered) : Linked v n := by
  obtain ⟨held, reply, -, -⟩ := h.port
  refine ⟨h.queue, ⟨?_, ?_, fun e => hs ▸ rx e, fun e => hs ▸ tx e⟩, ?_⟩
  · rw [hh, hs]; exact held
  · rw [hr, hs]; exact reply
  · rw [ha, hs]; exact h.line

/-- A port that is not being READ sends no reply. -/
theorem Linked.not_txReply (h : Linked q n) (ht : q.transaction ≠ .send) : q.txReply = false := by
  obtain ⟨-, -, -, tx⟩ := h.port
  exact Bool.eq_false_iff.mpr fun e => ht (tx e).1

theorem State.LinksOk.setPort (h : s.LinksOk) {c : Client} (hv : Linked v (s.queue c)) : (s.setPort c v).LinksOk :=
  fun d => by
    rw [State.port_setPort, State.queue_setPort]
    split
    · next e => exact e ▸ hv
    · exact h d

theorem State.LinksOk.notified {T : Client → Prop} (h : s.LinksOk) (e : Notified T s t) : t.LinksOk := by
  obtain ⟨hq, hp, ha⟩ := State.linksOk_iff.mp h
  exact State.linksOk_iff.mpr ⟨e.queuesOk hq, e.portsOk hp, e.attentionOk ha⟩

theorem State.LinksOk.of_same (h : s.LinksOk) (hp : t.ports = s.ports) (hq : t.queues = s.queues) : t.LinksOk :=
  fun c => by rw [State.port_congr hp, State.queue_congr hq]; exact h c

theorem State.LinksOk.heeds (h : s.LinksOk) (e : Heeds (fun _ => True) s t) : t.LinksOk :=
  h.notified (e ⟨fun _ _ => trivial, fun _ _ _ => trivial, fun _ _ _ => trivial, fun _ _ => trivial⟩).2

/-- A line that is made to follow a lawful queue. -/
theorem State.LinksOk.sync {c : Client} (h : ∀ d ≠ c, Linked (s.port d) (s.queue d)) (hq : (s.queue c).Ok)
    (hp : (s.port c).Ok) : (s.syncAttention c).LinksOk := fun d => by
  unfold State.syncAttention
  rw [State.port_setPort, State.queue_setPort]
  split
  · next e => subst e; exact ⟨hq, hp, rfl⟩
  · next e => exact h d (Ne.symm e)

theorem State.LinksOk.setQueue (h : s.LinksOk) {c : Client} (hn : n.Ok) : ((s.setQueue c n).syncAttention c).LinksOk :=
  .sync (fun d hd => by
    rw [State.queue_setQueue, if_neg (Ne.symm hd), State.port_setQueue]; exact h d)
    (by rw [State.queue_setQueue, if_pos rfl]; exact hn) (by rw [State.port_setQueue]; exact (h c).port)

/-! ## The bus (R156 to R163) -/

theorem State.LinksOk.busSelect (h : s.LinksOk) (c : Client) : (s.busSelect c).LinksOk := by
  unfold State.busSelect
  dsimp only
  split
  · refine h.setPort ((h c).moved rfl rfl rfl rfl (fun e => ?_) (fun e => absurd e (by simp)))
    dsimp only at e
    split at e <;> cases e
  · exact h

theorem State.LinksOk.busKind (h : s.LinksOk) {c : Client} (hk : (s.port c).transaction = .kind) (b : Byte) :
    (s.busKind c b).LinksOk := by
  have quiet : (s.port c).txReply = false := (h c).not_txReply (by simp [hk])
  unfold State.busKind
  dsimp only
  split_ifs with hw hr hread
  · exact h.setPort ((h c).moved rfl rfl rfl rfl (fun _ => hr) (by simp [quiet]))
  · exact h.setPort ((h c).moved rfl rfl rfl rfl (by simp) (by simp [quiet]))
  · exact h.setPort ((h c).moved rfl rfl rfl rfl (by simp) (by simp))
  · exact h.setPort ((h c).moved rfl rfl rfl rfl (by simp) (by simp [quiet]))

theorem State.LinksOk.busByte (h : s.LinksOk) (c : Client) (b : Byte) : (s.busByte c b).LinksOk := by
  obtain ⟨-, -, rx, tx⟩ := (h c).port
  unfold State.busByte
  dsimp only
  split
  · next hk => exact h.busKind hk b
  · exact h.setPort ((h c).moved rfl rfl rfl rfl rx tx)
  · exact h.setPort ((h c).moved rfl rfl rfl rfl rx tx)
  · exact h.setPort ((h c).moved rfl rfl rfl rfl rx tx)
  · exact h

/-- A reply enters the slot of a port that holds none and receives no frame. -/
theorem State.LinksOk.answer (h : s.LinksOk) {c : Client} (hs : (s.port c).state ≠ .answered)
    (hr : (s.port c).transaction ≠ .receive) (tag : Byte) (st : Status) (pl : List Byte) :
    (s.answer c tag st pl).LinksOk := by
  obtain ⟨-, -, -, tx⟩ := (h c).port
  exact h.setPort ⟨(h c).queue, ⟨by simp, by simp, fun e => absurd e hr, fun e => absurd (tx e).2 hs⟩, by simp⟩

theorem State.LinksOk.endWrite (h : s.LinksOk) {c : Client} (ht : (s.port c).transaction = .receive) :
    (s.endWrite c).LinksOk := by
  obtain ⟨held, reply, rx, -⟩ := (h c).port
  have ready := rx ht
  have quiet : (s.port c).txReply = false := (h c).not_txReply (by simp [ht])
  have line := (h c).line
  unfold State.endWrite
  split
  · refine h.setPort ⟨(h c).queue, ⟨by simp, ?_, by simp, by simp [quiet]⟩, ?_⟩
    · simpa [ready] using reply
    · simpa [ready] using line
  · rw [State.answer, State.port_setPort_self, State.setPort_setPort]
    exact h.setPort ⟨(h c).queue, ⟨by simp, by simp, by simp, by simp [quiet]⟩, by simp⟩

theorem State.LinksOk.endRead (h : s.LinksOk) (c : Client) : (s.endRead c).LinksOk := by
  obtain ⟨held, -, -, tx⟩ := (h c).port
  unfold State.endRead
  dsimp only
  split
  · next hc =>
    have answered := (tx (Bool.and_eq_true_iff.mp hc).1).2
    refine .sync (fun d hd => by rw [State.port_setPort, if_neg (Ne.symm hd)]; exact h d) (h c).queue ?_
    rw [State.port_setPort_self]
    refine ⟨?_, by simp, by simp, by simp⟩
    simpa [answered] using held
  · exact h.setPort ((h c).moved rfl rfl rfl rfl (by simp) (by simp))

theorem State.LinksOk.busDeselect (h : s.LinksOk) (c : Client) : (s.busDeselect c).LinksOk := by
  unfold State.busDeselect
  have drop (ht : (s.port c).transaction ≠ .send) : (s.setPort c { s.port c with transaction := .none }).LinksOk :=
    h.setPort ((h c).moved rfl rfl rfl rfl (by simp) (by simp [(h c).not_txReply ht]))
  split
  · next ht => exact h.endWrite ht
  · exact h.endRead c
  · next ht => exact drop (by simp [ht])
  · next ht => exact drop (by simp [ht])
  · exact h

theorem State.LinksOk.bus (h : s.LinksOk) (c : Client) (kind : Byte) (part : BusPart) : (s.bus c kind part).LinksOk := by
  cases part with
  | select => exact h.busSelect c
  | kind => exact h.busByte c kind
  | byte b => exact h.busByte c b
  | deselect => exact h.busDeselect c
  | whole bytes =>
    unfold State.bus State.busWhole
    dsimp only
    split
    · exact (foldl_inv (P := State.LinksOk) (fun t b _ ht => ht.busByte c b) (h.busSelect c)).busDeselect c
    · exact h

/-! ## Teardown and reset -/

theorem State.LinksOk.teardown (h : s.LinksOk) (c : Client) (cause : EndCause) : (s.teardown c cause).LinksOk := by
  rw [State.teardown_eq]
  have purged : ((s.torn c).purge c).LinksOk := (h.heeds (.torn s c)).setQueue Queue.empty_ok
  exact purged.of_same (by simp) (by simp)

theorem State.deviceReset_linksOk (s : State) (cause : ResetCause) : (s.deviceReset cause).LinksOk := fun c => by
  rw [State.deviceReset_port, State.deviceReset_queue]
  refine ⟨Queue.empty_ok, ⟨?_, ?_, fun e => ?_, ?_⟩, rfl⟩
  · simp [Port.cut, Port.atReset]
  · simp [Port.cut, Port.atReset]
  · unfold Port.cut at e
    dsimp only at e
    split at e <;> cases e
  · simp [Port.cut, Port.atReset]

/-! ## Every event and every effect -/

/-- The watch pool changed, by watches of clients in `T`. -/
theorem Heeds.watches {T : Client → Prop} {l : List Watch} (ht : t = { s with watches := l })
    (h : ∀ w ∈ l, T w.client ∨ w ∈ s.watches) : Heeds T s t := fun k => by
  subst ht
  exact ⟨{ claims := k.claims, lists := k.lists, owners := k.owners
           watches := fun w hw => (h w hw).elim id (k.watches w) }, .of_same rfl rfl⟩

/-- An event tells whom the tables know, and the client whose lease is due; else it is a teardown, a part of a
transaction or a reset. -/
theorem Event.heeds (e : Event s t) : (∀ T : Client → Prop, (∀ c, s.leaseDue c = true → T c) → Heeds T s t) ∨
    (∃ c, s.graceDue c = true ∧ t = s.teardown c .lapsed) ∨ (∃ c kind part, t = s.bus c kind part) ∨
    ∃ cause por nrstLow, t = { s.deviceReset cause with por := por, nrstLow := nrstLow } := by
  cases e with
  | edge p => exact .inl fun T _ => .takeEdge s p
  | edgeBegins p => exact .inl fun T _ => .beginEdge s p
  | edgeEnds => exact .inl fun T _ => .endEdge s
  | input k => exact .inl fun T _ => .takeInput s k
  | trigger k => exact .inl fun T _ => .startChans s [k] none
  | board p b => exact .inl fun T _ => .frame rfl rfl (fun _ => rfl) rfl rfl rfl
  | tick => exact .inl fun T _ => .tickComes s
  | hold c p due => exact .inl fun T _ => .expireHold s due
  | lease c due =>
    refine .inl fun T hT => Heeds.trans ?_ (.place _ (hT c due) .leaseWarning)
    exact .frame rfl rfl (fun _ => rfl) rfl rfl rfl
  | grace c due => exact .inr (.inl ⟨c, due, rfl⟩)
  | bus c kind part => exact .inr (.inr (.inl ⟨c, kind, part, rfl⟩))
  | reset cause por nrstLow => exact .inr (.inr (.inr ⟨cause, por, nrstLow, rfl⟩))
  | resetLasts => exact .inl fun T _ => .frame rfl rfl (fun _ => rfl) rfl rfl rfl
  | resetEnds => exact .inl fun T _ => .frame (by simp) (by simp) (by simp; intros; rfl) (by simp) (by simp) (by simp)

/-- An effect tells whom the tables know, and its client where it is in session; else it is a teardown, a reset or a
FETCH. -/
theorem Effect.heeds {c : Client} (e : Effect c s t) : (∀ T : Client → Prop, (s.InSession c → T c) → Heeds T s t) ∨
    t = s.teardown c .closed ∨ t = (s.deviceReset .resetCommand).firstSamples ∨
    ∃ n, s.InSession c ∧ 1 ≤ n ∧ t = (s.setQueue c ((s.queue c).fetch n)).syncAttention c := by
  cases e with
  | unchanged => exact .inl fun T _ => .refl s
  | opens lease => exact .inl fun T _ => .frame rfl rfl (fun _ => rfl) rfl rfl rfl
  | closes => exact .inr (.inl rfl)
  | resets => exact .inr (.inr (.inl rfl))
  | setsPolicy p e => exact .inl fun T _ => .writePolicy s p e
  | claimsLive a may =>
    refine .inl fun T hc => ?_
    have hT := hc may.inSession
    have entered : Heeds T s (s.entered c a) := Heeds.trans (.addClaim s hT) (.enterList _ hT _)
    exact ((entered.trans (.noteTops s (some c) _)).trans (.recount _)).trans (.resolvePads _)
  | claimsPending a k may =>
    exact .inl fun T hc => (Heeds.trans (.addClaim s (hc may.inSession)) (.enterWait _ c a.pin k)).trans (.recount _)
  | modifiesNow q a may =>
    refine .inl fun T hc => Heeds.claimsChanged s (s.modifiedPool c q a) (some c) ?_
    have hT := hc may.inSession
    obtain ⟨-, client, -⟩ := State.claimAt_mem may.claim
    have set : Heeds T s (s.setClaim (q.modified a)) := .setClaim s ((q.modified_ids a).1.trans client ▸ hT)
    unfold State.modifiedPool
    dsimp only
    split
    · exact (set.trans (.leaveWait _ _ _)).trans (.enterList _ hT _)
    · exact set.trans (.leaveWait _ _ _)
  | modifiesLater q a k may =>
    refine .inl fun T hc => ?_
    have hT := hc may.inSession
    obtain ⟨-, client, -⟩ := State.claimAt_mem may.claim
    have set : Heeds T s (s.setClaim (q.deferred a k)) := .setClaim s ((q.deferred_ids a k).1.trans client ▸ hT)
    exact (set.trans (.enterWait _ c q.pin k)).trans (.settleRefs _)
  | releases p q => exact .inl fun T _ => .claimsChanged s _ (some c) (.dropClaims s _)
  | binds k inSession => exact .inl fun T hT => Heeds.trans (.own s k rfl (hT inSession)) (.recount _)
  | configures k r =>
    refine .inl fun T _ => Heeds.trans ?_ (.settleRefs _)
    exact .setChannel s k rfl
  | stages k x => exact .inl fun T _ => .setChannel s k rfl
  | commits k x => exact .inl fun T _ => .setChannel s k (Channel.commitStaged_fields _ x).2.1
  | cancels k => exact .inl fun T _ => .setChannel s k rfl
  | starts ks => exact .inl fun T _ => .startChans s ks (some c)
  | arms k p e => exact .inl fun T _ => .setChannel s k rfl
  | stops k =>
    refine .inl fun T _ => ?_
    have stopped : Heeds T s (s.stopped k) := by
      unfold State.stopped
      dsimp only
      split
      · refine Heeds.trans ?_ (.noteOwner _ _ _)
        exact .setChannel s k rfl
      · exact .setChannel s k rfl
    exact (((stopped.trans (.activate _ k)).trans (.noteSource _ _ _)).trans (.settleRefs _)).trans (.resolvePads _)
  | disarms k => exact .inl fun T _ => .setChannel s k rfl
  | releasesChannel k => exact .inl fun T _ => .letGo s k c
  | adopts k inSession =>
    exact .inl fun T hT => (Heeds.trans (.own s k rfl (hT inSession)) (.recount _)).trans (.noteSource _ _ _)
  | replacesWatch w inSession client =>
    refine .inl fun T hT => .watches rfl fun v hv => ?_
    obtain ⟨v', hv', rfl⟩ := List.mem_map.mp hv
    split
    · exact .inl (client ▸ hT inSession)
    · exact .inr hv'
  | addsWatch w inSession client =>
    have add (T : Client → Prop) (hT : T c) : Heeds T s { s with watches := s.watches ++ [w] } :=
      .watches rfl fun v hv => by
        rw [List.mem_append, List.mem_singleton] at hv
        exact hv.elim .inr fun e => .inl (e ▸ client ▸ hT)
    exact .inl fun T hT => (add T (hT inSession)).trans (.recount _)
  | dropsWatch p =>
    have drop (T : Client → Prop) :
        Heeds T s { s with watches := s.watches.filter fun w => !(w.client = c && w.pin = p) } :=
      .watches rfl fun v hv => .inr (List.mem_of_mem_filter hv)
    exact .inl fun T _ => (drop T).trans (.recount _)
  | fetches n inSession pos => exact .inr (.inr (.inr ⟨n, inSession, pos, rfl⟩))

theorem Event.linksOk (e : Event s t) (h : s.LinksOk) : t.LinksOk := by
  obtain e | ⟨c, -, rfl⟩ | ⟨c, kind, part, rfl⟩ | ⟨cause, por, nrstLow, rfl⟩ := e.heeds
  · exact h.heeds (e _ fun _ _ => trivial)
  · exact h.teardown c _
  · exact h.bus c kind part
  · exact (State.deviceReset_linksOk s cause).of_same rfl rfl

theorem Effect.linksOk {c : Client} (e : Effect c s t) (h : s.LinksOk) : t.LinksOk := by
  obtain e | rfl | rfl | ⟨n, -, pos, rfl⟩ := e.heeds
  · exact h.heeds (e _ fun _ => trivial)
  · exact h.teardown c _
  · exact (State.deviceReset_linksOk s .resetCommand).of_same (by simp) (by simp)
  · exact h.setQueue ((h c).queue.fetch pos)

theorem State.port_taken (s : State) (c d : Client) : (s.taken c).port d =
    if d ≠ c && (s.port d).state = .held then { s.port d with passedBy := c :: (s.port d).passedBy } else s.port d := by
  rw [State.taken, State.passing, State.port_mapPorts]
  simp

theorem State.LinksOk.taken (h : s.LinksOk) (c : Client) : (s.taken c).LinksOk := fun d => by
  obtain ⟨-, -, rx, tx⟩ := (h d).port
  rw [State.port_taken, State.taken_queue]
  split
  · exact (h d).moved rfl rfl rfl rfl rx tx
  · exact h d

/-- A port that can take a reply: its slot holds none, and it is not receiving a frame. -/
structure Port.Awaits (q : Port) : Prop where
  state : q.state ≠ .answered
  transaction : q.transaction ≠ .receive

theorem Port.Ok.awaits (h : q.Ok) (held : q.state = .held) : q.Awaits := by
  obtain ⟨-, -, rx, -⟩ := h
  exact ⟨by simp [held], fun e => by simp [held] at rx; exact rx e⟩

theorem Notified.awaits {T : Client → Prop} (h : Notified T s t) {c : Client} (a : (s.port c).Awaits) :
    (t.port c).Awaits := by
  rw [h.ports c]; exact ⟨a.state, a.transaction⟩

theorem Heeds.awaits (h : Heeds (fun _ => True) s t) {c : Client} (a : (s.port c).Awaits) : (t.port c).Awaits :=
  (h ⟨fun _ _ => trivial, fun _ _ _ => trivial, fun _ _ _ => trivial, fun _ _ => trivial⟩).2.awaits a

theorem State.awaits_syncAttention {c : Client} (a : (s.port c).Awaits) : ((s.syncAttention c).port c).Awaits := by
  rw [State.syncAttention, State.port_setPort_self]; exact ⟨a.state, a.transaction⟩

/-- An effect leaves its client's port to the reply. -/
theorem Effect.awaits {c : Client} (e : Effect c s t) (a : (s.port c).Awaits) : (t.port c).Awaits := by
  obtain e | rfl | rfl | ⟨n, -, -, rfl⟩ := e.heeds
  · exact (e _ fun _ => trivial).awaits a
  · rw [State.teardown_eq, State.resolvePads_port, State.port_setSession]
    refine State.awaits_syncAttention (s := (s.torn c).setQueue c Queue.empty) ?_
    rw [State.port_setQueue]
    exact (Heeds.torn s c).awaits a
  · rw [State.firstSamples_port, State.deviceReset_port]
    refine ⟨by simp [Port.cut, Port.atReset], fun e => ?_⟩
    unfold Port.cut at e
    dsimp only at e
    split at e <;> cases e
  · refine State.awaits_syncAttention (s := s.setQueue c ((s.queue c).fetch n)) ?_
    rw [State.port_setQueue]
    exact a

/-- A request's effect and its reply. -/
theorem Effect.linksOk_answer {c : Client} (e : Effect c (s.taken c) t) (h : s.LinksOk)
    (held : (s.port c).state = .held) (tag : Byte) (st : Status) (pl : List Byte) : (t.answer c tag st pl).LinksOk := by
  have own : ((s.taken c).port c) = s.port c := by rw [State.port_taken]; simp
  have a := e.awaits (own ▸ (h c).port.awaits held)
  exact (e.linksOk (h.taken c)).answer a.state a.transaction tag st pl

end

end Sys2Proof.Machine
end

section
/-! PROOFS. Who has a session (R3, R109, R131): claims, claim lists, channels and watches are of clients in session, and
nobody else has a notice. -/

namespace Sys2Proof.Machine

open Sys2Proof

/-- All that the tables name belongs to clients in session, and the queue of every other client is empty. -/
structure State.MembersOk (s : State) : Prop where
  known : s.Knows s.InSession
  empty : ∀ c : Client, ¬s.InSession c → s.queue c = Queue.empty

theorem Queue.eq_empty_iff {q : Queue} : q = Queue.empty ↔ q.entries = [] ∧ q.dropped = 0 := by
  cases q; simp [Queue.empty]

section
variable {s t : State} {T U : Client → Prop}

theorem State.Knows.and (h : s.Knows T) (k : s.Knows U) : s.Knows fun c => T c ∧ U c :=
  ⟨fun q hq => ⟨h.claims q hq, k.claims q hq⟩, fun p c hc => ⟨h.lists p c hc, k.lists p c hc⟩,
    fun i c hc => ⟨h.owners i c hc, k.owners i c hc⟩, fun w hw => ⟨h.watches w hw, k.watches w hw⟩⟩

theorem State.Knows.weaken (h : s.Knows T) (hTU : ∀ c, T c → U c) : s.Knows U :=
  ⟨fun q hq => hTU _ (h.claims q hq), fun p c hc => hTU _ (h.lists p c hc), fun i c hc => hTU _ (h.owners i c hc),
    fun w hw => hTU _ (h.watches w hw)⟩

/-- The members laws, out of the laws of the blocks. -/
theorem State.membersOk_iff : (s.ClaimsLawful → s.ListsOk → s.WatchesOk → s.ClosedOk → s.MembersOk) ∧
    (s.MembersOk → s.ClosedOk ∧ (∀ q ∈ s.claims, s.InSession q.client) ∧ ∀ w ∈ s.watches, s.InSession w.client) := by
  refine ⟨fun hc hl hw hq => ⟨⟨fun q hm => (hc q hm).1, fun p c hm => ?_, fun k c ho hs => (hq c hs).2.2 k ho,
    fun w hm => hw.2.2 w hm⟩, fun c hs => ?_⟩, fun h => ⟨fun c hs => ?_, h.known.claims, h.known.watches⟩⟩
  · obtain ⟨q, hq, rfl, -⟩ := ((hl p).2.1 c).mp hm
    exact (hc q hq).1
  · obtain ⟨entries, dropped, -⟩ := hq c (not_not.mp hs)
    exact Queue.eq_empty_iff.mpr ⟨entries, dropped⟩
  · obtain ⟨entries, dropped⟩ := Queue.eq_empty_iff.mp (h.empty c (not_not.mpr hs))
    exact ⟨entries, dropped, fun k ho => h.known.owners k c ho hs⟩

theorem State.MembersOk.heeds (h : s.MembersOk) (hs : ∀ c, s.InSession c → t.InSession c)
    (e : Heeds s.InSession s t) : t.MembersOk := by
  obtain ⟨known, told⟩ := e h.known
  exact ⟨known.weaken hs, fun c hc => (told.quiet c fun hi => hc (hs c hi)).trans (h.empty c fun hi => hc (hs c hi))⟩

theorem State.MembersOk.of_same (h : s.MembersOk) (hs : t.sessions = s.sessions) (hc : t.claims = s.claims)
    (hl : t.claimLists = s.claimLists) (hk : t.channels = s.channels) (hw : t.watches = s.watches)
    (hq : t.queues = s.queues) : t.MembersOk := by
  have same : t.InSession = s.InSession := funext fun c => by rw [State.InSession, State.session_congr hs]
  exact ⟨same ▸ h.known.congr hc hl hk hw, fun c hn => (State.queue_congr hq c).trans (h.empty c (same ▸ hn))⟩

/-! ## Teardown -/

theorem State.owner_letGo (s : State) (k j : Chan) (c : Client) :
    ((s.letGo k c).channel j).owner = if k = j then none else (s.channel j).owner := by
  have noted : ((s.letGo k c).channel j).owner = ((s.setChannel k (s.channel k).letGo).settleRefs.channel j).owner := by
    unfold State.letGo
    dsimp only
    split
    · rfl
    · rw [State.noteSource_channel]
  rw [noted, State.owner_settleRefs, State.channel_setChannel]
  split <;> rfl

/-- The fourth step of a teardown takes every channel from its owner (R131). -/
theorem State.owner_tearChannels (s : State) (c : Client) (j : Chan) : ((s.tearChannels c).channel j).owner ≠ some c := by
  have fold : ∀ (l : List Chan) (t : State), j ∈ l ∨ (t.channel j).owner ≠ some c →
      ((l.foldl (fun t k => if (t.channel k).owner = some c then t.letGo k c else t) t).channel j).owner ≠ some c := by
    intro l
    induction l with
    | nil => exact fun t h => h.resolve_left (List.not_mem_nil)
    | cons k l ih =>
      intro t h
      refine ih _ ?_
      dsimp only
      by_cases hk : (t.channel k).owner = some c
      · rw [if_pos hk, State.owner_letGo]
        by_cases e : k = j
        · rw [if_pos e]; exact .inr (by simp)
        · rw [if_neg e]; exact h.imp_left fun hm => (List.mem_cons.mp hm).resolve_left (Ne.symm e)
      · rw [if_neg hk]
        by_cases e : k = j
        · exact .inr (e ▸ hk)
        · exact h.imp_left fun hm => (List.mem_cons.mp hm).resolve_left (Ne.symm e)
  exact fold allChans s (.inl (mem_allChans j))

theorem State.torn_claims (s : State) (c : Client) :
    (s.torn c).claims = s.claims.filter fun q => !decide (q.client = c) := by
  rw [State.torn, State.tearChannels_claims, State.tearWatches_claims, State.claims_tearClaims]

theorem State.torn_claimList (s : State) (c : Client) (p : Pin) :
    (s.torn c).claimList p = (s.claimList p).filter fun d => !decide (d = c) := by
  rw [State.torn, State.tearChannels_claimList, State.tearWatches_claimList, State.tearClaims, State.noteTops_claimList,
    State.settleRefs_claimList, State.claimList_dropClaims]

theorem State.torn_watches (s : State) (c : Client) : (s.torn c).watches = s.watches.filter fun w => w.client ≠ c := by
  rw [State.torn, State.tearChannels_watches]
  simp [State.tearWatches]

/-- Nothing of the client is left once its session is torn down. -/
theorem State.torn_knows (s : State) (c : Client) : (s.torn c).Knows (· ≠ c) where
  claims q hq := by rw [State.torn_claims] at hq; simpa using (List.mem_filter.mp hq).2
  lists p d hd := by rw [State.torn_claimList] at hd; simpa using (List.mem_filter.mp hd).2
  owners k d hd e := State.owner_tearChannels _ c k (e ▸ hd)
  watches w hw := by rw [State.torn_watches] at hw; simpa using (List.mem_filter.mp hw).2

theorem State.inSession_teardown {c d : Client} {cause : EndCause} :
    (s.teardown c cause).InSession d ↔ s.InSession d ∧ d ≠ c := by
  by_cases hd : d = c
  · subst hd
    simp [State.InSession, State.session_teardown_self_eq, Session.ended]
  · rw [State.InSession, State.session_teardown_ne s hd, (SameCore.torn s c).state]
    simp [hd, State.InSession]

theorem State.MembersOk.teardown (h : s.MembersOk) (c : Client) (cause : EndCause) : (s.teardown c cause).MembersOk := by
  obtain ⟨known, told⟩ := Heeds.torn s c h.known
  refine ⟨?_, fun d hd => ?_⟩
  · exact ((known.and (s.torn_knows c)).congr (by simp [State.teardown_eq]) (by simp [State.teardown_eq])
      (by simp [State.teardown_eq]) (by simp [State.teardown_eq])).weaken fun d => State.inSession_teardown.mpr
  · rw [State.teardown_eq, State.resolvePads_queue, State.queue_setSession, State.queue_purge]
    split
    · rfl
    · next e =>
      have out : ¬s.InSession d := fun hi => hd (State.inSession_teardown.mpr ⟨hi, Ne.symm e⟩)
      rw [told.quiet d out, h.empty d out]

/-! ## Every event and every effect -/

theorem State.deviceReset_membersOk (s : State) (cause : ResetCause) : (s.deviceReset cause).MembersOk where
  known := ⟨by simp [State.deviceReset], by simp, by simp [Channel.cleared], by simp [State.deviceReset]⟩
  empty c _ := State.deviceReset_queue s cause c

theorem Event.membersOk (e : Event s t) (h : s.MembersOk) : t.MembersOk := by
  obtain hs | ⟨c, -, rfl⟩ | ⟨cause, por, nrstLow, rfl⟩ := e.inSession
  · obtain he | ⟨c, -, rfl⟩ | ⟨c, kind, part, rfl⟩ | ⟨cause, por, nrstLow, rfl⟩ := e.heeds
    · refine h.heeds hs (he _ fun c hd => ?_)
      simp only [State.leaseDue, Bool.and_eq_true, decide_eq_true_eq] at hd
      simp [State.InSession, hd.1]
    · exact h.teardown c _
    · exact h.of_same (by simp) (by simp) (by simp) (by simp) (by simp) (by simp)
    · exact (State.deviceReset_membersOk s cause).of_same rfl rfl rfl rfl rfl rfl
  · exact h.teardown c _
  · exact (State.deviceReset_membersOk s cause).of_same rfl rfl rfl rfl rfl rfl

theorem Effect.membersOk {c : Client} (e : Effect c s t) (h : s.MembersOk) : t.MembersOk := by
  obtain hs | rfl | rfl := e.inSession
  · obtain he | rfl | rfl | ⟨n, hc, -, rfl⟩ := e.heeds
    · exact h.heeds hs (he _ id)
    · exact h.teardown c _
    · exact (State.deviceReset_membersOk s .resetCommand).of_same (by simp) (by simp) (by simp) (by simp) (by simp)
        (by simp)
    · refine ⟨(h.known.congr (by simp) (by simp) (by simp) (by simp)).weaken fun d hd => by simpa using hd, fun d hd => ?_⟩
      have out : ¬s.InSession d := by simpa using hd
      rw [State.syncAttention_queue, State.queue_setQueue, if_neg (by rintro rfl; exact out hc)]
      exact h.empty d out
  · exact h.teardown c _
  · exact (State.deviceReset_membersOk s .resetCommand).of_same (by simp) (by simp) (by simp) (by simp) (by simp)
      (by simp)

end

end Sys2Proof.Machine
end

section
/-! PROOFS. The watch pool (R107, R109), the filters (R42, R43) and the owed edge (R113). -/

namespace Sys2Proof.Machine

open Sys2Proof

section
variable {s t : State}

/-! ## The watch pool -/

/-- The watch pool: at most 24 records and at most one per client and pin (R107, R109). -/
structure State.WatchPool (s : State) : Prop where
  length : s.watches.length ≤ Config.watchPool
  nodup : (s.watches.map fun w => (w.client, w.pin)).Nodup

theorem State.WatchPool.sublist (h : s.WatchPool) (hw : t.watches.Sublist s.watches) : t.WatchPool :=
  ⟨hw.length_le.trans h.length, h.nodup.sublist (hw.map _)⟩

theorem State.watches_teardown (s : State) (c : Client) (cause : EndCause) :
    (s.teardown c cause).watches.Sublist s.watches := by
  rw [State.teardown_eq, State.resolvePads_watches, State.setSession_watches, State.purge_watches, State.torn_watches]
  exact List.filter_sublist

theorem Event.watches (e : Event s t) : t.watches.Sublist s.watches := by
  cases e with
  | grace c => exact s.watches_teardown c _
  | reset => exact List.nil_sublist _
  | tick => rw [State.tickComes_watches]
  | hold c p => rw [State.expireHold_watches]
  | lease c => rw [State.expireLease_watches]
  | input k => rw [State.takeInput_watches]
  | _ => simp

theorem Event.watchPool (e : Event s t) (h : s.WatchPool) : t.WatchPool := h.sublist e.watches

theorem Effect.watchPool {c : Client} (e : Effect c s t) (h : s.WatchPool) : t.WatchPool := by
  cases e with
  | closes => exact h.sublist (s.watches_teardown c _)
  | resets => exact h.sublist (by simp [State.deviceReset])
  | replacesWatch w =>
    refine ⟨by simpa [State.setWatch] using h.length, ?_⟩
    have ids : (s.setWatch w).watches.map (fun v => (v.client, v.pin)) = s.watches.map fun v => (v.client, v.pin) := by
      simp only [State.setWatch, List.map_map]
      refine List.map_congr_left fun v _ => ?_
      simp only [Function.comp]
      split
      · next e => simp only [Bool.and_eq_true, decide_eq_true_eq] at e; rw [e.1, e.2]
      · rfl
    rw [ids]
    exact h.nodup
  | addsWatch w inSession client new room =>
    have watches : (s.addWatch w).watches = s.watches ++ [w] := rfl
    refine ⟨by rw [watches, List.length_append, List.length_singleton]; exact room, ?_⟩
    rw [watches, List.map_append, List.map_singleton, List.nodup_append']
    refine ⟨h.nodup, List.nodup_singleton _, ?_⟩
    simp only [List.disjoint_singleton, List.mem_map, Prod.mk.injEq, not_exists, not_and]
    intro v hv hc hp
    simp only [State.watchAt, List.find?_eq_none] at new
    exact new v hv (by simp [hc, hp, client])
  | dropsWatch p => exact h.sublist (by simp [State.dropWatch])
  | _ => exact h.sublist (by simp)

/-! ## Filters -/

/-- What a pad's filter looks at and changes (R42). -/
def Pad.filter (v : Pad) : Nat × Bool × Level := (v.run, v.tickDue, v.filtered)

/-- A pad's filter by the length of its run (R42, R43). -/
def Pad.FilterOk (v : Pad) (len : Fin 16) : Prop := v.run ≤ len.val - 1 ∧ (v.tickDue = true → len ≠ 0)

theorem Pad.FilterOk.congr {v w : Pad} {len : Fin 16} (h : v.FilterOk len) (e : w.filter = v.filter) : w.FilterOk len := by
  simp only [Pad.filter, Prod.mk.injEq] at e
  obtain ⟨run, due, -⟩ := e
  exact ⟨run ▸ h.1, fun hd => h.2 (due ▸ hd)⟩

/-- A filter that has just begun. -/
theorem Pad.FilterOk.fresh {v : Pad} (run : v.run = 0) (due : v.tickDue = false) (len : Fin 16) : v.FilterOk len :=
  ⟨by omega, by simp [due]⟩

theorem Pad.FilterOk.tick {v : Pad} {len : Fin 16} (h : v.FilterOk len) : (v.tick len.val).FilterOk len := by
  unfold Pad.tick
  split_ifs with h0 hr hl
  · exact h
  · exact ⟨Nat.zero_le _, h.2⟩
  · exact ⟨by dsimp only; omega, h.2⟩
  · exact ⟨h.1, fun _ e => h0 (by rw [e]; rfl)⟩

/-- An event that no filter notices. -/
structure SameFilters (s t : State) : Prop where
  pads : ∀ p : Pin, (t.pad p).filter = (s.pad p).filter
  policies : t.policies = s.policies

theorem SameFilters.of_same (hd : t.pads = s.pads) (hp : t.policies = s.policies) : SameFilters s t :=
  ⟨fun p => by rw [State.pad_congr hd], hp⟩

theorem SameFilters.resolved {u : State} (e : t = u.resolvePads) (hd : u.pads = s.pads) (hp : t.policies = s.policies) :
    SameFilters s t :=
  ⟨fun p => by rw [e, State.pad_resolvePads, State.pad_congr hd]; rfl, hp⟩

theorem SameFilters.trans {u : State} (a : SameFilters s t) (b : SameFilters t u) : SameFilters s u :=
  ⟨fun p => (b.pads p).trans (a.pads p), b.policies.trans a.policies⟩

theorem SameFilters.claimsChanged (s v : State) (x : Option Client) (hd : v.pads = s.pads)
    (hp : v.policies = s.policies) : SameFilters s (s.claimsChanged x v) :=
  .resolved (u := (State.noteTops s x v).settleRefs) rfl (by simpa using hd) (by simpa [State.claimsChanged] using hp)

theorem State.torn_pads (s : State) (c : Client) : (s.torn c).pads = s.pads := by simp [State.torn]

theorem SameFilters.teardown (s : State) (c : Client) (cause : EndCause) : SameFilters s (s.teardown c cause) :=
  .resolved (s.teardown_eq c cause) (by simp [State.torn_pads]) (by simp)

theorem SameFilters.filtersOk (h : SameFilters s t) (hs : s.FiltersOk) : t.FiltersOk := fun p => by
  rw [State.policy_congr h.policies]
  exact Pad.FilterOk.congr (hs p) (h.pads p)

theorem SameFilters.filtered (h : SameFilters s t) (p : Pin) : (t.pad p).filtered = (s.pad p).filtered := by
  have e := h.pads p
  simp only [Pad.filter, Prod.mk.injEq] at e
  exact e.2.2

theorem SameFilters.takeInput (s : State) (k : Chan) : SameFilters s (s.takeInput k) := by
  obtain e | e | e := s.takeInput_cases k <;> rw [e]
  · exact .of_same (by simp) (by simp)
  · exact .resolved rfl (by simp) (by simp)
  · exact .resolved rfl (by simp) (by simp)

theorem SameFilters.startChans (s : State) (ks : List Chan) (x : Option Client) : SameFilters s (s.startChans ks x) :=
  .resolved rfl ((foldl_keeps (fun _ _ => State.noteSource_pads ..) _ _).trans (State.mapChannels_pads ..))
    (State.startChans_policies ..)

theorem State.stopped_pads (s : State) (k : Chan) : (s.stopped k).pads = s.pads := by
  unfold State.stopped; dsimp only; split <;> simp

theorem SameFilters.expireHold (s : State) (c : Client) (p : Pin) : SameFilters s (s.expireHold c p) := by
  rw [State.expireHold_eq]
  exact .trans (.claimsChanged s (s.without c p) none rfl rfl) (.of_same (State.place_pads ..) (State.place_policies ..))

theorem SameFilters.boardChange (s : State) (p : Pin) (b : BoardLevel) : SameFilters s (s.boardChange p b) :=
  ⟨fun x => by
    rw [State.boardChange, State.pad_setPad]
    split
    · next e => rw [← e]; rfl
    · rfl, by simp⟩

/-- What an event does to the filters. -/
inductive Filtering (s : State) : State → Prop
  | same {t : State} (h : SameFilters s t) : Filtering s t
  | edge {t : State} (p : Pin) (pads : ∀ x : Pin, t.pad x = (s.takeEdge p).pad x) (policies : t.policies = s.policies) :
      Filtering s t
  | tick : Filtering s s.tickComes
  | fresh {t : State} (h : ∀ p : Pin, (t.pad p).run = 0 ∧ (t.pad p).tickDue = false) : Filtering s t

theorem Event.filtering (e : Event s t) : Filtering s t := by
  cases e with
  | edge p => exact .edge p (fun _ => rfl) (by simp)
  | edgeBegins p => exact .edge p (fun x => s.pad_beginEdge p x) (by simp)
  | input k => exact .same (.takeInput s k)
  | trigger k => exact .same (.startChans s [k] none)
  | board p b => exact .same (.boardChange s p b)
  | tick => exact .tick
  | hold c p => exact .same (.expireHold s c p)
  | grace c => exact .same (.teardown s c .lapsed)
  | reset cause por nrstLow =>
    have pad (p : Pin) : ({ s.deviceReset cause with por := por, nrstLow := nrstLow } : State).pad p = (s.pad p).cleared :=
      State.deviceReset_pad s cause p
    exact .fresh fun p => by rw [pad]; exact ⟨rfl, rfl⟩
  | resetEnds => exact .fresh fun p => by simp
  | resetLasts => exact .same (.of_same rfl rfl)
  | _ => exact .same (.of_same (by simp) (by simp))

theorem Filtering.filtersOk (e : Filtering s t) (h : s.FiltersOk) : t.FiltersOk := by
  cases e with
  | same e => exact e.filtersOk h
  | edge p pads policies =>
    intro x
    rw [pads, State.pad_takeEdge, State.policy_congr policies]
    split
    · exact Pad.FilterOk.fresh rfl rfl _
    · exact h x
  | tick =>
    intro p
    rw [State.pad_tickComes, State.tickComes_policy]
    split
    · exact h p
    · exact Pad.FilterOk.tick (h p)
  | fresh e => exact fun p => Pad.FilterOk.fresh (e p).1 (e p).2 _

theorem Effect.filtersOk {c : Client} (e : Effect c s t) (h : s.FiltersOk) : t.FiltersOk := by
  cases e with
  | unchanged => exact h
  | resets => exact fun p => Pad.FilterOk.fresh (by simp) (by simp) _
  | setsPolicy p e =>
    have edge : (if (s.pad p).tickDue = true then s.takeEdge p else s).FiltersOk := by
      split
      · exact (Filtering.edge p (fun _ => rfl) (by simp)).filtersOk h
      · exact h
    intro x
    unfold State.writePolicy
    dsimp only
    generalize (if (s.pad p).tickDue = true then s.takeEdge p else s) = u at edge ⊢
    rw [State.pad_resolvePads, State.resolvePads_policy, State.policy_setPad, State.pad_setPad, State.policy_setPolicy]
    split
    · exact Pad.FilterOk.fresh rfl rfl _
    · exact edge x
  | closes => exact (SameFilters.teardown s c .closed).filtersOk h
  | claimsLive a => exact (SameFilters.resolved rfl (by simp) (by simp)).filtersOk h
  | modifiesNow q a =>
    rw [State.modifyNow_eq_changed]
    refine (SameFilters.claimsChanged s (s.modifiedPool c q a) (some c) ?_ ?_).filtersOk h
    all_goals unfold State.modifiedPool; dsimp only; split <;> simp
  | releases p q =>
    rw [State.releaseClaim_eq]
    exact (SameFilters.claimsChanged s (s.without c p) (some c) rfl rfl).filtersOk h
  | starts ks => exact (SameFilters.startChans s ks _).filtersOk h
  | stops k => exact (SameFilters.resolved (s.stopRunning_eq k c) (by simp [State.stopped_pads]) (by simp)).filtersOk h
  | _ => exact (SameFilters.of_same (by simp) (by simp)).filtersOk h

/-! ## The owed edge -/

theorem State.edgeOk_iff : s.EdgeOk ↔ ∀ o, s.edgeOwed = some o → (s.pad o.1).filtered = o.2 ∧ s.inReset = false := by
  simp [State.EdgeOk, Option.all_eq_true]

theorem State.edgeOk_of_none (h : s.edgeOwed = none) : s.EdgeOk := by simp [State.EdgeOk, h]

theorem State.EdgeOk.none_of_inReset (h : s.EdgeOk) (hr : s.inReset = true) : s.edgeOwed = none :=
  Option.eq_none_iff_forall_ne_some.mpr fun o ho => by
    have := (State.edgeOk_iff.mp h o ho).2
    simp [hr] at this

theorem State.EdgeOk.congr (h : s.EdgeOk) (hf : ∀ o, s.edgeOwed = some o → (t.pad o.1).filtered = (s.pad o.1).filtered)
    (ho : t.edgeOwed = s.edgeOwed) (hp : t.por = s.por) (hn : t.nrstLow = s.nrstLow) : t.EdgeOk :=
  State.edgeOk_iff.mpr fun o e => by
    rw [ho] at e
    rw [hf o e, State.inReset_congr hp hn]
    exact State.edgeOk_iff.mp h o e

theorem Pad.tick_filtered (v : Pad) (n : Nat) : (v.tick n).filtered = v.filtered := by
  unfold Pad.tick
  (repeat' split) <;> rfl

theorem Event.edgeOk (e : Event s t) (h : s.EdgeOk) : t.EdgeOk := by
  have same {u : State} (f : SameFilters s u) :
      u.edgeOwed = s.edgeOwed → u.por = s.por → u.nrstLow = s.nrstLow → u.EdgeOk :=
    h.congr fun o _ => f.filtered o.1
  cases e with
  | edge p other =>
    refine h.congr (fun o ho => ?_) (by simp) (by simp) (by simp)
    rw [State.pad_takeEdge, if_neg (Ne.symm (other o ho))]
  | edgeBegins p _ out =>
    refine State.edgeOk_iff.mpr fun o ho => ?_
    obtain rfl := Option.some.inj (ho.symm.trans (s.beginEdge_edgeOwed p))
    rw [State.pad_beginEdge, State.pad_takeEdge, if_pos rfl]
    exact ⟨rfl, (State.inReset_congr (by simp) (by simp)).trans out⟩
  | edgeEnds => exact State.edgeOk_of_none s.edgeOwed_endEdge
  | tick =>
    refine h.congr (fun o _ => ?_) (by simp) (by simp) (by simp)
    rw [State.pad_tickComes]
    split
    · rfl
    · exact Pad.tick_filtered _ _
  | input k => exact same (.takeInput s k) (by simp) (by simp) (by simp)
  | trigger k => exact same (.startChans s [k] none) (by simp) (by simp) (by simp)
  | board p b => exact same (.boardChange s p b) (by simp) (by simp) (by simp)
  | hold c p => exact same (.expireHold s c p) (by simp) (by simp) (by simp)
  | grace c => exact same (.teardown s c .lapsed) (by simp) (by simp) (by simp)
  | reset => exact State.edgeOk_of_none rfl
  | resetLasts _ _ before => exact State.edgeOk_of_none (h.none_of_inReset before)
  | resetEnds _ _ before => exact State.edgeOk_of_none (h.none_of_inReset before)
  | _ => exact same (.of_same (by simp) (by simp)) (by simp) (by simp) (by simp)

/-- No effect leaves an edge's notices owed where none were. -/
theorem Effect.edgeOk {c : Client} (e : Effect c s t) (h : s.edgeOwed = none) : t.EdgeOk := by
  refine State.edgeOk_of_none ?_
  cases e with
  | resets => simp [State.deviceReset]
  | _ => simpa using h

end

end Sys2Proof.Machine
end

section
/-! PROOFS. Claims stand within their pins' policy (R3): the rank a claim has, and the one it is to have, are at most the
client's ceiling, and the pin's role is IO. -/

namespace Sys2Proof.Machine

open Sys2Proof

/-- A claim that its pin's policy entry admits (R3). -/
structure Claim.Within (q : Claim) (e : Policy) : Prop where
  role : e.role = .io
  rank : q.rank ≤ e.ceilings[q.client.val]
  change : ∀ r ∈ q.change.bind (·.rank), 1 ≤ r.val ∧ r ≤ e.ceilings[q.client.val]

/-- Every claim is one its pin's policy admits. -/
abbrev State.WithinOk (s : State) : Prop := ∀ q ∈ s.claims, q.Within (s.policy q.pin)

theorem State.claimsLawful_iff {s : State} :
    s.ClaimsLawful ↔ (∀ q ∈ s.claims, s.InSession q.client) ∧ s.WithinOk := by
  have change (q : Claim) (e : Policy) : ((q.change.bind (·.rank)).all fun r => 1 ≤ r.val && r ≤ e.ceilings[q.client.val]) ↔
      ∀ r ∈ q.change.bind (·.rank), 1 ≤ r.val ∧ r ≤ e.ceilings[q.client.val] := by
    simp only [Option.all_eq_true, Bool.and_eq_true, decide_eq_true_eq, Option.mem_def]
  refine ⟨fun h => ⟨fun q hq => (h q hq).1, fun q hq => ?_⟩, fun ⟨hs, hw⟩ q hq => ?_⟩
  · obtain ⟨-, role, rank, ch⟩ := h q hq
    exact ⟨role, rank, (change q _).mp ch⟩
  · obtain ⟨role, rank, ch⟩ := hw q hq
    exact ⟨hs q hq, role, rank, (change q _).mpr ch⟩

theorem Claim.Within.activated {q : Claim} {e : Policy} (h : q.Within e) : q.activated.Within e where
  role := h.role
  rank := by
    simp only [Claim.activated]
    cases hr : q.change.bind (·.rank) with
    | none => exact h.rank
    | some r => exact (h.change r hr).2
  change := by simp [Claim.activated]

/-- A claim of the same client and rank, with no change of rank to come. -/
theorem Claim.Within.congr {q r : Claim} {e : Policy} (h : q.Within e) (hc : r.client = q.client) (hr : r.rank = q.rank)
    (hg : r.change = q.change) : r.Within e where
  role := h.role
  rank := by
    have : e.ceilings[r.client.val] = e.ceilings[q.client.val] := by simp only [hc]
    rw [hr, this]; exact h.rank
  change := by
    have : e.ceilings[r.client.val] = e.ceilings[q.client.val] := by simp only [hc]
    rw [hg, this]; exact h.change

section
variable {s t : State}

theorem State.WithinOk.sublist (h : s.WithinOk) (hc : t.claims ⊆ s.claims) (hp : t.policies = s.policies) : t.WithinOk :=
  fun q hq => by rw [State.policy_congr hp]; exact h q (hc hq)

theorem State.WithinOk.congr (h : s.WithinOk) (hc : t.claims = s.claims) (hp : t.policies = s.policies) : t.WithinOk :=
  h.sublist (hc ▸ List.Subset.refl _) hp

theorem State.WithinOk.setClaim (h : s.WithinOk) {q : Claim} (hq : q.Within (s.policy q.pin)) : (s.setClaim q).WithinOk :=
  fun r hr => by
    obtain ⟨r', hr', rfl⟩ := List.mem_map.mp hr
    rw [State.setClaim_policy]
    split
    · exact hq
    · exact h r' hr'

theorem State.WithinOk.activateOne (h : s.WithinOk) (id : Client × Pin) : (s.activateOne id).WithinOk := by
  unfold State.activateOne
  split
  · exact h
  · next q hq =>
    have set : (s.setClaim q.activated).WithinOk := h.setClaim (h q (State.claimAt_mem hq).1).activated
    dsimp only
    split
    · exact set.congr (by simp) (by simp)
    · exact set

theorem State.WithinOk.activate (h : s.WithinOk) (k : Chan) : (s.activate k).WithinOk :=
  (foldl_inv (P := State.WithinOk) (fun _ id _ ht => ht.activateOne id)
    (h.congr (t := s.setWaitList k []) (by simp) (by simp))).congr (State.noteTops_claims ..) (State.noteTops_policies ..)

theorem State.WithinOk.takeInput (h : s.WithinOk) (k : Chan) : (s.takeInput k).WithinOk := by
  obtain e | e | e := s.takeInput_cases k <;> rw [e]
  · exact h.congr (by simp) (by simp)
  · exact h.congr (by simp) (by simp)
  · have set : ((s.setChannel k (s.channel k).taken.ended).boundaryCommit k).WithinOk := h.congr (by simp) (by simp)
    exact (set.activate k).congr (by simp [State.boundary_eq, State.boundaryDone])
      (by simp [State.boundary_eq, State.boundaryDone])

theorem State.WithinOk.tickComes (h : s.WithinOk) : s.tickComes.WithinOk := fun q hq => by
  rw [State.claims_tickComes, List.mem_map] at hq
  obtain ⟨r, hr, rfl⟩ := hq
  rw [State.tickComes_policy]
  split
  · exact h r hr
  · obtain ⟨client, pin, rank, -, -, -, change⟩ := r.tick_fields
    rw [pin]
    exact (h r hr).congr client rank change

theorem State.WithinOk.dropClaim (h : s.WithinOk) (c : Client) (p : Pin) : (s.without c p).WithinOk :=
  h.sublist List.filter_sublist.subset rfl

theorem State.WithinOk.teardown (h : s.WithinOk) (c : Client) (cause : EndCause) : (s.teardown c cause).WithinOk :=
  h.sublist (by
    rw [State.teardown_eq, State.resolvePads_claims, State.setSession_claims, State.purge_claims, State.torn_claims]
    exact List.filter_sublist.subset) (by simp)

theorem State.stopped_policies (s : State) (k : Chan) : (s.stopped k).policies = s.policies := by
  unfold State.stopped; dsimp only; split <;> simp

/-! ## Every event and every effect -/

theorem Event.withinOk (e : Event s t) (h : s.WithinOk) : t.WithinOk := by
  cases e with
  | input k => exact h.takeInput k
  | tick => exact h.tickComes
  | hold c p =>
    exact (h.dropClaim c p).congr (by simp [State.expireHold_eq, State.claimsChanged])
      (by simp [State.expireHold_eq, State.claimsChanged])
  | grace c => exact h.teardown c _
  | reset => exact fun q hq => absurd hq List.not_mem_nil
  | resetLasts => exact h.congr rfl rfl
  | _ => exact h.congr (by simp) (by simp)

theorem State.MayClaim.within {c : Client} {a : ClaimArgs} (may : s.MayClaim c a) (wait : Option Chan) :
    (newClaim c a wait).Within (s.policy a.pin) := ⟨may.role, may.ceiling, by simp [newClaim]⟩

theorem State.WithinOk.addClaim (h : s.WithinOk) {q : Claim} (hq : q.Within (s.policy q.pin)) : (s.addClaim q).WithinOk :=
  fun r hr => by
    rw [State.addClaim_claims, List.mem_append, List.mem_singleton] at hr
    obtain hr | rfl := hr
    · exact h r hr
    · exact hq

theorem State.MayModify.within {c : Client} {q : Claim} {a : ModifyArgs} (may : s.MayModify c q a) (h : s.WithinOk) :
    (q.modified a).Within (s.policy (q.modified a).pin) ∧
      ∀ k, (q.deferred a k).Within (s.policy (q.deferred a k).pin) := by
  obtain ⟨hm, client, pin⟩ := State.claimAt_mem may.claim
  obtain ⟨fc, fp, fr, -⟩ := q.rehold_fields a.hold
  have held := h q hm
  rw [pin] at held
  have ceiling : ∀ r ∈ a.rank, r ≤ (s.policy a.pin).ceilings[q.client.val] := by
    simp only [client]; exact may.ceiling
  have pos : ∀ r ∈ a.rank, 1 ≤ r.val := fun r hr => Nat.one_le_iff_ne_zero.mpr fun h0 =>
    may.rank (hr.trans (congrArg some (Fin.ext h0)))
  refine ⟨⟨?_, ?_, by simp [Claim.modified]⟩, fun k => ?_⟩
  · rw [(q.modified_ids a).2, pin]; exact held.role
  · have le : a.rank.getD q.rank ≤ (s.policy a.pin).ceilings[q.client.val] := by
      cases hr : a.rank with
      | none => exact held.rank
      | some r => exact ceiling r hr
    simpa only [Claim.modified, fc, fp, pin] using le
  · have limit : (s.policy (q.deferred a k).pin).ceilings[(q.deferred a k).client.val] =
        (s.policy a.pin).ceilings[q.client.val] := by simp only [Claim.deferred, fc, fp, pin]
    refine ⟨?_, ?_, ?_⟩
    · rw [(q.deferred_ids a k).2, pin]; exact held.role
    · rw [limit, show (q.deferred a k).rank = q.rank from fr]; exact held.rank
    · rw [limit]; exact fun r hr => ⟨pos r hr, ceiling r hr⟩

theorem State.policy_writePolicy (s : State) (p : Pin) (e : Policy) (x : Pin) :
    (s.writePolicy p e).policy x = if p = x then e else s.policy x := by
  unfold State.writePolicy
  dsimp only
  rw [State.resolvePads_policy, State.policy_setPad, State.policy_setPolicy]
  refine if_congr Iff.rfl rfl ?_
  split
  · rw [State.takeEdge_policy]
  · rfl

theorem Effect.withinOk {c : Client} (e : Effect c s t) (h : s.WithinOk) : t.WithinOk := by
  cases e with
  | closes => exact h.teardown c _
  | resets => exact fun q hq => absurd hq (by simp [State.deviceReset])
  | setsPolicy p e ok free =>
    intro q hq
    rw [State.writePolicy_claims] at hq
    rw [State.policy_writePolicy, if_neg ?_]
    · exact h q hq
    · rintro rfl
      have used : s.pinInUse q.pin = true := by
        simp only [State.pinInUse, Bool.or_eq_true, List.any_eq_true]
        exact .inl (.inl ⟨q, hq, decide_eq_true rfl⟩)
      simp [used] at free
  | claimsLive a may =>
    exact (h.addClaim (may.within none)).congr (by simp [State.claimLive]) (by simp; rfl)
  | claimsPending a k may =>
    exact (h.addClaim (may.within (some k))).congr (by simp [State.claimPending]) (by simp; rfl)
  | modifiesNow q a may =>
    refine (h.setClaim (may.within h).1).congr ?_ (by simp)
    simp [State.modifyNow_eq, State.modifiedPool_claims]
  | modifiesLater q a k may =>
    exact (h.setClaim ((may.within h).2 k)).congr (by simp [State.modifyLater_eq]) (by simp)
  | releases p q =>
    exact (h.dropClaim c p).congr (by simp [State.releaseClaim_eq, State.claimsChanged]) (by simp; rfl)
  | stops k =>
    have stopped : (s.stopped k).WithinOk := h.congr (by simp) (s.stopped_policies k)
    exact (stopped.activate k).congr (by simp [State.stopRunning_eq]) (by simp [State.stopped_policies])
  | _ => exact h.congr (by simp) (by simp)

end

end Sys2Proof.Machine
end

section
/-! PROOFS. A channel by its state (R46 to R58, R72, R73): what each event of a channel keeps of its laws, its owner and its
references apart. -/

namespace Sys2Proof.Machine

open Sys2Proof

/-- A channel by its state, but for the law that ties FREE to its owner and its references (R96). -/
structure Channel.Sound (ch : Channel) : Prop where
  free : ch.state = .free → { ch with refs := 0 } = Channel.cleared
  trigger : ch.trigger.isSome ↔ ch.state = .armed
  armed : ch.state = .armed → ch.owner.isSome
  staging : ch.staging.isSome → ch.owner.isSome
  commit : ch.commit.isSome → ch.owner.isSome ∧ ch.state = .running
  output : ch.output = (ch.state = .running && ch.outputNow)
  position : ch.state = .running → ch.phase.toNat < ch.settings.prescale ∧ ch.count ≤ ch.startValue
  done : ch.state = .done → ch.count = 0 ∧ ch.phase = 0
  due : 0 < ch.inputsDue → ch.state = .running
  base : ch.settings.clock = .base → ch.inputsDue ≤ 1
  triggerDue : ch.triggerDue → ch.state = .armed

theorem Channel.ok_iff {ch : Channel} :
    ch.Ok ↔ ch.Sound ∧ (ch.state = .free ↔ ch.owner = none ∧ ch.refs = 0) := by
  refine ⟨fun ⟨h1, h2, h3, h4, h5, h6, h7, h8, h9, h10, h11, h12⟩ =>
    ⟨⟨fun e => by rw [h2 e]; rfl, h3, h4, h5, h6, h7, h8, h9, h10, h11, h12⟩, h1⟩, fun ⟨h, h1⟩ =>
    ⟨h1, fun e => ?_, h.trigger, h.armed, h.staging, h.commit, h.output, h.position, h.done, h.due, h.base, h.triggerDue⟩⟩
  rw [← h.free e, ← (h1.mp e).2]

theorem Settings.prescale_pos (r : Settings) : 0 < r.prescale := Nat.two_pow_pos _

theorem Settings.prescale_le (r : Settings) : r.prescale ≤ 256 :=
  (Nat.pow_le_pow_right (by decide) (Nat.le_of_lt_succ r.prescaleExp.isLt)).trans (by decide)

theorem Channel.cleared_sound : Channel.cleared.Sound := by constructor <;> decide

section
variable {ch : Channel}

theorem Channel.Sound.refs (h : ch.Sound) (n : Nat) : ({ ch with refs := n } : Channel).Sound := { h with }

theorem Channel.Sound.settled (h : ch.Sound) (n : Nat) : (ch.settled n).Sound := by
  unfold Channel.settled
  split
  · exact Channel.cleared_sound
  · exact h.refs n

/-- A channel that is not RUNNING has no clock input due. -/
theorem Channel.Sound.idle (h : ch.Sound) (hr : ch.state ≠ .running) : ch.inputsDue = 0 :=
  Nat.eq_zero_of_not_pos fun hd => hr (h.due hd)

theorem Channel.Sound.not_triggerDue (h : ch.Sound) (ha : ch.state ≠ .armed) : ch.triggerDue = false :=
  Bool.eq_false_iff.mpr fun hd => ha (h.triggerDue hd)

theorem Channel.Sound.trigger_none (h : ch.Sound) (ha : ch.state ≠ .armed) : ch.trigger = none :=
  Option.not_isSome_iff_eq_none.mp fun ht => ha (h.trigger.mp ht)

theorem Channel.Sound.owner_none (h : ch.Sound) (hf : ch.state = .free) : ch.owner = none :=
  congrArg Channel.owner (h.free hf)

/-! ## Starting, stopping and arming (R62 to R65) -/

theorem Channel.Sound.fresh (h : ch.Sound) (ho : ch.owner.isSome) : ch.fresh.Sound where
  free e := by cases e
  trigger := by simp [Channel.fresh]
  armed e := by cases e
  staging := h.staging
  commit _ := ⟨ho, rfl⟩
  output := by
    have e := congrArg Channel.output ch.start_eq_fresh
    have f : ch.start.outputNow = ch.fresh.outputNow := congrArg Channel.outputNow ch.start_eq_fresh
    rw [← e, ← f]; rfl
  position _ := ⟨by simpa [Channel.fresh] using ch.settings.prescale_pos, BitVec.le_refl _⟩
  done e := by cases e
  due e := absurd e (lt_irrefl 0)
  base _ := Nat.zero_le 1
  triggerDue e := by cases e

/-- A channel that leaves RUNNING or ARMED for STOPPED. -/
theorem Channel.Sound.halted (h : ch.Sound) : ({ ch with
    state := .stopped, output := false, commit := none, inputsDue := 0, trigger := none
    triggerDue := false } : Channel).Sound where
  free e := by cases e
  trigger := by simp
  armed e := by cases e
  staging := h.staging
  commit e := by cases e
  output := rfl
  position e := by cases e
  done e := by cases e
  due e := absurd e (lt_irrefl 0)
  base _ := Nat.zero_le 1
  triggerDue e := by cases e

theorem Channel.Sound.stopped (h : ch.Sound) (hr : ch.state = .running) :
    ({ ch with state := .stopped, output := false, commit := none, inputsDue := 0 } : Channel).Sound := by
  have ht := h.trigger_none (by simp [hr])
  have hd := h.not_triggerDue (by simp [hr])
  rw [ht, hd]
  exact h.halted

theorem Channel.Sound.output_off (h : ch.Sound) (hr : ch.state ≠ .running) : ch.output = false := by
  rw [h.output, decide_eq_false hr, Bool.false_and]

theorem Channel.Sound.commit_none (h : ch.Sound) (hr : ch.state ≠ .running) : ch.commit = none :=
  Option.not_isSome_iff_eq_none.mp fun hc => hr (h.commit hc).2

theorem Channel.Sound.disarmed (h : ch.Sound) (ha : ch.state = .armed) :
    ({ ch with state := .stopped, trigger := none, triggerDue := false } : Channel).Sound := by
  have hr : ch.state ≠ .running := by simp [ha]
  rw [h.output_off hr, h.commit_none hr, h.idle hr]
  exact h.halted

/-- A bound channel (R93). -/
theorem Channel.Sound.bound (h : ch.Sound) (hf : ch.state = .free) (c : Client) :
    ({ ch with state := .stopped, owner := some c } : Channel).Sound where
  free e := by cases e
  trigger := by simp [h.trigger_none (show ch.state ≠ .armed by simp [hf])]
  armed e := by cases e
  staging _ := rfl
  commit e := by rw [h.commit_none (by simp [hf])] at e; cases e
  output := h.output_off (by simp [hf])
  position e := by cases e
  done e := by cases e
  due e := by rw [h.idle (by simp [hf])] at e; exact absurd e (lt_irrefl 0)
  base := h.base
  triggerDue e := by rw [h.not_triggerDue (by simp [hf])] at e; cases e

theorem Channel.Sound.armedAt (h : ch.Sound) (hi : ch.state = .stopped ∨ ch.state = .done) (ho : ch.owner.isSome)
    (t : Pin × Edge) : ({ ch with state := .armed, trigger := some t, triggerDue := false } : Channel).Sound where
  free e := by cases e
  trigger := by simp
  armed _ := ho
  staging := h.staging
  commit e := by rw [h.commit_none (by rcases hi with e | e <;> simp [e])] at e; cases e
  output := h.output_off (by rcases hi with e | e <;> simp [e])
  position e := by cases e
  done e := by cases e
  due e := by rw [h.idle (by rcases hi with e | e <;> simp [e])] at e; exact absurd e (lt_irrefl 0)
  base := h.base
  triggerDue e := by cases e

/-! ## Settings (R60, R61, R72 to R78) -/

/-- A channel that takes a settings record while it is not RUNNING. -/
theorem Channel.Sound.configured (h : ch.Sound) (hf : ch.state ≠ .free) (hr : ch.state ≠ .running) (r : Settings) :
    ({ ch with settings := r, staging := none } : Channel).Sound where
  free e := absurd e hf
  trigger := h.trigger
  armed := h.armed
  staging e := by cases e
  commit := h.commit
  output := by rw [h.output_off hr, decide_eq_false hr, Bool.false_and]
  position e := absurd e hr
  done := h.done
  due := h.due
  base _ := by dsimp only; rw [h.idle hr]; exact Nat.zero_le 1
  triggerDue := h.triggerDue

theorem Channel.Sound.staged (h : ch.Sound) (ho : ch.owner.isSome) (x : Option Staged) :
    ({ ch with staging := x } : Channel).Sound :=
  { h with
    free := fun e => absurd ho (by simp [h.owner_none e])
    staging := fun _ => ho }

theorem Channel.Sound.commitSet (h : ch.Sound) (ho : ch.owner.isSome) (hr : ch.state = .running) (x : Option Staged) :
    ({ ch with commit := x } : Channel).Sound :=
  { h with
    free := fun e => absurd ho (by simp [h.owner_none e])
    commit := fun _ => ⟨ho, hr⟩ }

theorem Channel.Sound.cancelled (h : ch.Sound) (ho : ch.owner.isSome) : ({ ch with commit := none } : Channel).Sound :=
  { h with
    free := fun e => absurd ho (by simp [h.owner_none e])
    commit := fun e => by cases e }

theorem Channel.Sound.commitStaged (h : ch.Sound) (ho : ch.owner.isSome) (x : Staged) : (ch.commitStaged x).1.Sound := by
  unfold Channel.commitStaged
  split_ifs with hr hc
  · exact h.configured (fun e => absurd ho (by simp [h.owner_none e])) hr _
  · exact h
  · exact ((h.staged ho none).commitSet ho (not_not.mp hr) (some x))

/-! ## Clock inputs (R51 to R58) -/

/-- A clock input handed to a RUNNING channel. -/
theorem Channel.Sound.handed (h : ch.Sound) (hr : ch.state = .running) (hb : ch.settings.clock = .base → ch.inputsDue = 0) :
    ({ ch with inputsDue := ch.inputsDue + 1 } : Channel).Sound :=
  { h with
    free := fun e => by rw [hr] at e; cases e
    due := fun _ => hr
    base := fun e => by dsimp only; rw [hb e] }

theorem Channel.Sound.handEdge (h : ch.Sound) (p : Pin) (e : Edge) : (ch.handEdge p e).Sound := by
  unfold Channel.handEdge
  split_ifs with ha hr
  · simp only [Bool.and_eq_true, decide_eq_true_eq] at ha
    exact { h with
      free := fun e => by rw [ha.1] at e; cases e
      triggerDue := fun _ => ha.1 }
  · simp only [Bool.and_eq_true, decide_eq_true_eq] at hr
    exact h.handed hr.1 fun e => by rw [hr.2] at e; cases e
  · exact h

theorem Channel.Sound.handChain (h : ch.Sound) (k : Chan) : (ch.handChain k).Sound := by
  unfold Channel.handChain
  split_ifs with hr
  · simp only [Bool.and_eq_true, decide_eq_true_eq] at hr
    exact h.handed hr.1 fun e => by rw [hr.2] at e; cases e
  · exact h

/-- A clock input taken at a RUNNING channel. -/
theorem Channel.Sound.taken (h : ch.Sound) (hr : ch.state = .running) : ch.taken.Sound :=
  { h with
    free := fun e => by rw [show ch.state = .free from e] at hr; cases hr
    due := fun _ => hr
    base := fun e => (Nat.sub_le ..).trans (h.base e) }

theorem Channel.Sound.raised (h : ch.Sound) (hr : ch.state = .running) (hn : ch.nextInput = .raise) : ch.raised.Sound := by
  have below : ch.phase.toNat + 1 < ch.settings.prescale := by
    have := (h.position hr).1
    unfold Channel.nextInput at hn
    split_ifs at hn
    omega
  have := ch.settings.prescale_le
  have phase : (ch.phase + 1).toNat = ch.phase.toNat + 1 := by
    rw [BitVec.toNat_add]
    exact Nat.mod_eq_of_lt (by simp; omega)
  exact { h with
    free := fun e => by rw [show ch.state = .free from e] at hr; cases hr
    position := fun _ => ⟨by rw [Channel.raised, phase]; exact below, (h.position hr).2⟩
    done := fun e => by rw [show ch.state = .done from e] at hr; cases hr }

/-- A RUNNING channel with its output evaluated anew (R53). -/
theorem Channel.Sound.evaluated {v : Channel} (h : ch.Sound) (hr : ch.state = .running)
    (hp : v.phase.toNat < ch.settings.prescale) (hc : v.count ≤ v.startValue)
    (hv : v = { ch with count := v.count, startValue := v.startValue, phase := v.phase }) : v.evalOutput.Sound := by
  rw [hv]
  exact {
    free := fun e => by rw [show ch.state = .free from e] at hr; cases hr
    trigger := h.trigger
    armed := h.armed
    staging := h.staging
    commit := h.commit
    output := rfl
    position := fun _ => ⟨hp, hc⟩
    done := fun e => by rw [show ch.state = .done from e] at hr; cases hr
    due := h.due
    base := h.base
    triggerDue := h.triggerDue }

theorem Channel.Sound.tick (h : ch.Sound) (hr : ch.state = .running) (hn : ch.nextInput = .tick) : ch.tick.Sound := by
  have pos : ch.count ≠ 0 := by
    unfold Channel.nextInput at hn
    split_ifs at hn
    assumption
  refine h.evaluated hr (v := { ch with phase := 0, count := ch.count - 1 }) ?_ ?_ rfl
  · simpa using ch.settings.prescale_pos
  · have := (h.position hr).2
    dsimp only
    bv_omega

theorem Channel.Sound.newPeriod (h : ch.Sound) (hr : ch.state = .running) (start : Word) : (ch.newPeriod start).Sound :=
  h.evaluated hr (v := { ch with count := start, startValue := start, phase := 0 })
    (by simpa using ch.settings.prescale_pos) (BitVec.le_refl _) rfl

theorem Channel.Sound.finish (h : ch.Sound) (hr : ch.state = .running) (hc : ch.commit = none) : ch.finish.Sound where
  free e := by cases e
  trigger := by simp [Channel.finish, h.trigger_none (show ch.state ≠ .armed by simp [hr])]
  armed e := by cases e
  staging := h.staging
  commit e := by rw [show ch.finish.commit = none from hc] at e; cases e
  output := rfl
  position e := by cases e
  done _ := ⟨rfl, rfl⟩
  due e := absurd e (lt_irrefl 0)
  base _ := Nat.zero_le 1
  triggerDue e := by rw [show ch.finish.triggerDue = false from h.not_triggerDue (by simp [hr])] at e; cases e

/-- A boundary overwrites the position and the output it finds. -/
theorem Channel.afterBoundary_evalOutput (ch : Channel) :
    ({ ch with phase := 0 } : Channel).evalOutput.afterBoundary = ch.afterBoundary := by
  unfold Channel.afterBoundary Channel.evalOutput
  dsimp only
  split <;> rfl

/-- A RUNNING channel at its boundary, with the settings record that a commit may have given it (R80 to R83). -/
theorem Channel.Sound.afterBoundary (h : ch.Sound) (hr : ch.state = .running) {r : Settings}
    (hc : r.clock = ch.settings.clock) : ({ ch with settings := r, commit := none } : Channel).afterBoundary.Sound := by
  have start : ({ ch with settings := r, commit := none, phase := 0 } : Channel).evalOutput.Sound := {
    free := fun e => by rw [show ch.state = .free from e] at hr; cases hr
    trigger := h.trigger
    armed := h.armed
    staging := h.staging
    commit := fun e => by cases e
    output := rfl
    position := fun _ => ⟨by simpa [Channel.evalOutput] using r.prescale_pos, (h.position hr).2⟩
    done := fun e => by rw [show ch.state = .done from e] at hr; cases hr
    due := h.due
    base := fun e => h.base (hc ▸ e)
    triggerDue := h.triggerDue }
  rw [← Channel.afterBoundary_evalOutput]
  generalize hv : ({ ch with settings := r, commit := none, phase := 0 } : Channel).evalOutput = v at start ⊢
  have run : v.state = .running := hv ▸ hr
  have none : v.commit = none := hv ▸ rfl
  unfold Channel.afterBoundary
  split
  · exact start.newPeriod run _
  · exact start.newPeriod run _
  · exact start.finish run none

/-- A channel that its owner lets go (R98). -/
theorem Channel.Sound.letGo (h : ch.Sound) (hf : ch.state ≠ .free) : ch.letGo.Sound := by
  have free : ch.letGo.state ≠ .free := by simp only [Channel.letGo]; split <;> simp_all
  have armed : ch.letGo.state ≠ .armed := by simp only [Channel.letGo]; split <;> simp_all
  have running : ch.letGo.state = .running ↔ ch.state = .running := by simp only [Channel.letGo]; split <;> simp_all
  have done : ch.letGo.state = .done ↔ ch.state = .done := by simp only [Channel.letGo]; split <;> simp_all
  exact {
    free := fun e => absurd e free
    trigger := iff_of_false (by simp [Channel.letGo]) armed
    armed := fun e => absurd e armed
    staging := fun e => by cases e
    commit := fun e => by cases e
    output := by
      have same : ch.letGo.outputNow = ch.outputNow := rfl
      rw [same, show ch.letGo.output = ch.output from rfl, h.output, decide_eq_decide.mpr running]
    position := fun e => h.position (running.mp e)
    done := fun e => h.done (done.mp e)
    due := fun e => running.mpr (h.due e)
    base := h.base
    triggerDue := fun e => by cases e }

end

end Sys2Proof.Machine
end

section
/-! PROOFS. References (R95 to R97): which states the settling of references and the recount put right, and that every event
and every effect ends in one of them. -/

namespace Sys2Proof.Machine

open Sys2Proof

/-- What the settling of references asks for: every channel by its state, and no FREE channel named. -/
structure State.Wired (s : State) : Prop where
  sound : ∀ k : Chan, (s.channel k).Sound
  tied : ∀ k : Chan, (s.channel k).state = .free → s.refsOf k = 0

/-- No orphan without references is left (R96). -/
def State.Kept (s : State) : Prop :=
  ∀ k : Chan, (s.channel k).owner = none → s.refsOf k = 0 → (s.channel k).state = .free

/-- The channels and the counts by their laws. -/
structure State.Ledger (s : State) : Prop extends s.Wired where
  kept : s.Kept
  counts : s.CountsOk

section
variable {s t : State}

theorem State.ledger_iff : s.Ledger ↔ s.ChannelsOk ∧ s.CountsOk := by
  refine ⟨fun h => ⟨fun k => Channel.ok_iff.mpr ⟨h.sound k, fun hf => ?_, fun ⟨ho, hr⟩ => ?_⟩, h.counts⟩,
    fun ⟨h, hc⟩ => ⟨⟨fun k => (Channel.ok_iff.mp (h k)).1, fun k hf => ?_⟩, fun k ho hr => ?_, hc⟩⟩
  · exact ⟨(h.sound k).owner_none hf, (h.counts.1 k).trans (h.tied k hf)⟩
  · exact h.kept k ho ((h.counts.1 k).symm.trans hr)
  · rw [← hc.1 k]; exact ((h k).1.mp hf).2
  · exact (h k).1.mpr ⟨ho, (hc.1 k).trans hr⟩

/-! ## The settling and the recount -/

theorem State.clock_settleRefs (s : State) (k : Chan) :
    (s.settleRefs.channel k).settings.clock = (s.channel k).settings.clock ∧
      (s.settleRefs.channel k).inputsDue = (s.channel k).inputsDue ∨
    (s.settleRefs.channel k).settings.clock = .base ∧ (s.settleRefs.channel k).inputsDue = 0 := by
  obtain e | ⟨e, -⟩ := s.settleRefs_cases k <;> rw [e]
  · exact .inl ⟨rfl, rfl⟩
  · exact .inr ⟨rfl, rfl⟩

/-- Freeing takes references away and gives none. -/
theorem State.refsOf_settleRefs_le (s : State) (k : Chan) : s.settleRefs.refsOf k ≤ s.refsOf k := by
  simp only [State.refsOf, State.settleRefs_claims]
  refine Nat.add_le_add_left (List.countP_mono_left fun j _ hj => ?_) _
  obtain same | cleared := s.clock_settleRefs j
  · rwa [same.1] at hj
  · rw [cleared.1] at hj
    simp at hj

theorem State.Wired.settleRefs (h : s.Wired) : s.settleRefs.Ledger := by
  have channel := State.channel_settleRefs fun k => (h.sound k).free
  refine ⟨⟨fun k => ?_, fun k hf => ?_⟩, fun k ho hr => ?_, s.settleRefs_countsOk⟩
  · rw [channel]; exact (h.sound k).settled _
  · rw [channel] at hf
    unfold Channel.settled at hf
    split at hf
    · next e => exact e.2
    · exact Nat.le_zero.mp ((s.refsOf_settleRefs_le k).trans (h.tied k hf).le)
  · rw [s.owner_settleRefs] at ho
    rw [channel, Channel.settled, if_pos ⟨ho, hr⟩]
    rfl

theorem State.Wired.recount (h : s.Wired) (hk : s.Kept) : s.recount.Ledger where
  sound k := by rw [State.channel_recount]; exact (h.sound k).refs _
  tied k hf := by
    rw [State.state_recount] at hf
    rw [State.refsOf_recount]; exact h.tied k hf
  kept k ho hr := by
    rw [s.owner_recount] at ho
    rw [State.refsOf_recount] at hr
    rw [State.state_recount]; exact hk k ho hr
  counts := s.recount_countsOk

/-! ## Frames -/

/-- What the references look at in a channel. -/
structure Channel.Kin (v w : Channel) : Prop where
  owner : w.owner = v.owner
  refs : w.refs = v.refs
  clock : w.settings.clock = v.settings.clock
  free : w.state = .free ↔ v.state = .free

theorem Channel.Kin.refl (v : Channel) : v.Kin v := ⟨rfl, rfl, rfl, Iff.rfl⟩

theorem State.Wired.mono (h : s.Wired) (hs : ∀ k, (t.channel k).Sound)
    (hf : ∀ k, (t.channel k).state = .free → (s.channel k).state = .free ∧ t.refsOf k ≤ s.refsOf k) : t.Wired :=
  ⟨hs, fun k e => Nat.le_zero.mp ((hf k e).2.trans (h.tied k (hf k e).1).le)⟩

/-- A change of the claims that takes references away at most. -/
theorem State.Wired.claims (h : s.Wired) (hk : t.channels = s.channels)
    (hc : ∀ k : Chan, t.claims.countP (·.names k) ≤ s.claims.countP (·.names k)) : t.Wired := by
  refine h.mono (fun k => ?_) fun k e => ⟨?_, ?_⟩
  · rw [State.channel_congr hk]; exact h.sound k
  · rwa [State.channel_congr hk] at e
  · simp only [State.refsOf, State.channel_congr hk]
    exact Nat.add_le_add_right (hc k) _

/-- An event that no count notices. -/
theorem State.Ledger.steady (h : s.Ledger) (sound : ∀ k, (t.channel k).Sound)
    (hk : ∀ k, (s.channel k).Kin (t.channel k))
    (hn : ∀ k : Chan, t.claims.countP (·.names k) = s.claims.countP (·.names k))
    (hc : ∀ c : Client, (t.claims.countP fun q => q.client = c) = s.claims.countP fun q => q.client = c)
    (hw : ∀ c : Client, (t.watches.countP fun w => w.client = c) = s.watches.countP fun w => w.client = c)
    (hs : ∀ c : Client, (t.session c).claimsHeld = (s.session c).claimsHeld ∧
      (t.session c).watchesHeld = (s.session c).watchesHeld ∧
      (t.session c).channelsOwned = (s.session c).channelsOwned) : t.Ledger := by
  have refs (k : Chan) : t.refsOf k = s.refsOf k := by simp only [State.refsOf, hn, (hk _).clock]
  refine ⟨⟨sound, fun k e => ?_⟩, fun k ho hr => ?_, fun k => ?_, fun c => ⟨?_, ?_, ?_⟩⟩
  · rw [refs]; exact h.tied k ((hk k).free.mp e)
  · rw [(hk k).owner] at ho
    rw [refs] at hr
    exact (hk k).free.mpr (h.kept k ho hr)
  · rw [(hk k).refs, refs]; exact h.counts.1 k
  · rw [(hs c).1, hc]; exact (h.counts.2 c).1
  · rw [(hs c).2.1, hw]; exact (h.counts.2 c).2.1
  · rw [(hs c).2.2]
    simp only [(hk _).owner]
    exact (h.counts.2 c).2.2

/-- An event at the channels that no count notices. -/
theorem State.Ledger.channels (h : s.Ledger) (sound : ∀ k, (t.channel k).Sound)
    (hk : ∀ k, (s.channel k).Kin (t.channel k)) (hc : t.claims = s.claims) (hw : t.watches = s.watches)
    (hs : t.sessions = s.sessions) : t.Ledger :=
  h.steady sound hk (fun k => by rw [hc]) (fun c => by rw [hc]) (fun c => by rw [hw])
    fun c => by rw [State.session_congr hs]; exact ⟨rfl, rfl, rfl⟩

theorem State.Ledger.congr (h : s.Ledger) (hk : t.channels = s.channels) (hc : t.claims = s.claims)
    (hw : t.watches = s.watches) (hs : t.sessions = s.sessions) : t.Ledger :=
  h.channels (fun k => by rw [State.channel_congr hk]; exact h.sound k)
    (fun k => by rw [State.channel_congr hk]; exact .refl _) hc hw hs

theorem State.Ledger.setChannel (h : s.Ledger) {k : Chan} {ch : Channel} (sound : ch.Sound)
    (kin : (s.channel k).Kin ch) : (s.setChannel k ch).Ledger := by
  refine h.channels (fun j => ?_) (fun j => ?_) (by simp) (by simp) (by simp) <;> rw [State.channel_setChannel]
  · split
    · exact sound
    · exact h.sound j
  · split
    · next e => exact e ▸ kin
    · exact .refl _

/-- A settled state that then takes notices and resolves its pins. -/
theorem State.Wired.settled (h : s.Wired) (hk : t.channels = s.settleRefs.channels) (hc : t.claims = s.settleRefs.claims)
    (hw : t.watches = s.settleRefs.watches) (hs : t.sessions = s.settleRefs.sessions) : t.Ledger :=
  h.settleRefs.congr hk hc hw hs

/-! ## Channels -/

theorem Channel.handEdge_kin (ch : Channel) (p : Pin) (e : Edge) : ch.Kin (ch.handEdge p e) := by
  unfold Channel.handEdge
  (repeat' split) <;> exact ⟨rfl, rfl, rfl, Iff.rfl⟩

theorem Channel.fresh_kin {ch : Channel} (hf : ch.state ≠ .free) : ch.Kin ch.fresh :=
  ⟨rfl, rfl, rfl, iff_of_false (by simp [Channel.fresh]) hf⟩

theorem State.Ledger.takeEdge (h : s.Ledger) (p : Pin) : (s.takeEdge p).Ledger :=
  h.channels (fun k => by rw [State.channel_takeEdge]; exact (h.sound k).handEdge _ _)
    (fun k => by rw [State.channel_takeEdge]; exact Channel.handEdge_kin _ _ _) (by simp) (by simp) (by simp)

theorem State.Ledger.startChans (h : s.Ledger) {ks : List Chan} (x : Option Client)
    (may : ∀ k ∈ ks, (s.channel k).owner.isSome ∧ (s.channel k).state ≠ .free) : (s.startChans ks x).Ledger := by
  refine h.channels (fun k => ?_) (fun k => ?_) (by simp) (by simp) (by simp) <;> rw [State.channel_startChans]
  · split
    · next hk => exact (h.sound k).fresh (may k hk).1
    · exact h.sound k
  · split
    · next hk => exact Channel.fresh_kin (may k hk).2
    · exact .refl _

/-- An activation takes from a claim the references of the change it had to come, at most (R12, R22). -/
theorem Claim.names_of_activated {q : Claim} {k : Chan} (h : q.activated.names k = true) : q.names k = true := by
  simp only [Claim.activated, Claim.names, Option.bind_none, Option.any_none, Bool.or_false, Bool.or_eq_true] at h ⊢
  cases hs : q.change.bind (·.source) with
  | none => rw [hs] at h; simp_all
  | some src => rw [hs] at h; simp_all

theorem State.countP_activate_le (hu : s.Unique) {k : Chan} (hn : (s.waitList k).Nodup) (j : Chan) :
    (s.activate k).claims.countP (·.names j) ≤ s.claims.countP (·.names j) := by
  rw [State.claims_activate_map hu hn, List.countP_map]
  refine List.countP_mono_left fun q _ hq => ?_
  simp only [Function.comp] at hq
  split at hq
  · exact Claim.names_of_activated hq
  · exact hq

end

end Sys2Proof.Machine
end

section
/-! PROOFS. Every event and every effect keeps the laws of the channels and of the counts (R49, R95 to R97, R120). -/

namespace Sys2Proof.Machine

open Sys2Proof

section
variable {s t : State}

/-! ## A boundary (R80 to R84) -/

theorem Channel.Sound.ended {ch : Channel} (h : ch.Sound) (hr : ch.state = .running) : ch.ended.Sound :=
  { h with
    free := fun e => by rw [show ch.state = .free from e] at hr; cases hr
    position := fun _ => ⟨by simpa [Channel.ended] using ch.settings.prescale_pos, (h.position hr).2⟩
    done := fun e => by rw [show ch.state = .done from e] at hr; cases hr }

theorem Channel.afterBoundary_clock (ch : Channel) : ch.afterBoundary.settings.clock = ch.settings.clock := by
  unfold Channel.afterBoundary; split <;> rfl

theorem Channel.afterBoundary_running {ch : Channel} (hr : ch.state = .running) : ch.afterBoundary.state ≠ .free := by
  unfold Channel.afterBoundary
  split
  · rw [show (ch.newPeriod _).state = ch.state from rfl, hr]; decide
  · rw [show (ch.newPeriod _).state = ch.state from rfl, hr]; decide
  · simp [Channel.finish]

theorem Channel.handChain_clock (ch : Channel) (k : Chan) : (ch.handChain k).settings.clock = ch.settings.clock := by
  unfold Channel.handChain; split <;> rfl

/-- The clock source of a channel through a boundary: a commit does not change it (R75). -/
theorem State.clock_boundaryDone (s : State) (k j : Chan) :
    ((s.boundaryDone k).channel j).settings.clock = (s.channel j).settings.clock := by
  rw [State.channel_boundaryDone, Channel.handChain_clock]
  split
  · next e =>
    rw [Channel.afterBoundary_clock, State.channel_boundaryCommit, if_pos rfl, ← e]
    dsimp only
    split <;> rfl
  · rfl

theorem State.claims_boundaryDone (s : State) (k : Chan) :
    (s.boundaryDone k).claims = ((s.boundaryCommit k).activate k).claims := by
  simp [State.boundaryDone]

/-- A boundary up to its settling of references. -/
theorem State.Wired.boundaryDone (h : s.Wired) (hu : s.Unique) {k : Chan} (hn : (s.waitList k).Nodup)
    (hr : (s.channel k).state = .running) : (s.boundaryDone k).Wired := by
  have committed : ((s.boundaryCommit k).channel k).state = .running := by
    rw [State.channel_boundaryCommit, if_pos rfl]; exact hr
  refine h.mono (fun j => ?_) fun j hf => ?_
  · rw [State.channel_boundaryDone]
    refine Channel.Sound.handChain ?_ k
    split
    · rw [State.channel_boundaryCommit, if_pos rfl]
      refine (h.sound k).afterBoundary hr ?_
      split <;> rfl
    · exact h.sound j
  · have names (i : Chan) : (s.boundaryDone k).claims.countP (·.names i) ≤ s.claims.countP (·.names i) := by
      have u : (s.boundaryCommit k).Unique := by rw [State.Unique, State.boundaryCommit_claims]; exact hu
      have n : ((s.boundaryCommit k).waitList k).Nodup := by rw [State.boundaryCommit_waitList]; exact hn
      rw [State.claims_boundaryDone]
      exact (State.countP_activate_le u n i).trans (by rw [State.boundaryCommit_claims])
    refine ⟨?_, ?_⟩
    · rw [State.channel_boundaryDone, Channel.handChain_state] at hf
      split at hf
      · exact absurd hf (Channel.afterBoundary_running committed)
      · exact hf
    · simp only [State.refsOf, State.clock_boundaryDone]
      exact Nat.add_le_add_right (names j) _

theorem State.Ledger.takeInput (h : s.Ledger) (hu : s.Unique) {k : Chan} (hn : (s.waitList k).Nodup)
    (hr : (s.channel k).state = .running) : (s.takeInput k).Ledger := by
  have taken := (h.sound k).taken hr
  cases hi : (s.channel k).taken.nextInput with
  | raise =>
    rw [State.takeInput_raise hi]
    exact h.setChannel (taken.raised hr hi) ⟨rfl, rfl, rfl, Iff.rfl⟩
  | tick =>
    rw [State.takeInput_tick hi]
    exact (h.setChannel (taken.tick hr hi) ⟨rfl, rfl, rfl, Iff.rfl⟩).congr (by simp) (by simp) (by simp) (by simp)
  | boundary =>
    rw [State.takeInput_boundary hi]
    have set : (s.setChannel k (s.channel k).taken.ended).Ledger :=
      h.setChannel (taken.ended hr) ⟨rfl, rfl, rfl, Iff.rfl⟩
    have run : ((s.setChannel k (s.channel k).taken.ended).channel k).state = .running := by
      rw [State.channel_setChannel, if_pos rfl]; exact hr
    exact (set.boundaryDone (k := k) (by rw [State.Unique, State.setChannel_claims]; exact hu)
      (by rw [State.waitList_setChannel]; exact hn) run).settled
      (by simp [State.boundary_eq]) (by simp [State.boundary_eq]) (by simp [State.boundary_eq])
      (by simp [State.boundary_eq])

/-! ## Removals and teardown (R20, R21, R98, R131) -/

theorem State.Wired.dropClaims (h : s.Wired) (gone : Client → Pin → Bool) : (s.dropClaims gone).Wired :=
  h.claims rfl fun _ => List.filter_sublist.countP_le

theorem State.Wired.claimsChanged {v : State} (h : v.Wired) (x : Option Client) : (s.claimsChanged x v).Ledger := by
  have told : (State.noteTops s x v).Wired :=
    h.claims (State.noteTops_channels ..) fun _ => by rw [State.noteTops_claims]
  exact told.settled (State.resolvePads_channels _) (State.resolvePads_claims _) (State.resolvePads_watches _)
    (State.resolvePads_sessions _)

theorem State.Ledger.letGo (h : s.Ledger) {k : Chan} {c : Client} (ho : (s.channel k).owner = some c) :
    (s.letGo k c).Ledger := by
  have used : (s.channel k).state ≠ .free := fun hf => by
    rw [(h.sound k).owner_none hf] at ho; cases ho
  have sound := (h.sound k).letGo used
  have free : (s.channel k).letGo.state ≠ .free := by simp only [Channel.letGo]; split <;> simp_all
  have set : (s.setChannel k (s.channel k).letGo).Wired := by
    refine h.mono (fun j => ?_) fun j hf => ?_
    · rw [State.channel_setChannel]
      split
      · exact sound
      · exact h.sound j
    · rw [State.channel_setChannel] at hf
      split at hf
      · exact absurd hf free
      · refine ⟨hf, (State.refsOf_congr (by simp) (fun i => ?_) j).le⟩
        rw [State.channel_setChannel]
        split
        · next e => subst e; rfl
        · rfl
  unfold State.letGo
  dsimp only
  split
  · exact set.settleRefs
  · exact set.settleRefs.congr (by simp) (by simp) (by simp) (by simp)

theorem State.Ledger.torn (h : s.Ledger) (c : Client) : (s.torn c).Ledger := by
  have claims : (s.tearClaims c).Ledger :=
    (h.dropClaims fun c' _ => c' = c).settleRefs.congr (by rw [State.tearClaims, State.noteTops_channels])
      (by rw [State.tearClaims, State.noteTops_claims]) (by rw [State.tearClaims, State.noteTops_watches])
      (by rw [State.tearClaims, State.noteTops_sessions])
  have watches : ((s.tearClaims c).tearWatches c).Ledger :=
    State.Wired.recount (claims.toWired.mono claims.sound fun _ hf => ⟨hf, le_refl _⟩) claims.kept
  refine foldl_inv (P := State.Ledger) (fun u k _ hu => ?_) watches
  split
  · next ho => exact hu.letGo ho
  · exact hu

theorem State.Ledger.teardown (h : s.Ledger) (c : Client) (cause : EndCause) : (s.teardown c cause).Ledger := by
  have torn := h.torn c
  refine torn.steady (fun k => by rw [State.channel_teardown]; exact torn.sound k)
    (fun k => by rw [State.channel_teardown]; exact .refl _) ?_ ?_ ?_ fun d => ?_
  · intro k; rw [State.teardown_eq]; simp
  · intro d; rw [State.teardown_eq]; simp
  · intro d; rw [State.teardown_eq]; simp
  · by_cases hd : d = c
    · subst hd
      rw [State.session_teardown_self_eq]
      generalize (s.torn d).session d = e
      exact ⟨rfl, rfl, rfl⟩
    · rw [State.session_teardown_ne s hd]; exact ⟨rfl, rfl, rfl⟩

theorem State.deviceReset_ledger (s : State) (cause : ResetCause) : (s.deviceReset cause).Ledger := by
  have refs (k : Chan) : (s.deviceReset cause).refsOf k = 0 := by
    have : (s.deviceReset cause).claims = [] := rfl
    simp [State.refsOf, this, Channel.cleared, Settings.cleared]
  refine ⟨⟨fun k => ?_, fun k _ => refs k⟩, fun k _ _ => ?_, fun k => ?_, fun c => ?_⟩
  · rw [State.deviceReset_channel]; exact Channel.cleared_sound
  · rw [State.deviceReset_channel]; rfl
  · rw [State.deviceReset_channel, refs]; rfl
  · rw [State.deviceReset_session]
    have : (s.deviceReset cause).claims = [] ∧ (s.deviceReset cause).watches = [] := ⟨rfl, rfl⟩
    simp [this, Session.atReset, Channel.cleared]

/-! ## Ticks -/

theorem Session.tick_counts (e : Session) : e.tick.claimsHeld = e.claimsHeld ∧ e.tick.watchesHeld = e.watchesHeld ∧
    e.tick.channelsOwned = e.channelsOwned := by
  unfold Session.tick
  (repeat' split) <;> exact ⟨rfl, rfl, rfl⟩

theorem Claim.tick_names (q : Claim) (k : Chan) : q.tick.names k = q.names k := by
  obtain ⟨-, -, -, source, -, wait, change⟩ := q.tick_fields
  simp only [Claim.names, source, wait, change]

theorem State.Ledger.tickComes (h : s.Ledger) : s.tickComes.Ledger := by
  refine h.steady (fun k => by simpa using h.sound k) (fun k => by simpa using Channel.Kin.refl _) (fun k => ?_)
    (fun c => ?_) (fun c => by simp) fun c => ?_
  · rw [State.claims_tickComes, List.countP_map]
    refine List.countP_congr fun q _ => ?_
    simp only [Function.comp]
    split
    · exact Iff.rfl
    · rw [q.tick_names]
  · rw [State.claims_tickComes, List.countP_map]
    refine List.countP_congr fun q _ => ?_
    simp only [Function.comp]
    split
    · exact Iff.rfl
    · rw [q.tick_fields.1]
  · rw [State.session_tickComes]
    split
    · exact ⟨rfl, rfl, rfl⟩
    · exact (s.session c).tick_counts

/-- A session changed but for its counts. -/
theorem State.Ledger.setSession (h : s.Ledger) {c : Client} {e : Session}
    (he : e.claimsHeld = (s.session c).claimsHeld ∧ e.watchesHeld = (s.session c).watchesHeld ∧
      e.channelsOwned = (s.session c).channelsOwned) : (s.setSession c e).Ledger := by
  refine h.steady h.sound (fun _ => .refl _) (fun _ => rfl) (fun _ => rfl) (fun _ => rfl) fun d => ?_
  rw [State.session_setSession]
  split
  · next e => exact e ▸ he
  · exact ⟨rfl, rfl, rfl⟩

/-! ## Every event -/

theorem Event.ledger (e : Event s t) (h : s.Ledger) (hl : s.PoolLists) (hw : s.WaitsOk) : t.Ledger := by
  cases e with
  | edge p => exact h.takeEdge p
  | edgeBegins p =>
    exact (h.takeEdge p).channels (fun k => by rw [State.channel_beginEdge]; exact (h.takeEdge p).sound k)
      (fun k => by rw [State.channel_beginEdge]; exact .refl _) (by simp) (by simp) (by simp)
  | input k running => exact h.takeInput hl.pool.unique (hw k).1 running
  | trigger k armed =>
    refine h.startChans none fun j hj => ?_
    rw [List.mem_singleton] at hj
    subst hj
    exact ⟨(h.sound j).armed armed, by simp [armed]⟩
  | tick => exact h.tickComes
  | hold c p =>
    rw [State.expireHold_eq]
    exact (State.Wired.claimsChanged (h.dropClaims _) none).congr (State.place_channels ..) (State.place_claims ..)
      (State.place_watches ..) (State.place_sessions ..)
  | lease c => exact (h.setSession (e := (s.session c).toGrace) ⟨rfl, rfl, rfl⟩).congr rfl rfl rfl rfl
  | grace c => exact h.teardown c .lapsed
  | reset cause => exact (s.deviceReset_ledger cause).congr rfl rfl rfl rfl
  | resetLasts => exact h.congr rfl rfl rfl rfl
  | resetEnds => exact h.congr (by simp) (by simp) (by simp) (by simp)
  | _ => exact h.congr (by simp) (by simp) (by simp) (by simp)

end

end Sys2Proof.Machine
end

section
/-! PROOFS. Every effect of a request keeps the laws of the channels and of the counts (R12, R61, R65, R93, R95 to R101). -/

namespace Sys2Proof.Machine

open Sys2Proof

section
variable {s t : State} {c : Client}

/-! ## Claims that come or change -/

/-- A claim names no FREE channel. -/
theorem State.Wired.not_free_of_names (h : s.Wired) {q : Claim} (hq : q ∈ s.claims) {k : Chan} (hk : q.names k = true) :
    (s.channel k).state ≠ .free := fun hf => by
  have pos : 0 < s.claims.countP (·.names k) := List.countP_pos_iff.mpr ⟨q, hq, hk⟩
  have := h.tied k hf
  unfold State.refsOf at this
  omega

/-- A CHAIN source is not FREE. -/
theorem State.Wired.not_free_of_chain (h : s.Wired) {k j : Chan} (hk : (s.channel k).settings.clock = .chain j) :
    (s.channel j).state ≠ .free := fun hf => by
  have pos : 0 < allChans.countP fun i => (s.channel i).settings.clock = .chain j :=
    List.countP_pos_iff.mpr ⟨k, mem_allChans k, decide_eq_true hk⟩
  have := h.tied j hf
  unfold State.refsOf at this
  omega

/-- Whatever names no FREE channel adds no reference to one. -/
theorem State.wired_of_not_free (sound : ∀ k : Chan, (t.channel k).Sound)
    (hc : ∀ q ∈ t.claims, ∀ k : Chan, q.names k = true → (t.channel k).state ≠ .free)
    (hk : ∀ k j : Chan, (t.channel k).settings.clock = .chain j → (t.channel j).state ≠ .free) : t.Wired where
  sound := sound
  tied k hf := by
    have claims : t.claims.countP (·.names k) = 0 := List.countP_eq_zero.mpr fun q hq hn => hc q hq k hn hf
    have chains : (allChans.countP fun j => (t.channel j).settings.clock = .chain k) = 0 :=
      List.countP_eq_zero.mpr fun j _ hj => hk j k (of_decide_eq_true hj) hf
    rw [State.refsOf, claims, chains]

/-- A claim that comes or changes, naming no FREE channel. -/
theorem State.Wired.withClaim (h : s.Wired) (hk : t.channels = s.channels) {q : Claim}
    (hc : ∀ r ∈ t.claims, r = q ∨ r ∈ s.claims) (hq : ∀ k : Chan, q.names k = true → (s.channel k).state ≠ .free) :
    t.Wired := by
  have channel := State.channel_congr hk
  refine State.wired_of_not_free (fun k => ?_) (fun r hr k hn => ?_) fun k j hj => ?_
  · rw [channel]; exact h.sound k
  · rw [channel]
    obtain rfl | hr := hc r hr
    · exact hq k hn
    · exact h.not_free_of_names hr hn
  · rw [channel] at hj ⊢
    exact h.not_free_of_chain hj

theorem State.claims_addClaim_cases {q : Claim} : ∀ r ∈ (s.addClaim q).claims, r = q ∨ r ∈ s.claims := fun r hr => by
  rw [State.addClaim_claims, List.mem_append, List.mem_singleton] at hr
  exact hr.symm

theorem State.claims_setClaim_cases {q : Claim} : ∀ r ∈ (s.setClaim q).claims, r = q ∨ r ∈ s.claims := fun r hr => by
  obtain ⟨r', hr', rfl⟩ := List.mem_map.mp hr
  split
  · exact .inl rfl
  · exact .inr hr'

theorem State.MayClaim.names {a : ClaimArgs} (may : s.MayClaim c a) {wait : Option Chan} (hw : ∀ k ∈ wait, a.wait = some k)
    (k : Chan) (hk : (newClaim c a wait).names k = true) : (s.channel k).state ≠ .free :=
  may.named k (((newClaim_names c a wait k).mp hk).imp_right fun e => hw k e)

theorem State.MayModify.names_source {q : Claim} {a : ModifyArgs} (may : s.MayModify c q a) (h : s.Wired) {k : Chan}
    (hk : (a.source.getD q.source).names k = true) : (s.channel k).state ≠ .free := by
  cases hs : a.source with
  | none =>
    rw [hs] at hk
    exact h.not_free_of_names (State.claimAt_mem may.claim).1 (Claim.names_of_source hk)
  | some src => rw [hs] at hk; exact may.named k (.inl (by rw [hs]; exact hk))

theorem State.MayModify.names_modified {q : Claim} {a : ModifyArgs} (may : s.MayModify c q a) (h : s.Wired) (k : Chan)
    (hk : (q.modified a).names k = true) : (s.channel k).state ≠ .free :=
  may.names_source h (by simpa [Claim.names, Claim.modified] using hk)

theorem State.MayModify.names_deferred {q : Claim} {a : ModifyArgs} (may : s.MayModify c q a) (h : s.Wired) {j : Chan}
    (hw : a.wait = some j) (k : Chan) (hk : (q.deferred a j).names k = true) : (s.channel k).state ≠ .free := by
  simp only [Claim.names, Claim.deferred, (q.rehold_fields a.hold).2.2.2.1, Option.bind_some, Bool.or_eq_true,
    decide_eq_true_eq] at hk
  obtain (hk | hk) | hk := hk
  · exact h.not_free_of_names (State.claimAt_mem may.claim).1 (Claim.names_of_source hk)
  · exact may.named k (.inl hk)
  · exact may.named k (.inr (hw.trans hk))

theorem State.Ledger.claimLive (h : s.Ledger) {a : ClaimArgs} (may : s.MayClaim c a) : (s.claimLive c a).Ledger := by
  obtain ⟨channels, counts⟩ := State.ledger_iff.mp h
  rw [State.claimLive_eq_changed channels counts]
  refine State.Wired.claimsChanged ?_ (some c)
  exact h.toWired.withClaim (by simp [State.entered])
    (fun r hr => State.claims_addClaim_cases r (by rwa [State.entered_claims] at hr)) (may.names (by simp))

theorem State.Ledger.claimPending (h : s.Ledger) {a : ClaimArgs} (may : s.MayClaim c a) {k : Chan} (hw : a.wait = some k) :
    (s.claimPending c a k).Ledger := by
  rw [State.claimPending_eq, ← State.settleRefs_of_le (State.ledger_iff.mp h).1 (by simp) fun j => ?_]
  · refine State.Wired.settleRefs (h.toWired.withClaim (by simp) (fun r hr => State.claims_addClaim_cases r hr) ?_)
    exact may.names fun j hj => hw.trans hj
  · rw [State.refsOf_congr (s := s.addClaim (newClaim c a (some k))) (by simp) (by simp), State.refsOf_addClaim, h.counts.1]
    exact Nat.le_add_right ..

theorem State.Ledger.modifyNow (h : s.Ledger) {q : Claim} {a : ModifyArgs} (may : s.MayModify c q a) :
    (s.modifyNow c q a).Ledger := by
  rw [State.modifyNow_eq_changed]
  refine State.Wired.claimsChanged ?_ (some c)
  exact h.toWired.withClaim (State.modifiedPool_channels ..)
    (fun r hr => State.claims_setClaim_cases r (by rwa [State.modifiedPool_claims] at hr)) (may.names_modified h.toWired)

theorem State.Ledger.modifyLater (h : s.Ledger) {q : Claim} {a : ModifyArgs} (may : s.MayModify c q a) {k : Chan}
    (hw : a.wait = some k) : (s.modifyLater c q a k).Ledger := by
  rw [State.modifyLater_eq]
  exact State.Wired.settleRefs (h.toWired.withClaim (by simp) (fun r hr => State.claims_setClaim_cases r hr)
    (may.names_deferred h.toWired hw))

/-! ## Channels -/

/-- A recount of a state whose channels are in use as before. -/
theorem State.Ledger.recounted (h : s.Ledger) (sound : ∀ k, (t.channel k).Sound)
    (clock : ∀ k, (t.channel k).settings.clock = (s.channel k).settings.clock)
    (free : ∀ k, (t.channel k).state = .free → (s.channel k).state = .free)
    (kept : ∀ k, (t.channel k).owner = none →
      (s.channel k).owner = none ∧ ((s.channel k).state = .free → (t.channel k).state = .free))
    (hc : t.claims = s.claims) : t.recount.Ledger := by
  have refs := State.refsOf_congr hc clock
  refine State.Wired.recount (h.toWired.mono sound fun k hf => ⟨free k hf, (refs k).le⟩) fun k ho hr => ?_
  rw [refs] at hr
  exact (kept k ho).2 (h.kept k (kept k ho).1 hr)

theorem State.Ledger.bindTo (h : s.Ledger) {k : Chan} (hf : (s.channel k).state = .free) : (s.bindTo k c).Ledger := by
  refine h.recounted (fun j => ?_) (fun j => ?_) (fun j => ?_) (fun j => ?_) (by simp) <;>
    rw [State.channel_setChannel] <;> split
  · exact (h.sound k).bound hf c
  · exact h.sound j
  · next e => rw [← e]
  · rfl
  · exact fun e => by cases e
  · exact id
  · exact fun e => by cases e
  · exact fun e => ⟨e, id⟩

theorem Channel.Sound.adopted {ch : Channel} (h : ch.Sound) (hf : ch.state ≠ .free) (c : Client) :
    ({ ch with owner := some c } : Channel).Sound :=
  { h with
    free := fun e => absurd e hf
    armed := fun _ => rfl
    staging := fun _ => rfl
    commit := fun e => ⟨rfl, (h.commit e).2⟩ }

theorem State.Ledger.adopt (h : s.Ledger) {k : Chan} (hf : (s.channel k).state ≠ .free) : (s.adopt k c).Ledger := by
  have set : (s.setChannel k { s.channel k with owner := some c }).recount.Ledger := by
    refine h.recounted (fun j => ?_) (fun j => ?_) (fun j => ?_) (fun j => ?_) (by simp) <;>
      rw [State.channel_setChannel] <;> split
    · exact (h.sound k).adopted hf c
    · exact h.sound j
    · next e => rw [← e]
    · rfl
    · next e => exact fun hs => absurd hs hf
    · exact id
    · exact fun e => by cases e
    · exact fun e => ⟨e, id⟩
  exact set.congr (State.noteSource_channels ..) (State.noteSource_claims ..) (State.noteSource_watches ..)
    (State.noteSource_sessions ..)

theorem State.Ledger.configure (h : s.Ledger) {k : Chan} {r : Settings}
    (idle : (s.channel k).state = .stopped ∨ (s.channel k).state = .done) (chain : s.chainCheck k r.clock = none) :
    (s.configure k r).Ledger := by
  have used : (s.channel k).state ≠ .free := by rcases idle with e | e <;> simp [e]
  have rest : (s.channel k).state ≠ .running := by rcases idle with e | e <;> simp [e]
  have state (j : Chan) : ((s.setChannel k { s.channel k with settings := r, staging := none }).channel j).state =
      (s.channel j).state := by
    rw [State.channel_setChannel]
    split
    · next e => rw [← e]
    · rfl
  refine State.Wired.settleRefs (State.wired_of_not_free (fun j => ?_) (fun q hq j hn => ?_) fun i j hi => ?_)
  · rw [State.channel_setChannel]
    split
    · exact (h.sound k).configured used rest r
    · exact h.sound j
  · rw [state]; exact h.not_free_of_names (by simpa using hq) hn
  · rw [state]
    rw [State.channel_setChannel] at hi
    split at hi
    · intro hf
      rw [show r.clock = .chain j from hi] at chain
      simp [State.chainCheck, hf] at chain
    · exact h.not_free_of_chain hi

theorem State.Ledger.stopRunning (h : s.Ledger) (hu : s.Unique) {k : Chan} (hn : (s.waitList k).Nodup)
    (hr : (s.channel k).state = .running) : (s.stopRunning k c).Ledger := by
  have clock (j : Chan) : ((s.stopped k).channel j).settings.clock = (s.channel j).settings.clock := by
    rw [State.channel_stopped]
    split
    · next e => rw [← e]
    · rfl
  have wired : (((s.stopped k).activate k).noteSource k (some c)).Wired := by
    refine h.toWired.mono (fun j => ?_) fun j hf => ?_
    · rw [State.noteSource_channel, State.activate_channel, State.channel_stopped]
      split
      · exact (h.sound k).stopped hr
      · exact h.sound j
    · have names : (((s.stopped k).activate k).noteSource k (some c)).claims.countP (·.names j) ≤
          s.claims.countP (·.names j) := by
        rw [State.noteSource_claims]
        refine (State.countP_activate_le ?_ ?_ j).trans ?_
        · rw [State.Unique, State.stopped_claims]; exact hu
        · rw [State.waitList_congr (s.stopped_waitLists k)]; exact hn
        · rw [State.stopped_claims]
      rw [State.noteSource_channel, State.activate_channel, State.channel_stopped] at hf
      refine ⟨?_, ?_⟩
      · split at hf
        · cases hf
        · exact hf
      · simp only [State.refsOf, State.noteSource_channel, State.activate_channel, clock]
        exact Nat.add_le_add_right names _
  rw [State.stopRunning_eq]
  exact wired.settleRefs.congr (State.resolvePads_channels _) (State.resolvePads_claims _) (State.resolvePads_watches _)
    (State.resolvePads_sessions _)

theorem State.Ledger.recountWatches (h : s.Ledger) (l : List Watch) : (State.recount { s with watches := l }).Ledger :=
  h.recounted (t := { s with watches := l }) h.sound (fun _ => rfl) (fun _ => id) (fun _ e => ⟨e, id⟩) rfl

theorem Channel.commitStaged_kin (ch : Channel) (x : Staged) : ch.Kin (ch.commitStaged x).1 := by
  unfold Channel.commitStaged
  (repeat' split) <;> exact ⟨rfl, rfl, rfl, Iff.rfl⟩

/-! ## Every effect -/

theorem Effect.ledger (e : Effect c s t) (h : s.Ledger) (hl : s.PoolLists) (hw : s.WaitsOk) : t.Ledger := by
  have owned {k : Chan} (ho : (s.channel k).owner = some c) : (s.channel k).owner.isSome := by rw [ho]; rfl
  have used {k : Chan} (ho : (s.channel k).owner = some c) : (s.channel k).state ≠ .free := fun hf => by
    rw [(h.sound k).owner_none hf] at ho; cases ho
  cases e with
  | unchanged => exact h
  | opens lease => exact h.setSession ⟨rfl, rfl, rfl⟩
  | closes => exact h.teardown c .closed
  | resets => exact (s.deviceReset_ledger .resetCommand).congr (by simp) (by simp) (by simp) (by simp)
  | setsPolicy p e =>
    have edge : (if (s.pad p).tickDue = true then s.takeEdge p else s).Ledger := by
      split
      · exact h.takeEdge p
      · exact h
    exact edge.congr (by simp [State.writePolicy]) (by simp [State.writePolicy]) (by simp [State.writePolicy])
      (by simp [State.writePolicy])
  | claimsLive a may => exact h.claimLive may
  | claimsPending a k may wait => exact h.claimPending may wait
  | modifiesNow q a may => exact h.modifyNow may
  | modifiesLater q a k may wait => exact h.modifyLater may wait
  | releases p q => exact State.Wired.claimsChanged (h.dropClaims _) (some c)
  | binds k _ free => exact h.bindTo free
  | configures k r _ idle chain => exact h.configure idle chain
  | stages k x owner => exact h.setChannel ((h.sound k).staged (owned owner) _) ⟨rfl, rfl, rfl, Iff.rfl⟩
  | commits k x owner =>
    exact h.setChannel ((h.sound k).commitStaged (owned owner) x) (Channel.commitStaged_kin _ x)
  | cancels k owner => exact h.setChannel ((h.sound k).cancelled (owned owner)) ⟨rfl, rfl, rfl, Iff.rfl⟩
  | starts ks may => exact h.startChans _ fun k hk => ⟨owned (may k hk).1, used (may k hk).1⟩
  | arms k p e owner idle =>
    exact h.setChannel ((h.sound k).armedAt idle (owned owner) _) ⟨rfl, rfl, rfl, iff_of_false (by simp) (used owner)⟩
  | stops k _ running => exact h.stopRunning hl.pool.unique (hw k).1 running
  | disarms k owner armed =>
    exact h.setChannel ((h.sound k).disarmed armed) ⟨rfl, rfl, rfl, iff_of_false (by simp) (used owner)⟩
  | releasesChannel k owner => exact h.letGo owner
  | adopts k _ inUse => exact h.adopt inUse
  | replacesWatch w =>
    refine h.steady h.sound (fun _ => .refl _) (fun _ => rfl) (fun _ => rfl) (fun d => ?_) fun _ => ⟨rfl, rfl, rfl⟩
    rw [show (s.setWatch w).watches = s.watches.map _ from rfl, List.countP_map]
    refine List.countP_congr fun v _ => ?_
    simp only [Function.comp]
    split
    · next e => simp only [Bool.and_eq_true, decide_eq_true_eq] at e; rw [e.1]
    · exact Iff.rfl
  | addsWatch w => exact h.recountWatches _
  | dropsWatch p => exact h.recountWatches _
  | fetches n => exact h.congr (by simp) (by simp) (by simp) (by simp)

end

end Sys2Proof.Machine
end

section
/-! PROOFS. Clock sources (R56 to R59): no event gives a channel a new source, or a channel on BASE an input of its own; a
CONFIGURE that passes its checks closes no loop; and a base tick finds no channel with an input of the last one. -/

namespace Sys2Proof.Machine

open Sys2Proof

/-! ## Sources and inputs -/

/-- A channel that kept its clock source, with no input more where that is BASE; or one that was freed. -/
def Channel.Slows (v w : Channel) : Prop :=
  w.settings.clock = v.settings.clock ∧ (v.settings.clock = .base → w.inputsDue ≤ v.inputsDue) ∨
    w.settings.clock = .base ∧ w.inputsDue = 0

theorem Channel.Slows.refl (v : Channel) : v.Slows v := .inl ⟨rfl, fun _ => le_refl _⟩

theorem Channel.Slows.trans {u v w : Channel} (a : u.Slows v) (b : v.Slows w) : u.Slows w := by
  obtain ⟨hc, hd⟩ | b := b
  · obtain ⟨hc', hd'⟩ | ⟨hc', hd'⟩ := a
    · exact .inl ⟨hc.trans hc', fun e => (hd (hc'.trans e)).trans (hd' e)⟩
    · exact .inr ⟨hc.trans hc', Nat.le_zero.mp ((hd hc').trans hd'.le)⟩
  · exact .inr b

/-- Every channel kept its clock source or was freed. -/
def Slower (s t : State) : Prop := ∀ k : Chan, (s.channel k).Slows (t.channel k)

section
variable {s t u : State}

theorem Slower.refl (s : State) : Slower s s := fun _ => .refl _

theorem Slower.trans (a : Slower s t) (b : Slower t u) : Slower s u := fun k => (a k).trans (b k)

theorem Slower.of_same (h : ∀ k : Chan, t.channel k = s.channel k) : Slower s t := fun k => by rw [h]; exact .refl _

theorem Slower.setChannel (s : State) (k : Chan) {ch : Channel} (h : (s.channel k).Slows ch) :
    Slower s (s.setChannel k ch) :=
  fun j => by
    rw [State.channel_setChannel]
    split
    · next e => exact e ▸ h
    · exact .refl _

theorem Slower.settleRefs (s : State) : Slower s s.settleRefs := fun k => by
  obtain ⟨hc, hd⟩ | e := s.clock_settleRefs k
  · exact .inl ⟨hc, fun _ => hd.le⟩
  · exact .inr e

theorem Slower.recount (s : State) : Slower s s.recount := fun k => by rw [State.channel_recount]; exact .refl _

theorem Channel.handEdge_slows (ch : Channel) (p : Pin) (e : Edge) : ch.Slows (ch.handEdge p e) := by
  unfold Channel.handEdge
  split_ifs with ha hr
  · exact .inl ⟨rfl, fun _ => le_refl _⟩
  · simp only [Bool.and_eq_true, decide_eq_true_eq] at hr
    exact .inl ⟨rfl, fun e => by rw [hr.2] at e; cases e⟩
  · exact .refl _

theorem Channel.handChain_slows (ch : Channel) (k : Chan) : ch.Slows (ch.handChain k) := by
  unfold Channel.handChain
  split_ifs with hr
  · simp only [Bool.and_eq_true, decide_eq_true_eq] at hr
    exact .inl ⟨rfl, fun e => by rw [hr.2] at e; cases e⟩
  · exact .refl _

theorem Channel.afterBoundary_slows (ch : Channel) : ch.Slows ch.afterBoundary := by
  unfold Channel.afterBoundary
  split
  · exact .inl ⟨rfl, fun _ => le_refl _⟩
  · exact .inl ⟨rfl, fun _ => le_refl _⟩
  · exact .inl ⟨rfl, fun _ => Nat.zero_le _⟩

theorem Slower.takeEdge (s : State) (p : Pin) : Slower s (s.takeEdge p) := fun k => by
  rw [State.channel_takeEdge]; exact Channel.handEdge_slows ..

theorem Slower.boundaryDone (s : State) (k : Chan) : Slower s (s.boundaryDone k) := fun j => by
  rw [State.channel_boundaryDone]
  refine Channel.Slows.trans ?_ (Channel.handChain_slows _ k)
  split
  · next e =>
    subst e
    refine Channel.Slows.trans ?_ (Channel.afterBoundary_slows _)
    rw [State.channel_boundaryCommit, if_pos rfl]
    refine .inl ⟨?_, fun _ => le_refl _⟩
    dsimp only
    split <;> rfl
  · exact .refl _

/-- An input taken at a channel leaves it with one less, where it is on BASE. -/
theorem State.takeInput_slows (s : State) (k : Chan) :
    Slower s (s.takeInput k) ∧ (s.channel k).taken.Slows ((s.takeInput k).channel k) := by
  have taken : (s.channel k).Slows (s.channel k).taken := .inl ⟨rfl, fun _ => Nat.sub_le ..⟩
  obtain ⟨v, hv, step⟩ : ∃ v : Channel, (s.channel k).taken.Slows v ∧ Slower (s.setChannel k v) (s.takeInput k) := by
    obtain e | e | e := s.takeInput_cases k <;> rw [e]
    · exact ⟨(s.channel k).taken.raised, .inl ⟨rfl, fun _ => le_refl _⟩, .refl _⟩
    · exact ⟨(s.channel k).taken.tick, .inl ⟨rfl, fun _ => le_refl _⟩, .of_same fun j => State.resolvePads_channel _ j⟩
    · refine ⟨(s.channel k).taken.ended, .inl ⟨rfl, fun _ => le_refl _⟩, ?_⟩
      rw [State.boundary_eq]
      exact ((Slower.boundaryDone _ k).trans (.settleRefs _)).trans (.of_same fun j => State.resolvePads_channel _ j)
  refine ⟨(Slower.setChannel s k (taken.trans hv)).trans step, hv.trans ?_⟩
  have self := step k
  rwa [State.channel_setChannel, if_pos rfl] at self

theorem Channel.fresh_slows (ch : Channel) : ch.Slows ch.fresh := .inl ⟨rfl, fun _ => Nat.zero_le _⟩

theorem Slower.startChans (s : State) (ks : List Chan) (x : Option Client) : Slower s (s.startChans ks x) := fun k => by
  rw [State.channel_startChans]
  split
  · exact Channel.fresh_slows _
  · exact .refl _

theorem Slower.letGo (s : State) (k : Chan) (c : Client) : Slower s (s.letGo k c) := by
  have set : Slower s (s.setChannel k (s.channel k).letGo) := .setChannel s k (.inl ⟨rfl, fun _ => le_refl _⟩)
  unfold State.letGo
  dsimp only
  split
  · exact set.trans (.settleRefs _)
  · exact (set.trans (.settleRefs _)).trans (.of_same fun j => State.noteSource_channel ..)

theorem Slower.teardown (s : State) (c : Client) (cause : EndCause) : Slower s (s.teardown c cause) := by
  have claims : Slower s (s.tearClaims c) :=
    (Slower.of_same (t := s.dropClaims fun c' _ => c' = c) fun _ => rfl).trans
      ((Slower.settleRefs _).trans (.of_same fun j => State.noteTops_channel ..))
  have watches : Slower s ((s.tearClaims c).tearWatches c) := claims.trans fun k => by
    rw [State.channel_tearWatches]; exact .refl _
  have channels : Slower s (s.torn c) := by
    unfold State.torn State.tearChannels
    refine foldl_inv (P := Slower s) (fun t k _ ht => ?_) watches
    split
    · exact ht.trans (.letGo t k c)
    · exact ht
  exact channels.trans (.of_same fun k => State.channel_teardown ..)

theorem Slower.claimsChanged (s v : State) (x : Option Client) (hk : v.channels = s.channels) :
    Slower s (s.claimsChanged x v) :=
  (Slower.of_same (t := State.noteTops s x v) fun k => by rw [State.noteTops_channel, State.channel_congr hk]).trans
    ((Slower.settleRefs _).trans (.of_same fun j => State.resolvePads_channel _ j))

theorem Slower.deviceReset (s : State) (cause : ResetCause) : Slower s (s.deviceReset cause) := fun k => by
  rw [State.deviceReset_channel]; exact .inr ⟨rfl, rfl⟩

theorem Event.slower (e : Event s t) : Slower s t := by
  cases e with
  | edge p => exact .takeEdge s p
  | edgeBegins p => exact (Slower.takeEdge s p).trans (.of_same fun k => s.channel_beginEdge p k)
  | input k => exact (s.takeInput_slows k).1
  | trigger k => exact .startChans s [k] none
  | hold c p =>
    rw [State.expireHold_eq]
    exact (Slower.claimsChanged s (s.without c p) none rfl).trans (.of_same fun k => State.place_channel ..)
  | grace c => exact .teardown s c .lapsed
  | reset cause => exact (Slower.deviceReset s cause).trans (.of_same fun _ => rfl)
  | resetLasts => exact .of_same fun _ => rfl
  | resetEnds => exact .of_same fun k => by rw [State.firstSamples_channel]; rfl
  | _ => exact .of_same (by simp)

/-- An effect gives no channel a new clock source, but for a CONFIGURE that passes the checks of R60. -/
theorem Effect.slower {c : Client} (e : Effect c s t) : Slower s t ∨
    ∃ k r, s.chainCheck k r.clock = none ∧ t = s.configure k r := by
  cases e with
  | configures k r _ _ chain => exact .inr ⟨k, r, chain, rfl⟩
  | closes => exact .inl (.teardown s c .closed)
  | resets => exact .inl ((Slower.deviceReset s .resetCommand).trans (.of_same fun k => by simp))
  | setsPolicy p e =>
    refine .inl ?_
    have edge : Slower s (if (s.pad p).tickDue = true then s.takeEdge p else s) := by
      split
      · exact .takeEdge s p
      · exact .refl s
    exact edge.trans (.of_same fun k => by simp [State.writePolicy])
  | claimsLive a =>
    have told : Slower s (State.noteTops s (some c) ((s.addClaim (newClaim c a none)).enterList c a.pin)) :=
      .of_same fun k => by simp
    exact .inl (told.trans ((Slower.recount _).trans (.of_same fun k => State.resolvePads_channel ..)))
  | claimsPending a k =>
    have entered : Slower s ((s.addClaim (newClaim c a (some k))).enterWait c a.pin k) := .of_same fun k => by simp
    exact .inl (entered.trans (.recount _))
  | modifiesNow q a =>
    rw [State.modifyNow_eq_changed]
    exact .inl (.claimsChanged s _ _ (State.modifiedPool_channels ..))
  | modifiesLater q a k =>
    have entered : Slower s ((s.setClaim (q.deferred a k)).enterWait c q.pin k) := .of_same fun k => by simp
    exact .inl (entered.trans (.settleRefs _))
  | releases p q =>
    rw [State.releaseClaim_eq]
    exact .inl (.claimsChanged s (s.without c p) _ rfl)
  | binds k =>
    have bound : Slower s (s.setChannel k { s.channel k with state := .stopped, owner := some c }) :=
      .setChannel s k (.inl ⟨rfl, fun _ => le_refl _⟩)
    exact .inl (bound.trans (.recount _))
  | commits k x =>
    refine .inl (.setChannel s k ?_)
    unfold Channel.commitStaged
    (repeat' split) <;> exact .inl ⟨rfl, fun _ => le_refl _⟩
  | stages k => exact .inl (.setChannel s k (.inl ⟨rfl, fun _ => le_refl _⟩))
  | cancels k => exact .inl (.setChannel s k (.inl ⟨rfl, fun _ => le_refl _⟩))
  | arms k => exact .inl (.setChannel s k (.inl ⟨rfl, fun _ => le_refl _⟩))
  | disarms k => exact .inl (.setChannel s k (.inl ⟨rfl, fun _ => le_refl _⟩))
  | starts ks => exact .inl (.startChans s ks _)
  | stops k =>
    have stopped : Slower s (((s.stopped k).activate k).noteSource k (some c)) := fun j => by
      rw [State.noteSource_channel, State.activate_channel, State.channel_stopped]
      split
      · next e => subst e; exact .inl ⟨rfl, fun _ => Nat.zero_le _⟩
      · exact .refl _
    rw [State.stopRunning_eq]
    exact .inl ((stopped.trans (.settleRefs _)).trans (.of_same fun j => State.resolvePads_channel _ j))
  | releasesChannel k => exact .inl (.letGo s k c)
  | adopts k =>
    have owned : Slower s (s.setChannel k { s.channel k with owner := some c }) :=
      .setChannel s k (.inl ⟨rfl, fun _ => le_refl _⟩)
    exact .inl ((owned.trans (.recount _)).trans (.of_same fun j => State.noteSource_channel ..))
  | addsWatch w => exact .inl (.trans (.of_same (t := { s with watches := s.watches ++ [w] }) fun _ => rfl) (.recount _))
  | dropsWatch p => exact .inl (.trans (.of_same (t := { s with watches := _ }) fun _ => rfl) (.recount _))
  | _ => exact .inl (.of_same (by simp))

end

end Sys2Proof.Machine
end

section
/-! PROOFS. CHAIN sources lead into no loop (R59, R60), and a base tick finds no channel on BASE with an input (R56). -/

namespace Sys2Proof.Machine

open Sys2Proof

section
variable {s t : State}

/-! ## Walks along the CHAIN sources -/

/-- The channel that a channel is chained from. -/
def State.chainOf (s : State) (k : Chan) : Option Chan :=
  match (s.channel k).settings.clock with
  | .chain j => some j
  | .base | .pin _ _ => none

theorem State.chainOf_eq_some {k j : Chan} : s.chainOf k = some j ↔ (s.channel k).settings.clock = .chain j := by
  unfold State.chainOf
  split <;> simp_all

/-- The channel that `n` CHAIN sources lead to. -/
def State.walk (s : State) : Nat → Chan → Option Chan
  | 0, j => some j
  | n + 1, j => (s.chainOf j).bind (s.walk n)

theorem State.walk_add (s : State) (m n : Nat) (j : Chan) : s.walk (m + n) j = (s.walk m j).bind (s.walk n) := by
  induction m generalizing j with
  | zero => rw [Nat.zero_add]; rfl
  | succ m ih =>
    rw [Nat.succ_add]
    simp only [State.walk]
    cases s.chainOf j with
    | none => rfl
    | some i => exact ih i

/-- The walk of R59 reaches a channel where fewer CHAIN sources than its fuel lead there. -/
theorem State.chainReaches_iff {k : Chan} {fuel : Nat} {j : Chan} :
    s.chainReaches k fuel j = true ↔ ∃ n < fuel, s.walk n j = some k := by
  induction fuel generalizing j with
  | zero => simp [State.chainReaches]
  | succ fuel ih =>
    rw [State.chainReaches]
    by_cases hj : j = k
    · rw [if_pos hj]
      exact ⟨fun _ => ⟨0, Nat.succ_pos _, congrArg some hj⟩, fun _ => rfl⟩
    · rw [if_neg hj]
      have step : (match (s.channel j).settings.clock with
          | .chain i => s.chainReaches k fuel i
          | .base | .pin _ _ => false) = true ↔ ∃ i, s.chainOf j = some i ∧ s.chainReaches k fuel i = true := by
        unfold State.chainOf
        split <;> simp_all
      refine step.trans ?_
      constructor
      · rintro ⟨i, hi, hr⟩
        obtain ⟨n, hn, hw⟩ := ih.mp hr
        exact ⟨n + 1, Nat.succ_lt_succ hn, by rw [State.walk, hi]; exact hw⟩
      · rintro ⟨n, hn, hw⟩
        cases n with
        | zero => exact absurd (Option.some.inj hw) hj
        | succ n =>
          rw [State.walk, Option.bind_eq_some_iff] at hw
          obtain ⟨i, hi, hw⟩ := hw
          exact ⟨i, hi, ih.mpr ⟨n, Nat.lt_of_succ_lt_succ hn, hw⟩⟩

/-- No walk of at most six CHAIN sources comes back (R59). -/
theorem State.noLoops_iff : s.NoLoops ↔ ∀ k j : Chan, s.chainOf k = some j → ∀ n < 6, s.walk n j ≠ some k := by
  unfold State.NoLoops
  refine forall_congr' fun k => forall_congr' fun j => ?_
  rw [State.chainOf_eq_some, ← Bool.not_eq_true, State.chainReaches_iff]
  simp only [not_exists, not_and, ne_eq]

/-! ## Sources that stay or go -/

theorem State.walk_mono (h : ∀ k j : Chan, t.chainOf k = some j → s.chainOf k = some j) {n : Nat} {j k : Chan}
    (hw : t.walk n j = some k) : s.walk n j = some k := by
  induction n generalizing j with
  | zero => exact hw
  | succ n ih =>
    rw [State.walk, Option.bind_eq_some_iff] at hw ⊢
    obtain ⟨i, hi, hw⟩ := hw
    exact ⟨i, h j i hi, ih hw⟩

theorem State.noLoops_mono (h : ∀ k j : Chan, t.chainOf k = some j → s.chainOf k = some j) (hs : s.NoLoops) : t.NoLoops :=
  State.noLoops_iff.mpr fun k j hk n hn hw => State.noLoops_iff.mp hs k j (h k j hk) n hn (State.walk_mono h hw)

theorem Slower.chainOf (h : Slower s t) {k j : Chan} (hk : t.chainOf k = some j) : s.chainOf k = some j := by
  rw [State.chainOf_eq_some] at hk ⊢
  obtain ⟨hc, -⟩ | ⟨hb, -⟩ := h k
  · exact hc.symm.trans hk
  · rw [hb] at hk; cases hk

theorem Slower.noLoops (h : Slower s t) (hs : s.NoLoops) : t.NoLoops := State.noLoops_mono (fun _ _ => h.chainOf) hs

/-! ## A source that is set -/

/-- A walk once channel `k` has the CHAIN source `j`: it was there before, or it goes through `k` and on from `j`. -/
theorem State.walk_set {k j : Chan} (hk : ∀ i, t.chainOf k = some i → i = j)
    (same : ∀ i, i ≠ k → t.chainOf i = s.chainOf i) {n : Nat} {b a : Chan} (hw : t.walk n b = some a) :
    s.walk n b = some a ∨ ∃ m l, m + 1 + l ≤ n ∧ s.walk m b = some k ∧ s.walk l j = some a := by
  induction n generalizing b with
  | zero => exact .inl hw
  | succ n ih =>
    rw [State.walk, Option.bind_eq_some_iff] at hw
    obtain ⟨i, hi, hw⟩ := hw
    by_cases hb : b = k
    · subst hb
      obtain rfl := hk i hi
      obtain hs | ⟨m, l, hl, -, hs⟩ := ih hw
      · exact .inr ⟨0, n, by omega, rfl, hs⟩
      · exact .inr ⟨0, l, by omega, rfl, hs⟩
    · rw [same b hb] at hi
      obtain hs | ⟨m, l, hl, hm, hs⟩ := ih hw
      · exact .inl (by rw [State.walk, hi]; exact hs)
      · exact .inr ⟨m + 1, l, by omega, by rw [State.walk, hi]; exact hm, hs⟩

/-- A source that the walk of R59 does not lead back from closes no loop. -/
theorem State.noLoops_set {k j : Chan} (hk : ∀ i, t.chainOf k = some i → i = j)
    (same : ∀ i, i ≠ k → t.chainOf i = s.chainOf i) (hs : s.NoLoops) (check : s.chainReaches k 6 j = false) :
    t.NoLoops := by
  have no_way : ∀ n < 6, s.walk n j ≠ some k := fun n hn hw => by
    rw [State.chainReaches_iff.mpr ⟨n, hn, hw⟩] at check
    cases check
  refine State.noLoops_iff.mpr fun a b ha n hn hw => ?_
  by_cases hak : a = k
  · subst hak
    obtain rfl := hk b ha
    obtain hw | ⟨m, l, hl, hm, -⟩ := State.walk_set hk same hw
    · exact no_way n hn hw
    · exact no_way m (by omega) hm
  · rw [same a hak] at ha
    obtain hw | ⟨m, l, hl, hm, hw⟩ := State.walk_set hk same hw
    · exact State.noLoops_iff.mp hs a b ha n hn hw
    · refine no_way (l + (1 + m)) (by omega) ?_
      rw [State.walk_add, hw, Option.bind_some, State.walk_add, State.walk, ha]
      exact hm

theorem State.noLoops_configure (hs : s.NoLoops) {k : Chan} {r : Settings} (chain : s.chainCheck k r.clock = none) :
    (s.configure k r).NoLoops := by
  have clock (i : Chan) : ((s.setChannel k { s.channel k with settings := r, staging := none }).channel i).settings.clock =
      if k = i then r.clock else (s.channel i).settings.clock := by
    rw [State.channel_setChannel]
    split <;> rfl
  suffices set : (s.setChannel k { s.channel k with settings := r, staging := none }).NoLoops by
    unfold State.configure
    exact (Slower.settleRefs _).noLoops set
  have same : ∀ i, i ≠ k →
      (s.setChannel k { s.channel k with settings := r, staging := none }).chainOf i = s.chainOf i := fun i hi => by
    unfold State.chainOf
    rw [clock, if_neg (Ne.symm hi)]
  cases hr : r.clock with
  | chain j =>
    have check : s.chainReaches k 6 j = false := by
      rw [hr] at chain
      unfold State.chainCheck at chain
      dsimp only at chain
      split_ifs at chain with hf hc
      simpa using hc
    refine State.noLoops_set (fun i hi => ?_) same hs check
    rw [State.chainOf_eq_some, clock, if_pos rfl, hr] at hi
    injection hi with hi
    exact hi.symm
  | base =>
    refine State.noLoops_mono (fun i j hi => ?_) hs
    by_cases e : i = k
    · rw [State.chainOf_eq_some, clock, if_pos e.symm, hr] at hi; cases hi
    · rw [← same i e]; exact hi
  | pin p x =>
    refine State.noLoops_mono (fun i j hi => ?_) hs
    by_cases e : i = k
    · rw [State.chainOf_eq_some, clock, if_pos e.symm, hr] at hi; cases hi
    · rw [← same i e]; exact hi

theorem Effect.noLoops {c : Client} (e : Effect c s t) (h : s.NoLoops) : t.NoLoops := by
  obtain slower | ⟨k, r, chain, set⟩ := e.slower
  · exact slower.noLoops h
  · rw [set]
    exact State.noLoops_configure h chain

/-- The laws of the CHAIN sources, out of the channels and their references. -/
theorem State.chainsOk_iff (h : s.Wired) : s.ChainsOk ↔ s.NoLoops :=
  ⟨fun hc k j hk => (hc k j hk).1, fun hn k j hk => ⟨hn k j hk, h.not_free_of_chain hk⟩⟩

/-! ## Base ticks (R56) -/

/-- A channel on BASE with no input due. -/
def State.Idle (k : Chan) (s : State) : Prop := (s.channel k).settings.clock = .base → (s.channel k).inputsDue = 0

theorem Channel.Slows.idle {v w : Channel} (h : v.Slows w) (hv : v.settings.clock = .base → v.inputsDue = 0)
    (hw : w.settings.clock = .base) : w.inputsDue = 0 := by
  obtain ⟨hc, hd⟩ | ⟨-, hz⟩ := h
  · have base := hc.symm.trans hw
    exact Nat.le_zero.mp ((hd base).trans (hv base).le)
  · exact hz

theorem Slower.idle (h : Slower s t) {k : Chan} (hs : s.Idle k) : t.Idle k := (h k).idle hs

theorem State.idle_survives (k : Chan) : Survives (State.Idle k) := ⟨fun _ _ h e => e.slower.idle h⟩

/-- Once a lawful channel has taken what waits at it, it is idle. -/
theorem State.idle_takeWaiting (h : s.ChannelsOk) (k : Chan) : (s.takeWaiting k).Idle k := by
  by_cases hi : s.Idle k
  · exact (State.idle_survives k).takeWaiting hi k
  · obtain ⟨base, due⟩ : (s.channel k).settings.clock = .base ∧ (s.channel k).inputsDue ≠ 0 := by
      simpa [State.Idle] using hi
    have sound := (Channel.ok_iff.mp (h k)).1
    have one : (s.channel k).inputsDue = 1 := by have := sound.base base; omega
    have run := sound.due (by omega)
    have taken : s.takeWaiting k = (s.takeInput k).settle := by
      have waits : (s.channel k).waiting = true := by simp [Channel.waiting, one]
      have take : s.takeOne k = s.takeInput k := by
        unfold State.takeOne
        rw [if_neg (by simp [run]), if_pos (by simp [run, one])]
      rw [State.takeWaiting, if_pos waits, one]
      exact congrArg State.settle take
    rw [taken]
    refine (State.idle_survives k).settle ((s.takeInput_slows k).2.idle fun _ => ?_)
    rw [Channel.taken, one]

/-- Once the part has caught up, every channel on BASE has taken its input of the last base tick (R56). -/
theorem Survives.idle_catchUp {Inv : State → Prop} (v : Survives Inv) (hc : ∀ s : State, Inv s → s.ChannelsOk)
    (h : Inv s) (k : Chan) : s.catchUp.Idle k := by
  have last : Inv (Nat.repeat State.takeAllWaiting 5 s) := repeat_inv (fun _ ht => v.takeAllWaiting ht) 5 h
  have round : s.catchUp = (Nat.repeat State.takeAllWaiting 5 s).takeAllWaiting := rfl
  obtain ⟨before, after, split⟩ := List.append_of_mem (mem_allChans k)
  rw [round, State.takeAllWaiting, split, List.foldl_append, List.foldl_cons]
  refine foldl_inv (P := State.Idle k) (fun _ j _ ht => (State.idle_survives k).takeWaiting ht j) ?_
  exact State.idle_takeWaiting (hc _ (foldl_inv (P := Inv) (fun _ j _ ht => v.takeWaiting ht j) last)) k

theorem State.Ledger.baseTick (h : s.Ledger) (hi : ∀ k : Chan, s.Idle k) : s.baseTick.Ledger := by
  refine h.channels (fun k => ?_) (fun k => ?_) (by simp) (by simp) (by simp) <;> rw [State.channel_baseTick] <;> split
  · next e =>
    simp only [Bool.and_eq_true, decide_eq_true_eq] at e
    exact (h.sound k).handed e.1 (hi k)
  · exact h.sound k
  · exact ⟨rfl, rfl, rfl, Iff.rfl⟩
  · exact .refl _

theorem State.noLoops_baseTick (h : s.NoLoops) : s.baseTick.NoLoops :=
  State.noLoops_mono (fun k j hk => by
    rw [State.chainOf_eq_some, State.channel_baseTick] at hk
    rw [State.chainOf_eq_some]
    split at hk <;> exact hk) h

end

end Sys2Proof.Machine
end

section
/-! PROOFS. The laws of all blocks together: what each block has been shown to keep, joined. -/

namespace Sys2Proof.Machine

open Sys2Proof

/-- The laws of all blocks, in the parts that the events and the effects were shown to keep. -/
structure State.Safe (s : State) : Prop where
  links : s.LinksOk
  sessions : s.SessionsOk
  base : s.PoolLists
  waits : s.WaitsOk
  within : s.WithinOk
  members : s.MembersOk
  ledger : s.Ledger
  noLoops : s.NoLoops
  pads : s.PadsOk
  filters : s.FiltersOk
  edge : s.EdgeOk
  watches : s.WatchPool

section
variable {s t : State}

theorem State.lawful_iff : s.Lawful ↔ s.Safe := by
  constructor
  · intro h
    have ledger : s.Ledger := State.ledger_iff.mpr ⟨h.channels, h.counts⟩
    exact {
      links := State.linksOk_iff.mpr ⟨h.queues, h.ports, h.attention⟩
      sessions := h.sessions, base := ⟨h.pool, h.lists⟩, waits := h.waits
      within := (State.claimsLawful_iff.mp h.claims).2
      members := State.membersOk_iff.1 h.claims h.lists h.watches h.closed
      ledger, noLoops := (State.chainsOk_iff ledger.toWired).mp h.chains
      pads := h.pads, filters := h.filters, edge := h.edge, watches := ⟨h.watches.1, h.watches.2.1⟩ }
  · intro h
    obtain ⟨queues, ports, attention⟩ := State.linksOk_iff.mp h.links
    obtain ⟨channels, counts⟩ := State.ledger_iff.mp h.ledger
    obtain ⟨closed, claims, watches⟩ := State.membersOk_iff.2 h.members
    exact {
      queues, ports, attention, channels, counts, closed
      sessions := h.sessions, pool := h.base.pool, lists := h.base.lists, waits := h.waits
      claims := State.claimsLawful_iff.mpr ⟨claims, h.within⟩
      chains := (State.chainsOk_iff h.ledger.toWired).mpr h.noLoops
      pads := h.pads, filters := h.filters, edge := h.edge
      watches := ⟨h.watches.length, h.watches.nodup, watches⟩ }

theorem Event.safe (e : Event s t) (h : s.Safe) : t.Safe where
  links := e.linksOk h.links
  sessions := e.sessionsOk h.sessions
  base := e.poolLists h.base
  waits := e.waitsOk h.base h.waits
  within := e.withinOk h.within
  members := e.membersOk h.members
  ledger := e.ledger h.ledger h.base h.waits
  noLoops := e.slower.noLoops h.noLoops
  pads := e.padsOk h.pads
  filters := e.filtering.filtersOk h.filters
  edge := e.edgeOk h.edge
  watches := e.watchPool h.watches

/-- What an effect and its reply make of a lawful state in which no edge is owed. -/
theorem Effect.safe {c : Client} (e : Effect c (s.taken c) t) (h : (s.taken c).Safe) (none : s.edgeOwed = none)
    (links : t.LinksOk) : t.Safe where
  links := links
  sessions := e.sessionsOk h.sessions
  base := e.poolLists h.base
  waits := e.waitsOk h.base h.waits
  within := e.withinOk h.within
  members := e.membersOk h.members
  ledger := e.ledger h.ledger h.base h.waits
  noLoops := e.noLoops h.noLoops
  pads := e.padsOk h.base h.pads
  filters := e.filtersOk h.filters
  edge := e.edgeOk none
  watches := e.watchPool h.watches

/-- Two states that differ at most in their ports, in their sessions but for who is in session, and in the inputs due at
their channels. -/
structure Beside (s t : State) : Prop where
  claims : t.claims = s.claims
  claimLists : t.claimLists = s.claimLists
  waitLists : t.waitLists = s.waitLists
  policies : t.policies = s.policies
  pads : t.pads = s.pads
  watches : t.watches = s.watches
  queues : t.queues = s.queues
  edgeOwed : t.edgeOwed = s.edgeOwed
  por : t.por = s.por
  nrstLow : t.nrstLow = s.nrstLow
  owner : ∀ k : Chan, (t.channel k).owner = (s.channel k).owner
  output : ∀ k : Chan, (t.channel k).output = (s.channel k).output
  state : ∀ k : Chan, (t.channel k).state = (s.channel k).state
  inSession : ∀ c : Client, t.InSession c ↔ s.InSession c

theorem Beside.safe (b : Beside s t) (h : s.Safe) (links : t.LinksOk) (sessions : t.SessionsOk) (ledger : t.Ledger)
    (noLoops : t.NoLoops) : t.Safe where
  links := links
  sessions := sessions
  base := h.base.congr b.claims b.claimLists
  waits := h.waits.congr b.claims b.waitLists fun k _ hr => (b.state k).trans hr
  within := h.within.congr b.claims b.policies
  members := ⟨(h.members.known.mono (fun q hq => ⟨q, b.claims ▸ hq, rfl⟩)
      (fun p => by rw [State.claimList_congr b.claimLists]; exact List.Subset.refl _)
      (fun k c e => (b.owner k).symm.trans e) (fun w hw => ⟨w, b.watches ▸ hw, rfl⟩)).weaken fun c => (b.inSession c).mpr,
    fun c hc => (State.queue_congr b.queues c).trans (h.members.empty c fun hs => hc ((b.inSession c).mpr hs))⟩
  ledger := ledger
  noLoops := noLoops
  pads := h.pads.frame (fun p => by rw [State.pad_congr b.pads]) b.policies b.claims b.claimLists b.output
  filters := (SameFilters.of_same b.pads b.policies).filtersOk h.filters
  edge := h.edge.congr (fun o _ => by rw [State.pad_congr b.pads]) b.edgeOwed b.por b.nrstLow
  watches := h.watches.sublist (b.watches ▸ List.Sublist.refl _)

theorem State.Safe.pending (h : s.Safe) (l : List Instr) : ({ s with pending := l } : State).Safe :=
  Beside.safe (s := s) ⟨rfl, rfl, rfl, rfl, rfl, rfl, rfl, rfl, rfl, rfl, fun _ => rfl, fun _ => rfl, fun _ => rfl,
    fun _ => Iff.rfl⟩ h (h.links.of_same rfl rfl) h.sessions (h.ledger.congr rfl rfl rfl rfl) h.noLoops

theorem State.Safe.taken (h : s.Safe) (c : Client) : (s.taken c).Safe := by
  refine Beside.safe (s := s) ⟨rfl, rfl, rfl, rfl, rfl, rfl, rfl, rfl, rfl, rfl, fun _ => rfl, fun _ => rfl, fun _ => rfl,
    fun _ => State.inSession_taken⟩ h (h.links.taken c) (State.SessionsOk.taken h.sessions c) ?_ h.noLoops
  exact ⟨⟨h.ledger.sound, h.ledger.tied⟩, h.ledger.kept, h.ledger.counts.taken c⟩

theorem State.Safe.answer (h : s.Safe) (c : Client) (tag : Byte) (st : Status) (pl : List Byte)
    (links : (s.answer c tag st pl).LinksOk) : (s.answer c tag st pl).Safe :=
  Beside.safe (s := s) ⟨rfl, rfl, rfl, rfl, rfl, rfl, rfl, rfl, rfl, rfl, fun _ => rfl, fun _ => rfl, fun _ => rfl,
    fun _ => Iff.rfl⟩ h links h.sessions (h.ledger.congr rfl rfl rfl rfl) h.noLoops

theorem State.Safe.baseTick (h : s.Safe) (idle : ∀ k : Chan, s.Idle k) : s.baseTick.Safe :=
  Beside.safe (s := s) ⟨by simp, by simp, by simp, by simp, by simp, by simp, by simp, by simp, by simp, by simp,
    fun k => by rw [State.channel_baseTick]; split <;> rfl, s.output_baseTick, s.state_baseTick,
    fun c => by simp⟩ h (h.links.of_same (by simp) (by simp)) (fun c => by simpa using h.sessions c)
    (h.ledger.baseTick idle) (State.noLoops_baseTick h.noLoops)

end

theorem safe_survives : Survives State.Safe := ⟨fun _ _ h e => e.safe h⟩

theorem safe_keeps : Keeps State.Safe where
  toSurvives := safe_survives
  pending _ l h := h.pending l
  base _ h caught := caught.baseTick
    (safe_survives.idle_catchUp (fun _ ht => (State.ledger_iff.mp ht.ledger).1) h)
  request s u c tag st pl h calm held e := by
    have links := e.linksOk (h.links.taken c)
    exact (e.safe (h.taken c) calm.2.2 links).answer c tag st pl (e.linksOk_answer h.links held tag st pl)

/-- Settles O15: each block's laws survive every event, every effect and every reply, and a base tick comes only once
the part has caught up with the last one. -/
theorem everyStepKeepsTheLaws : Obligations.EveryStepKeepsTheLaws := fun _ _ h ht =>
  State.lawful_iff.mpr (safe_keeps.step (State.lawful_iff.mp h) ht)

end Sys2Proof.Machine
end

section
/-! PROOFS. What the board does at a pin (R41), and filtered edges on their way to the watches and the channels (R42 to
R44, R113, R153). -/

namespace Sys2Proof.Machine

open Sys2Proof

/-! ## The level at a pin (R41) -/

/-- Settles O52: a calm state has nothing to settle before the board changes. -/
theorem boardLevelsReachThePad : Obligations.BoardLevelsReachThePad := by
  intro s p b h
  refine ⟨s.boardChange p b, congrArg (fun t : State => Host.Outcome.next (t.boardChange p b)) h.settle, ?_⟩
  refine congrArg (fun l => s.setPad p { s.pad p with board := b, raw := l }) ?_
  cases (s.pad p).driven with
  | high => rfl
  | low => rfl
  | released =>
    obtain ⟨drives, level⟩ := b
    cases drives with
    | true => rfl
    | false => cases (s.pad p).pull <;> rfl

/-! ## What an edge to a level is to a watch and to a channel -/

theorem edgeTo_eq (l : Level) : edgeTo l = if l = .high then Edge.rise else .fall := by cases l <;> rfl

theorem EdgeSel.includes_edgeTo (sel : EdgeSel) (l : Level) : sel.includes (edgeTo l) = true ↔
    sel = .both ∨ sel = (if l = .high then EdgeSel.rise else .fall) := by
  cases sel <;> cases l <;> decide

/-- A channel that an edge is handed to, by its trigger and its clock source (R44, R50, R57). -/
theorem Channel.handEdge_eq (ch : Channel) (p : Pin) (g : Edge) : ch.handEdge p g =
    if ch.state = .armed ∧ ch.trigger = some (p, g) then { ch with triggerDue := true }
    else if ch.state = .running ∧ ch.settings.clock = .pin p g then { ch with inputsDue := ch.inputsDue + 1 }
    else ch := by
  simp only [Channel.handEdge, Bool.and_eq_true, decide_eq_true_eq]

/-- A start forgets the trigger edge that was handed on (R64). -/
theorem Channel.fresh_handEdge {ch : Channel} {p : Pin} {g : Edge} (ha : ch.state = .armed)
    (ht : ch.trigger = some (p, g)) : (ch.handEdge p g).fresh = ch.fresh := by
  rw [Channel.handEdge_eq, if_pos ⟨ha, ht⟩]; rfl

/-! ## A filtered edge taken whole -/

theorem State.Lawful.watchPool {s : State} (h : s.Lawful) : s.WatchPool := by
  obtain ⟨size, unique, -⟩ := h.watches
  exact ⟨size, unique⟩

/-- A filtered edge of pin `p` to level `l` leads from `s` to `t` (R42 to R44, R113). -/
def EdgeTaken (s t : State) (p : Pin) (l : Level) : Prop :=
  t.pad p = { s.pad p with filtered := l, run := 0, tickDue := false } ∧
    (∀ q : Pin, q ≠ p → t.pad q = s.pad q) ∧
    (∀ d : Client, t.queue d =
      if ∃ w ∈ s.watches, w.client = d ∧ w.pin = p ∧ (w.edges = .both ∨
          w.edges = (if l = .high then EdgeSel.rise else .fall)) then
        (s.queue d).place (.edge p l)
      else s.queue d) ∧
    (∀ k : Chan, t.channel k =
      (let g : Edge := if l = .high then .rise else .fall
       if (s.channel k).state = .armed ∧ (s.channel k).trigger = some (p, g) then
         { s.channel k with triggerDue := true }
       else if (s.channel k).state = .running ∧ (s.channel k).settings.clock = .pin p g then
         { s.channel k with inputsDue := (s.channel k).inputsDue + 1 }
       else s.channel k)) ∧
    SamePool s t ∧ t.policies = s.policies ∧ t.watches = s.watches ∧
    t.sessions = s.sessions ∧ SamePorts s t ∧ SameDevice s t

theorem State.edgeTaken_takeEdge {s : State} (h : s.WatchPool) {p : Pin} {l : Level} (hl : (s.pad p).filtered ≠ l) :
    EdgeTaken s (s.takeEdge p) p l := by
  have flip : flipLevel (s.pad p).filtered = l := flipLevel_of_ne hl.symm
  refine ⟨?_, fun q hq => ?_, fun d => ?_, fun k => ?_, ⟨by simp, by simp, by simp⟩, by simp, by simp, by simp,
    s.takeEdge_samePorts p, by simp, by simp, by simp, by simp, by simp⟩
  · rw [State.pad_takeEdge, if_pos rfl, flip]
  · rw [State.pad_takeEdge, if_neg (Ne.symm hq)]
  · rw [State.queue_takeEdge h.nodup, flip]
    simp only [EdgeSel.includes_edgeTo]
  · rw [State.channel_takeEdge, flip, Channel.handEdge_eq, edgeTo_eq]

/-- FILTERED_EDGE at a pad whose edge is due, where no EDGE notice is owed. -/
theorem exec_filteredEdge_of_due {s : State} (hr : s.inReset = false) (ho : s.edgeOwed = none) {p : Pin}
    (hd : (s.lags p || s.edgeDue p) = true) : exec (.filteredEdge p) s = .next (s.takeEdge p) := by
  simp only [exec, execFilteredEdge, hr, ho, hd, State.endEdge_of_none ho, Option.any_none, Bool.false_eq_true,
    if_false, if_true]

/-- FILTERED_EDGE of a pin whose edge was taken ahead of its EDGE notices places those (R153). -/
theorem exec_filteredEdge_of_owed {s : State} (hr : s.inReset = false) {p : Pin} {l : Level}
    (ho : s.edgeOwed = some (p, l)) : exec (.filteredEdge p) s = .next s.endEdge := by
  simp [exec, execFilteredEdge, hr, ho]

/-! ## A filtered edge that a channel takes ahead of its EDGE notices -/

theorem State.mem_watchers {s : State} {p : Pin} {l : Level} {d : Client} : d ∈ s.watchers p (edgeTo l) ↔
    ∃ w ∈ s.watches, w.client = d ∧ w.pin = p ∧
      (w.edges = .both ∨ w.edges = (if l = .high then EdgeSel.rise else .fall)) := by
  simp only [State.watchers, List.mem_map, List.mem_filter, Bool.and_eq_true, decide_eq_true_eq,
    EdgeSel.includes_edgeTo]
  exact exists_congr fun w => ⟨fun ⟨⟨hw, hp, hi⟩, hc⟩ => ⟨hw, hc, hp, hi⟩, fun ⟨hw, hc, hp, hi⟩ => ⟨⟨hw, hp, hi⟩, hc⟩⟩

/-- A client watches a pin once (R109), so an edge is one notice to it. -/
theorem State.watchers_nodup {s : State} (h : s.WatchPool) (p : Pin) (g : Edge) : (s.watchers p g).Nodup := by
  refine List.Nodup.map_on (fun a ha b hb e => ?_) (List.Nodup.of_map _ h.nodup |>.filter _)
  simp only [List.mem_filter, Bool.and_eq_true, decide_eq_true_eq] at ha hb
  exact List.inj_on_of_nodup_map h.nodup ha.1 hb.1 (by rw [e, ha.2.1, hb.2.1])

/-- The EDGE notices that are owed, seen from one queue (R113). -/
theorem State.queue_endEdge {s : State} (h : s.WatchPool) {p : Pin} {l : Level} (ho : s.edgeOwed = some (p, l))
    (d : Client) : s.endEdge.queue d =
      if ∃ w ∈ s.watches, w.client = d ∧ w.pin = p ∧
          (w.edges = .both ∨ w.edges = (if l = .high then EdgeSel.rise else .fall)) then
        (s.queue d).place (.edge p l)
      else s.queue d := by
  unfold State.endEdge
  rw [ho]
  dsimp only
  rw [State.queue_placeAll _ (s.watchers_nodup h p _)]
  exact if_congr State.mem_watchers rfl rfl

theorem State.endEdge_samePorts (s : State) : SamePorts s s.endEdge := by
  unfold State.endEdge
  split
  · exact fun _ => rfl
  · next p l _ => exact (Placed.placeAll { s with edgeOwed := none } _ _).samePorts

/-- Where no other pad lags, no edge of another pad comes before that of `p`. -/
theorem State.followBut_of_calm {s : State} {p : Pin} (h : ∀ q : Pin, q ≠ p → s.lags q = false) :
    s.followBut p = s :=
  foldl_inv (P := (· = s)) (fun t q hq e => by
    subst e
    exact State.follow_of_not_lags (h q (by simpa using hq))) rfl

/-- A channel that waits for an edge still due at its pin finds it begun, with the EDGE notices owed (R44, R153). -/
theorem State.ready_of_edge {s : State} (hr : s.inReset = false) (ho : s.edgeOwed = none) {k : Chan} {p : Pin}
    {g : Edge} (hq : ∀ q : Pin, q ≠ p → s.lags q = false) (he : (s.channel k).edgePin = some (p, g))
    (hw : (s.channel k).waiting = false) (hc : s.edgeComes p g = true) : s.ready k = s.beginEdge p := by
  unfold State.ready
  rw [he]
  dsimp only
  rw [if_neg (by simp [hr]), if_neg (by simp [hw]), if_pos (by simp [hw, hc]), State.endEdge_of_none ho,
    State.followBut_of_calm hq]

/-- TRIGGER_EDGE on an edge still due at the trigger's pin begins that edge, and the channel starts (R64, R153). -/
theorem State.triggered_of_edge {s : State} (hr : s.inReset = false) (ho : s.edgeOwed = none) {k : Chan} {p : Pin}
    {g : Edge} (hq : ∀ q : Pin, q ≠ p → s.lags q = false) (hok : (s.channel k).Ok) (ha : (s.channel k).state = .armed)
    (ht : (s.channel k).trigger = some (p, g)) (hd : (s.channel k).triggerDue = false) (hc : s.edgeComes p g = true) :
    s.triggered k = (s.beginEdge p).startChans [k] none := by
  obtain ⟨-, -, -, -, -, -, -, -, -, inputs, -⟩ := hok
  have none_due : (s.channel k).inputsDue = 0 := by
    refine Nat.eq_zero_of_not_pos fun pos => ?_
    have running := inputs pos
    rw [ha] at running
    cases running
  have edge : edgeTo (flipLevel (s.pad p).filtered) = g := by
    simp only [State.edgeComes, Bool.and_eq_true, decide_eq_true_eq] at hc
    exact hc.2
  have ready : s.ready k = s.beginEdge p := State.ready_of_edge hr ho hq (by simp [Channel.edgePin, ha, ht])
    (by simp [Channel.waiting, hd, none_due]) hc
  have handed : (s.beginEdge p).channel k = { s.channel k with triggerDue := true } := by
    rw [State.channel_beginEdge, State.channel_takeEdge, edge, Channel.handEdge_eq, if_pos ⟨ha, ht⟩]
  simp only [State.triggered, ready, handed, ha, decide_true, Bool.and_self, if_true]

theorem allChans_filter_singleton (k : Chan) : allChans.filter [k].contains = [k] := by revert k; decide

/-- The start of one channel, seen from one queue (R64, R102). -/
theorem State.queue_startChans_singleton (s : State) (k : Chan) (d : Client) : (s.startChans [k] none).queue d =
    if s.relies d k = true then (s.queue d).place (.sourceChange k .running (s.channel k).owner.isSome)
    else s.queue d := by
  have run : ((s.mapChannels fun j ch => if [k].contains j then ch.start else ch).channel k) = (s.channel k).fresh := by
    simp [Channel.start_eq_fresh]
  unfold State.startChans
  rw [State.resolvePads_queue, allChans_filter_singleton, List.foldl_cons, List.foldl_nil, State.queue_noteSource, run,
    State.queue_mapChannels]
  refine if_congr ?_ rfl rfl
  simp [State.relies]

theorem State.pad_startChans (s : State) (ks : List Chan) (x : Option Client) (q : Pin) :
    (s.startChans ks x).pad q = (s.pad q).take ((s.startChans ks x).resolve q) := by
  unfold State.startChans
  rw [State.resolve_resolvePads, State.pad_resolvePads, foldl_keeps (g := fun t => t.pad q) (fun _ _ => by simp)]
  simp

/-- Settles O53: an edge is taken whole by FILTERED_EDGE, or begun by the TRIGGER_EDGE of a channel and ended by the
FILTERED_EDGE that follows. -/
theorem filteredEdgesReachTheirConsumers : Obligations.FilteredEdgesReachTheirConsumers := by
  refine ⟨fun s p h hr ho hlen hne => ?_, fun s p l h hr ho hd hl => ?_,
    fun s k p g l h hr ho hq hd hl hg ha ht hn => ?_⟩
  · have lags : s.lags p = true := by simp [State.lags, hlen, hne]
    exact ⟨_, exec_filteredEdge_of_due hr ho (by simp [lags]), State.edgeTaken_takeEdge h.watchPool hne.symm⟩
  · exact ⟨_, exec_filteredEdge_of_due hr ho (by simp [State.edgeDue, hd]), State.edgeTaken_takeEdge h.watchPool hl⟩
  · have flip : flipLevel (s.pad p).filtered = l := flipLevel_of_ne hl.symm
    have edge : edgeTo (flipLevel (s.pad p).filtered) = g := by rw [flip, edgeTo_eq, hg]
    have comes : s.edgeComes p g = true := by
      simp only [State.edgeComes, edge, decide_true, Bool.and_true, Bool.or_eq_true]
      exact hd
    have start : s.triggered k = (s.beginEdge p).startChans [k] none :=
      State.triggered_of_edge hr ho hq (h.channels k) ha ht hn comes
    have channel : ∀ j, (s.beginEdge p).channel j = (s.channel j).handEdge p g := fun j => by
      rw [State.channel_beginEdge, State.channel_takeEdge, edge]
    have owner : ((s.beginEdge p).channel k).owner.isSome = true := by
      obtain ⟨-, -, -, owned, -⟩ := h.channels k
      rw [channel, Channel.handEdge_eq, if_pos ⟨ha, ht⟩]
      exact owned ha
    have owed : ((s.beginEdge p).startChans [k] none).edgeOwed = some (p, l) := by
      rw [State.startChans_edgeOwed, State.beginEdge_edgeOwed, flip]
    refine ⟨(s.beginEdge p).startChans [k] none, ?_, owed, fun j => ?_, fun d => ?_, fun q => ?_,
      ⟨by simp, by simp, by simp⟩, by simp, by simp, by simp, fun d => ?_, ?_⟩
    · exact congrArg Host.Outcome.next start
    · rw [State.channel_startChans, channel]
      by_cases e : j = k
      · subst e
        rw [if_pos (List.mem_singleton.mpr rfl), if_pos rfl, Channel.fresh_handEdge ha ht]
      · rw [if_neg (by simpa using e), if_neg e, Channel.handEdge_eq]
    · rw [State.queue_startChans_singleton, owner, State.beginEdge_queue]
      refine if_congr ?_ rfl rfl
      simp [State.relies]
    · rw [State.pad_startChans, State.pad_beginEdge, State.pad_takeEdge, flip]
      exact congrArg (Pad.take · _) (if_congr eq_comm rfl rfl)
    · rw [← State.beginEdge_port s p d]
      exact (s.beginEdge p).startChans_placed [k] none d
    · have out : ((s.beginEdge p).startChans [k] none).inReset = false := by
        rw [State.inReset_congr (s := s) (by simp) (by simp), hr]
      have watches : ((s.beginEdge p).startChans [k] none).watches = s.watches := by simp
      have pool : ((s.beginEdge p).startChans [k] none).WatchPool := h.watchPool.sublist (watches ▸ List.Sublist.refl _)
      refine ⟨_, exec_filteredEdge_of_owed out owed, State.edgeOwed_endEdge _, fun d => ?_, by simp, by simp,
        ⟨by simp, by simp, by simp⟩, by simp, by simp, by simp, State.endEdge_samePorts _⟩
      rw [State.queue_endEdge pool owed, watches]

end Sys2Proof.Machine
end

section
/-! PROOFS. SET POLICY (R35, R36): the payloads that fail its first check, the checks in their order, and the entry
replaced. -/

namespace Sys2Proof.Machine

open Sys2Proof

/-! ## Payloads (R35, check 1) -/

theorem roleOf?_eq_some {b : Byte} {r : Role} (h : roleOf? b = some r) : b.toNat ≤ 1 ∧ (b = 1 → r = .inputOnly) := by
  unfold roleOf? at h
  split at h
  · next hb => exact ⟨by omega, fun e => by subst e; cases hb⟩
  · next hb => cases h; exact ⟨by omega, fun _ => rfl⟩
  · cases h

theorem defaultOf?_eq_some {b : Byte} {d : DefaultState} (h : defaultOf? b = some d) :
    b.toNat ≤ 4 ∧ (3 ≤ b.toNat → d = .driveLow ∨ d = .driveHigh) := by
  unfold defaultOf? at h
  split at h
  case h_1 hb | h_2 hb | h_3 hb => exact ⟨by omega, fun _ => by omega⟩
  case h_4 hb => cases h; exact ⟨by omega, fun _ => .inl rfl⟩
  case h_5 hb => cases h; exact ⟨by omega, fun _ => .inr rfl⟩
  case h_6 => cases h

theorem driveOf?_eq_some {b : Byte} {d : DriveType} (h : driveOf? b = some d) : b.toNat ≤ 1 := by
  unfold driveOf? at h
  split at h
  case h_1 hb | h_2 hb => omega
  case h_3 => cases h

theorem filterOf?_eq_some {b : Byte} {n : Fin 16} (h : filterOf? b = some n) : b.toNat ≤ 15 := by
  unfold filterOf? at h
  split at h
  · omega
  · cases h

theorem ceilingOf?_eq_some {b : Byte} {r : Rank} (h : ceilingOf? b = some r) : b.toNat ≤ 7 := by
  unfold ceilingOf? at h
  split at h
  · omega
  · cases h

theorem ceilingsOf?_eq_some {w x y z : Byte} {v : Vector Rank 4} (h : ceilingsOf? w x y z = some v) :
    w.toNat ≤ 7 ∧ x.toNat ≤ 7 ∧ y.toNat ≤ 7 ∧ z.toNat ≤ 7 := by
  unfold ceilingsOf? at h
  split at h
  · next hw hx hy hz =>
    exact ⟨ceilingOf?_eq_some hw, ceilingOf?_eq_some hx, ceilingOf?_eq_some hy, ceilingOf?_eq_some hz⟩
  · cases h

theorem policyOk_inputOnly {e : Policy} (hr : e.role = .inputOnly) (hd : e.dflt = .driveLow ∨ e.dflt = .driveHigh) :
    policyOk e = false := by
  obtain hd | hd := hd <;> simp [policyOk, hr, hd]

/-- A SET POLICY payload with a field outside its encoding, or with a driving default for INPUT_ONLY, decodes as
nothing. -/
theorem decodePolicy_eq_none {bs : List Byte}
    (h : 15 < (byteAt bs 0).toNat ∨ 1 < (byteAt bs 1).toNat ∨ 4 < (byteAt bs 2).toNat ∨ 1 < (byteAt bs 3).toNat ∨
      15 < (byteAt bs 4).toNat ∨ 7 < (byteAt bs 5).toNat ∨ 7 < (byteAt bs 6).toNat ∨ 7 < (byteAt bs 7).toNat ∨
      7 < (byteAt bs 8).toNat ∨ (byteAt bs 1 = 1 ∧ 3 ≤ (byteAt bs 2).toNat)) : decodePolicy bs = none := by
  unfold decodePolicy
  split
  · next p role dflt drive len ceil hp hr hd hv hf hc =>
    have pin : (byteAt bs 0).toNat < 16 := by
      rw [pinOf?_eq_some.mp hp, toNat_byteOf (by omega)]; exact p.isLt
    obtain ⟨hr, inputOnly⟩ := roleOf?_eq_some hr
    obtain ⟨hd, driving⟩ := defaultOf?_eq_some hd
    have hv := driveOf?_eq_some hv
    have hf := filterOf?_eq_some hf
    obtain ⟨h5, h6, h7, h8⟩ := ceilingsOf?_eq_some hc
    refine if_neg fun ok => ?_
    have admitted : ¬(byteAt bs 1 = 1 ∧ 3 ≤ (byteAt bs 2).toNat) := fun ⟨h1, h2⟩ => by
      rw [policyOk_inputOnly (inputOnly h1) (driving h2)] at ok
      cases ok
    simp only [admitted, or_false] at h
    omega
  · rfl

/-! ## The checks (R35) -/

theorem State.quiescentFor_iff {s : State} {c : Client} :
    s.quiescentFor c = true ↔ ∀ d : Client, d ≠ c → (s.session d).state = .closed := by
  simp only [State.quiescentFor, List.all_eq_true, mem_allClients, true_imp_iff, Bool.or_eq_true, decide_eq_true_eq]
  exact forall_congr' fun d => or_iff_not_imp_left

/-- The renewal of the caller's own lease leaves the other sessions. -/
theorem State.quiescentFor_taken (s : State) (c : Client) : (s.taken c).quiescentFor c = s.quiescentFor c := by
  rw [Bool.eq_iff_iff, State.quiescentFor_iff, State.quiescentFor_iff]
  exact forall_congr' fun d => imp_congr_right fun hd => by rw [State.session_taken, if_neg (Ne.symm hd)]

theorem ClockSource.usesPin_iff {src : ClockSource} {p : Pin} :
    src.usesPin p = true ↔ src = .pin p .rise ∨ src = .pin p .fall := by
  cases src with
  | base => simp [ClockSource.usesPin]
  | pin n e => cases e <;> simp [ClockSource.usesPin]
  | chain j => simp [ClockSource.usesPin]

theorem Channel.holdsPin_iff {ch : Channel} {p : Pin} : ch.holdsPin p = true ↔
    (ch.state ≠ .free ∧ (ch.settings.clock = .pin p .rise ∨ ch.settings.clock = .pin p .fall)) ∨
      (ch.state = .armed ∧ ch.trigger.map (·.1) = some p) := by
  simp only [Channel.holdsPin, Bool.or_eq_true, Bool.and_eq_true, decide_eq_true_eq, ClockSource.usesPin_iff]
  refine or_congr Iff.rfl (and_congr Iff.rfl ?_)
  cases ch.trigger <;> simp

/-- A pin in use: checks 3 to 6 of R35. -/
theorem State.pinInUse_iff {s : State} {p : Pin} : s.pinInUse p = true ↔
    (s.claims.any fun q => q.pin = p) = true ∨ (s.watches.any fun w => w.pin = p) = true ∨
      ∃ k : Chan, ((s.channel k).state ≠ .free ∧
          ((s.channel k).settings.clock = .pin p .rise ∨ (s.channel k).settings.clock = .pin p .fall)) ∨
        ((s.channel k).state = .armed ∧ ((s.channel k).trigger.map (·.1)) = some p) := by
  simp only [State.pinInUse, Bool.or_eq_true, or_assoc]
  rw [List.any_eq_true (l := allChans)]
  simp only [mem_allChans, true_and, Channel.holdsPin_iff]

theorem State.served_setPolicy {s : State} {c : Client} (hs : s.InSession c) {pl : List Byte}
    (hl : lengthOk .setPolicy pl = true) : s.served c .setPolicy pl = setPolicyAct c pl (s.taken c) :=
  State.served_act (fun _ => hs) hl

/-- SET POLICY with an admissible entry, at its block. -/
theorem setPolicyAct_of_ok (c : Client) (s : State) (p : Pin) {e : Policy} (ok : policyOk e = true) :
    setPolicyAct c (policyBytes p e) s =
      if s.quiescentFor c = true then
        if s.pinInUse p = true then refuse s .inUse
        else { state := s.writePolicy p e, status := .ok, payload := policyBytes p e }
      else refuse s .notQuiescent := by
  simp only [setPolicyAct, decodePolicy_bytes, ok, if_true]
  cases s.quiescentFor c <;> rfl

/-! ## An edge that reaches nobody -/

/-- A pin that is not claimed, watched, a clock source or a trigger. -/
structure State.Unused (s : State) (p : Pin) : Prop where
  claims : ∀ q ∈ s.claims, q.pin ≠ p
  watches : ∀ w ∈ s.watches, w.pin ≠ p
  clock : ∀ (k : Chan) (g : Edge), (s.channel k).settings.clock ≠ .pin p g
  trigger : ∀ (k : Chan) (g : Edge), (s.channel k).trigger ≠ some (p, g)

theorem State.Unused.taken {s : State} {p : Pin} (h : s.Unused p) (c : Client) : (s.taken c).Unused p :=
  ⟨h.claims, h.watches, h.clock, h.trigger⟩

theorem State.Unused.pinInUse {s : State} {p : Pin} (h : s.Unused p) : s.pinInUse p = false := by
  refine Bool.eq_false_iff.mpr fun used => ?_
  obtain hq | hw | ⟨k, ⟨-, hk | hk⟩ | ⟨-, hk⟩⟩ := State.pinInUse_iff.mp used
  · obtain ⟨q, hq, e⟩ := List.any_eq_true.mp hq
    exact h.claims q hq (of_decide_eq_true e)
  · obtain ⟨w, hw, e⟩ := List.any_eq_true.mp hw
    exact h.watches w hw (of_decide_eq_true e)
  · exact h.clock k .rise hk
  · exact h.clock k .fall hk
  · obtain ⟨⟨n, g⟩, ht, rfl⟩ := Option.map_eq_some_iff.mp hk
    exact h.trigger k g ht

theorem State.mapChannels_eq_self {s : State} {f : Chan → Channel → Channel}
    (h : ∀ k : Chan, f k (s.channel k) = s.channel k) : s.mapChannels f = s := by
  have channels : (s.mapChannels f).channels = s.channels :=
    State.channels_ext fun k => (State.channel_mapChannels ..).trans (h k)
  exact congrArg (fun v => { s with channels := v }) channels

/-- An unused pin's edge changes its pad alone: no watch includes it, and no channel waits for it (R44, R113). -/
theorem State.Unused.takeEdge {s : State} {p : Pin} (h : s.Unused p) : s.takeEdge p =
    s.setPad p { s.pad p with filtered := flipLevel (s.pad p).filtered, run := 0, tickDue := false } := by
  have unwatched : s.watchers p (edgeTo (flipLevel (s.pad p).filtered)) = [] := by
    rw [State.watchers, List.filter_eq_nil_iff.mpr fun w hw => by simp [h.watches w hw], List.map_nil]
  have unheard : ∀ (k : Chan) (g : Edge), (s.channel k).handEdge p g = s.channel k := fun k g => by
    simp [Channel.handEdge, h.clock k g, h.trigger k g]
  have placed : s.takeEdge p =
      ((s.setPad p { s.pad p with filtered := flipLevel (s.pad p).filtered, run := 0, tickDue := false }).placeAll
        (s.watchers p (edgeTo (flipLevel (s.pad p).filtered))) (.edge p (flipLevel (s.pad p).filtered))).mapChannels
        fun _ ch => ch.handEdge p (edgeTo (flipLevel (s.pad p).filtered)) := rfl
  rw [placed, unwatched]
  exact State.mapChannels_eq_self fun k => unheard k _

/-! ## The entry replaced (R36) -/

/-- The pad of an unused pin as SET POLICY finds it: the edge of a completed run is taken, and the run starts anew
(R36, R42). -/
def Pad.anew (pad : Pad) : Pad :=
  { pad with
    run := 0, tickDue := false
    filtered := if pad.tickDue then flipLevel pad.filtered else pad.filtered }

theorem State.Unused.writePolicy {s : State} {p : Pin} (h : s.Unused p) (e : Policy) :
    s.writePolicy p e = ((s.setPolicy p e).setPad p (s.pad p).anew).resolvePads := by
  unfold State.writePolicy Pad.anew
  cases hd : (s.pad p).tickDue with
  | false => rfl
  | true =>
    have again : ∀ v w : Pad, ((s.setPad p v).setPolicy p e).setPad p w = (s.setPolicy p e).setPad p w := fun v w =>
      State.setPad_setPad (s.setPolicy p e) p v w
    simp only [if_true, h.takeEdge, State.pad_setPad_self, again]

/-- A pin without claims has no top claim (R6). -/
theorem State.Unused.topClaim {s : State} {p : Pin} (h : s.Unused p) : s.topClaim p = none := by
  refine Option.eq_none_iff_forall_ne_some.mpr fun q hq => ?_
  obtain ⟨c, -, hc⟩ := Option.bind_eq_some_iff.mp hq
  obtain ⟨mem, -, pin⟩ := State.claimAt_mem hc
  exact h.claims q mem pin

/-- An unused pin's pad takes the setting of its entry (R8, R40). -/
theorem State.Unused.resolve {s : State} {p : Pin} (h : s.Unused p) : s.resolve p =
    if (s.policy p).role = .io then (s.policy p).idle else (.released, (s.policy p).pull) := by
  cases hr : (s.policy p).role with
  | io => rw [if_pos rfl, State.resolve_idle hr h.topClaim]
  | inputOnly => rw [if_neg (by decide), State.resolve_inputOnly hr]

/-- The pads after SET POLICY of an unused pin: that pin's takes its new setting, every other stays (R36). -/
theorem State.Unused.pad_writePolicy {s : State} {p : Pin} (h : s.Unused p) (ok : s.PadsOk) (e : Policy) (q : Pin) :
    (s.writePolicy p e).pad q = if q = p then
      (s.pad p).anew.take (if e.role = .io then e.idle else (.released, e.pull)) else s.pad q := by
  rw [h.writePolicy]
  by_cases hq : q = p
  · subst hq
    have unused : ((s.setPolicy q e).setPad q (s.pad q).anew).Unused q := ⟨h.claims, h.watches, h.clock, h.trigger⟩
    rw [State.pad_resolvePads, unused.resolve, if_pos rfl, State.pad_setPad_self, State.policy_setPad,
      State.policy_setPolicy_self]
  · rw [if_neg hq]
    refine State.pad_resolvePads_of_same ok (State.pad_setPad_ne _ _ hq) ?_
    exact State.resolve_congr (State.policy_setPolicy_ne s e hq) rfl (fun _ => rfl) fun _ => rfl

/-- Settles O25: an edge of an unused pin reaches nobody, so the request changes the entry and the pad alone; the checks
come in the order in which the block writes them. -/
theorem setPolicyReplacesTheEntry : Obligations.SetPolicyReplacesTheEntry := by
  refine ⟨fun s c tag p e h ha hs ok hclosed hclaims hwatches hchans => ?_, fun s c tag p e d ha hs ok hbusy => ?_,
    fun s c tag pl ha hs hlen hbad => exec_refused ha ?_⟩
  · have clock : ∀ (k : Chan) (g : Edge), (s.channel k).settings.clock ≠ .pin p g := fun k g => by
      obtain ⟨rise, fall, -⟩ := hchans k
      cases g with
      | rise => exact rise
      | fall => exact fall
    have trigger : ∀ (k : Chan) (g : Edge), (s.channel k).trigger ≠ some (p, g) := fun k g ht => by
      obtain ⟨-, -, untriggered⟩ := hchans k
      exact untriggered (by rw [ht]; rfl)
    have unused : (s.taken c).Unused p := State.Unused.taken ⟨hclaims, hwatches, clock, trigger⟩ c
    have served : s.served c .setPolicy (policyBytes p e) =
        { state := (s.taken c).writePolicy p e, status := .ok, payload := policyBytes p e } := by
      rw [State.served_setPolicy hs (lengthOk_policy p e), setPolicyAct_of_ok c _ p ok, State.quiescentFor_taken,
        if_pos (State.quiescentFor_iff.mpr hclosed), if_neg (by simp [unused.pinInUse])]
    have pads := unused.pad_writePolicy (h.pads.taken c) e
    have written := unused.writePolicy e
    refine ⟨_, exec_of_asks ha, ?_⟩
    rw [served]
    dsimp only
    refine ⟨?_, fun q hq => ⟨?_, ?_⟩, ?_, ?_, ?_, ⟨?_, ?_, ?_⟩, ?_, ?_, ?_, sameDevice_answer ?_ tag .ok _⟩
    · rw [State.answer_policy, written]; simp
    · rw [State.answer_policy, written, State.resolvePads_policy, State.policy_setPad, State.policy_setPolicy_ne _ _ hq]
      rfl
    · rw [State.answer_pad, pads, if_neg hq]; rfl
    · rw [State.answer_pad, pads, if_pos rfl]
      simp only [Pad.anew, Pad.take, State.taken_pad]
      rfl
    · exact answered_of_ports (fun d => by rw [written, State.resolvePads_port]; rfl) tag .ok _
    · exact onlyRenewed_of_sessions (by simp) tag .ok _
    · rw [State.answer_claims, State.writePolicy_claims]; rfl
    · rw [State.answer_claimLists, State.writePolicy_claimLists]; rfl
    · rw [State.answer_waitLists, State.writePolicy_waitLists]; rfl
    · rw [State.answer_channels, written, State.resolvePads_channels]; rfl
    · rw [State.answer_watches, State.writePolicy_watches]; rfl
    · rw [State.answer_queues, written, State.resolvePads_queues]; rfl
    · exact ⟨by simp, by simp, by simp, by simp, by simp⟩
  · refine exec_refused ha ?_
    rw [State.served_setPolicy hs (lengthOk_policy p e), setPolicyAct_of_ok c _ p ok, State.quiescentFor_taken]
    by_cases hq : ∀ d : Client, d ≠ c → (s.session d).state = .closed
    · have used : (s.taken c).pinInUse p = true :=
        State.pinInUse_iff.mpr (hbusy.resolve_left fun ⟨hd, hopen⟩ => hopen (hq d hd))
      rw [if_pos (State.quiescentFor_iff.mpr hq), if_pos used, if_pos hq]
    · rw [if_neg (mt State.quiescentFor_iff.mp hq), if_neg hq]
  · have none : decodePolicy pl = none := decodePolicy_eq_none hbad
    rw [State.served_setPolicy hs (by simp [lengthOk, hlen])]
    simp [setPolicyAct, none]

end Sys2Proof.Machine
end

section
/-! PROOFS. The channels and the counts through every step (R46 to R59, R95 to R97): they need no law of the claim pool,
since an activation gives no channel a reference that had none. The lemmas of the same
operations that ask for the laws of the pool serve the laws of all blocks together. -/

namespace Sys2Proof.Machine

open Sys2Proof

section
variable {s t : State} {c : Client}

/-! ## What an activation names (R12, R22) -/

/-- Every channel a claim names is one that some claim named before, whatever stands in the pool. -/
def State.NamesNoMore (s t : State) : Prop :=
  ∀ r ∈ t.claims, ∀ k : Chan, r.names k = true → ∃ q ∈ s.claims, q.names k = true

theorem State.NamesNoMore.of_claims (h : t.claims = s.claims) : s.NamesNoMore t := fun r hr _ hk => ⟨r, h ▸ hr, hk⟩

theorem State.NamesNoMore.trans {u : State} (a : s.NamesNoMore t) (b : t.NamesNoMore u) : s.NamesNoMore u :=
  fun r hr k hk => by
    obtain ⟨q, hq, hqk⟩ := b r hr k hk
    exact a q hq k hqk

theorem State.namesNoMore_activateOne (s : State) (id : Client × Pin) : s.NamesNoMore (s.activateOne id) := by
  unfold State.activateOne
  split
  · exact .of_claims rfl
  · next q hq =>
    have set : s.NamesNoMore (s.setClaim q.activated) := fun r hr k hk => by
      obtain rfl | hr := State.claims_setClaim_cases r hr
      · exact ⟨q, (State.claimAt_mem hq).1, Claim.names_of_activated hk⟩
      · exact ⟨r, hr, hk⟩
    dsimp only
    split
    · exact set.trans (.of_claims (State.enterList_claims ..))
    · exact set

theorem State.namesNoMore_activate (s : State) (k : Chan) : s.NamesNoMore (s.activate k) := by
  have fold : s.NamesNoMore ((s.waitList k).foldl State.activateOne s) :=
    foldl_inv (P := s.NamesNoMore) (fun t id _ ht => ht.trans (t.namesNoMore_activateOne id)) (.of_claims rfl)
  exact fold.trans (.of_claims (s.claims_activate_eq k))

/-- Channels that are in use as before, under claims that name no further channel. -/
theorem State.Wired.noMore (h : s.Wired) (sound : ∀ k, (t.channel k).Sound)
    (free : ∀ k, (t.channel k).state = .free → (s.channel k).state = .free)
    (clock : ∀ k, (t.channel k).settings.clock = (s.channel k).settings.clock) (names : s.NamesNoMore t) : t.Wired := by
  refine State.wired_of_not_free sound (fun r hr k hk hf => ?_) fun k j hk hf => ?_
  · obtain ⟨q, hq, hqk⟩ := names r hr k hk
    exact h.not_free_of_names hq hqk (free k hf)
  · rw [clock] at hk
    exact h.not_free_of_chain hk (free j hf)

/-! ## Boundaries and stops (R65, R80 to R84) -/

theorem State.Wired.boundaryDone_of_running (h : s.Wired) {k : Chan} (hr : (s.channel k).state = .running) :
    (s.boundaryDone k).Wired := by
  have committed : ((s.boundaryCommit k).channel k).state = .running := by
    rw [State.channel_boundaryCommit, if_pos rfl]; exact hr
  have names : s.NamesNoMore (s.boundaryDone k) :=
    (State.NamesNoMore.of_claims (State.boundaryCommit_claims ..)).trans
      ((State.namesNoMore_activate _ k).trans (.of_claims (State.claims_boundaryDone s k)))
  refine h.noMore (fun j => ?_) (fun j hf => ?_) (State.clock_boundaryDone s k) names
  · rw [State.channel_boundaryDone]
    refine Channel.Sound.handChain ?_ k
    split
    · rw [State.channel_boundaryCommit, if_pos rfl]
      refine (h.sound k).afterBoundary hr ?_
      split <;> rfl
    · exact h.sound j
  · rw [State.channel_boundaryDone, Channel.handChain_state] at hf
    split at hf
    · exact absurd hf (Channel.afterBoundary_running committed)
    · exact hf

theorem State.Ledger.takeInput_of_running (h : s.Ledger) {k : Chan} (hr : (s.channel k).state = .running) :
    (s.takeInput k).Ledger := by
  have taken := (h.sound k).taken hr
  cases hi : (s.channel k).taken.nextInput with
  | raise =>
    rw [State.takeInput_raise hi]
    exact h.setChannel (taken.raised hr hi) ⟨rfl, rfl, rfl, Iff.rfl⟩
  | tick =>
    rw [State.takeInput_tick hi]
    exact (h.setChannel (taken.tick hr hi) ⟨rfl, rfl, rfl, Iff.rfl⟩).congr (by simp) (by simp) (by simp) (by simp)
  | boundary =>
    rw [State.takeInput_boundary hi, State.boundary_eq]
    have set : (s.setChannel k (s.channel k).taken.ended).Ledger :=
      h.setChannel (taken.ended hr) ⟨rfl, rfl, rfl, Iff.rfl⟩
    exact (set.boundaryDone_of_running (k := k) (by rw [State.channel_setChannel_self]; exact hr)).settled
      (State.resolvePads_channels _) (State.resolvePads_claims _) (State.resolvePads_watches _)
      (State.resolvePads_sessions _)

theorem State.Ledger.stopRunning_of_running (h : s.Ledger) {k : Chan} (hr : (s.channel k).state = .running) :
    (s.stopRunning k c).Ledger := by
  have channel (j : Chan) : (((s.stopped k).activate k).noteSource k (some c)).channel j = (s.stopped k).channel j := by
    rw [State.noteSource_channel, State.activate_channel]
  have names : s.NamesNoMore (((s.stopped k).activate k).noteSource k (some c)) :=
    (State.NamesNoMore.of_claims (s.stopped_claims k)).trans
      ((State.namesNoMore_activate _ k).trans (.of_claims (State.noteSource_claims ..)))
  have wired : (((s.stopped k).activate k).noteSource k (some c)).Wired := by
    refine h.toWired.noMore (fun j => ?_) (fun j hf => ?_) (fun j => ?_) names
    · rw [channel, State.channel_stopped]
      split
      · exact (h.sound k).stopped hr
      · exact h.sound j
    · rw [channel, State.channel_stopped] at hf
      split at hf
      · cases hf
      · exact hf
    · rw [channel, State.channel_stopped]
      split
      · next e => rw [← e]
      · rfl
  rw [State.stopRunning_eq]
  exact wired.settled (State.resolvePads_channels _) (State.resolvePads_claims _) (State.resolvePads_watches _)
    (State.resolvePads_sessions _)

/-! ## Every event and every effect -/

theorem Event.keepsLedger (e : Event s t) (h : s.Ledger) : t.Ledger := by
  cases e with
  | edge p => exact h.takeEdge p
  | edgeBegins p =>
    exact (h.takeEdge p).channels (fun k => by rw [State.channel_beginEdge]; exact (h.takeEdge p).sound k)
      (fun k => by rw [State.channel_beginEdge]; exact .refl _) (by simp) (by simp) (by simp)
  | input k running => exact h.takeInput_of_running running
  | trigger k armed =>
    refine h.startChans none fun j hj => ?_
    rw [List.mem_singleton] at hj
    subst hj
    exact ⟨(h.sound j).armed armed, by simp [armed]⟩
  | tick => exact h.tickComes
  | hold c p =>
    rw [State.expireHold_eq]
    exact (State.Wired.claimsChanged (h.dropClaims _) none).congr (State.place_channels ..) (State.place_claims ..)
      (State.place_watches ..) (State.place_sessions ..)
  | lease c => exact (h.setSession (e := (s.session c).toGrace) ⟨rfl, rfl, rfl⟩).congr rfl rfl rfl rfl
  | grace c => exact h.teardown c .lapsed
  | reset cause => exact (s.deviceReset_ledger cause).congr rfl rfl rfl rfl
  | resetLasts => exact h.congr rfl rfl rfl rfl
  | resetEnds | board | bus | edgeEnds => exact h.congr (by simp) (by simp) (by simp) (by simp)

theorem State.Ledger.setWatch (h : s.Ledger) (w : Watch) : (s.setWatch w).Ledger := by
  refine h.steady h.sound (fun _ => .refl _) (fun _ => rfl) (fun _ => rfl) (fun d => ?_) fun _ => ⟨rfl, rfl, rfl⟩
  rw [show (s.setWatch w).watches = s.watches.map _ from rfl, List.countP_map]
  refine List.countP_congr fun v _ => ?_
  simp only [Function.comp]
  split
  · next e => simp only [Bool.and_eq_true, decide_eq_true_eq] at e; rw [e.1]
  · exact Iff.rfl

theorem Effect.keepsLedger (e : Effect c s t) (h : s.Ledger) : t.Ledger := by
  have owned {k : Chan} (ho : (s.channel k).owner = some c) : (s.channel k).owner.isSome := by rw [ho]; rfl
  have used {k : Chan} (ho : (s.channel k).owner = some c) : (s.channel k).state ≠ .free := fun hf => by
    rw [(h.sound k).owner_none hf] at ho; cases ho
  cases e with
  | unchanged => exact h
  | opens lease => exact h.setSession ⟨rfl, rfl, rfl⟩
  | closes => exact h.teardown c .closed
  | resets => exact (s.deviceReset_ledger .resetCommand).congr (by simp) (by simp) (by simp) (by simp)
  | setsPolicy p e =>
    have edge : (if (s.pad p).tickDue = true then s.takeEdge p else s).Ledger := by
      split
      · exact h.takeEdge p
      · exact h
    exact edge.congr (by simp [State.writePolicy]) (by simp [State.writePolicy]) (by simp [State.writePolicy])
      (by simp [State.writePolicy])
  | claimsLive a may => exact h.claimLive may
  | claimsPending a k may wait => exact h.claimPending may wait
  | modifiesNow q a may => exact h.modifyNow may
  | modifiesLater q a k may wait => exact h.modifyLater may wait
  | releases p q => exact State.Wired.claimsChanged (h.dropClaims _) (some c)
  | binds k _ free => exact h.bindTo free
  | configures k r _ idle chain => exact h.configure idle chain
  | stages k x owner => exact h.setChannel ((h.sound k).staged (owned owner) _) ⟨rfl, rfl, rfl, Iff.rfl⟩
  | commits k x owner =>
    exact h.setChannel ((h.sound k).commitStaged (owned owner) x) (Channel.commitStaged_kin _ x)
  | cancels k owner => exact h.setChannel ((h.sound k).cancelled (owned owner)) ⟨rfl, rfl, rfl, Iff.rfl⟩
  | starts ks may => exact h.startChans _ fun k hk => ⟨owned (may k hk).1, used (may k hk).1⟩
  | arms k p e owner idle =>
    exact h.setChannel ((h.sound k).armedAt idle (owned owner) _) ⟨rfl, rfl, rfl, iff_of_false (by simp) (used owner)⟩
  | stops k _ running => exact h.stopRunning_of_running running
  | disarms k owner armed =>
    exact h.setChannel ((h.sound k).disarmed armed) ⟨rfl, rfl, rfl, iff_of_false (by simp) (used owner)⟩
  | releasesChannel k owner => exact h.letGo owner
  | adopts k _ inUse => exact h.adopt inUse
  | replacesWatch w => exact h.setWatch w
  | addsWatch w => exact h.recountWatches _
  | dropsWatch p => exact h.recountWatches _
  | fetches n => exact h.congr (by simp) (by simp) (by simp) (by simp)

/-! ## The step lemmas of the channels and of the CHAIN sources -/

theorem State.Ledger.taken (h : s.Ledger) (c : Client) : (s.taken c).Ledger :=
  ⟨⟨h.sound, h.tied⟩, h.kept, h.counts.taken c⟩

end

theorem ledger_survives : Survives State.Ledger := ⟨fun _ _ h e => e.keepsLedger h⟩

theorem ledger_keeps : Keeps State.Ledger where
  toSurvives := ledger_survives
  pending _ _ h := h.congr rfl rfl rfl rfl
  base _ h caught := caught.baseTick (ledger_survives.idle_catchUp (fun _ ht => (State.ledger_iff.mp ht).1) h)
  request _ _ c _ _ _ h _ _ e := (e.keepsLedger (h.taken c)).congr rfl rfl rfl rfl

/-- Settles O13: the channels and the counts survive every event and every effect, whatever the claim pool holds. -/
theorem everyStepKeepsTheChannels : Obligations.EveryStepKeepsTheChannels := fun _ _ h ht =>
  State.ledger_iff.mp (ledger_keeps.step (State.ledger_iff.mpr h) ht)

theorem noLoops_keeps : Keeps State.NoLoops where
  event _ _ h e := e.slower.noLoops h
  pending _ _ h := h
  base _ _ caught := State.noLoops_baseTick caught
  request _ _ _ _ _ _ h _ _ e := e.noLoops h

/-- Settles O12: no event gives a channel a new clock source, and a CONFIGURE that passes its checks closes no loop. -/
theorem everyStepKeepsChainsLoopFree : Obligations.EveryStepKeepsChainsLoopFree := fun _ _ h ht =>
  noLoops_keeps.step h ht

end Sys2Proof.Machine
end

section
/-! PROOFS. ARM (R63): the payloads it refuses, its answer by the channel's state, and the reply to a request that
changes channels alone. -/

namespace Sys2Proof.Machine

open Sys2Proof

section
variable {s u : State} {c : Client}

/-! ## A request that changes channels alone -/

theorem channelsAnswered_of_same (ports : u.ports = (s.taken c).ports) (sessions : u.sessions = (s.taken c).sessions)
    (pool : SamePool s u) (pins : SamePins s u) (watches : u.watches = s.watches) (queues : u.queues = s.queues)
    (device : SameDevice (s.taken c) u) (tag : Byte) (st : Status) (pl : List Byte) :
    ChannelsAnswered s (u.answer c tag st pl) c tag st pl := by
  obtain ⟨claims, lists, waits⟩ := pool
  obtain ⟨policies, pads⟩ := pins
  exact ⟨answered_of_ports (fun d => by rw [State.port_congr ports]) tag st pl,
    onlyRenewed_of_sessions sessions tag st pl,
    ⟨(State.answer_claims ..).trans claims, (State.answer_claimLists ..).trans lists,
      (State.answer_waitLists ..).trans waits⟩,
    ⟨(State.answer_policies ..).trans policies, (State.answer_pads ..).trans pads⟩,
    (State.answer_watches ..).trans watches, (State.answer_queues ..).trans queues, sameDevice_answer device tag st pl⟩

/-- A request whose block rewrites one channel and nothing else. -/
theorem exec_setChannel {cmd : Command} {tag : Byte} {pl reply : List Byte} {k : Chan} {ch : Channel} {st : Status}
    (h : s.Asks c (frameOf cmd tag pl)) (hr : s.served c cmd pl =
      { state := (s.taken c).setChannel k ch, status := st, payload := reply }) :
    ∃ t, exec (requestAt c cmd) s = .next t ∧ t.channel k = ch ∧ (∀ j : Chan, j ≠ k → t.channel j = s.channel j) ∧
      ChannelsAnswered s t c tag st reply := by
  refine ⟨_, exec_of_asks h, ?_⟩
  rw [hr]
  refine ⟨?_, fun j hj => ?_, ?_⟩
  · rw [State.answer_channel, State.channel_setChannel_self]
  · rw [State.answer_channel, State.channel_setChannel_ne _ _ hj, State.taken_channel]
  · exact channelsAnswered_of_same rfl rfl ⟨rfl, rfl, rfl⟩ ⟨rfl, rfl⟩ rfl rfl ⟨rfl, rfl, rfl, rfl, rfl⟩ tag st reply

end

/-! ## Payloads (R63) -/

theorem edgeOf?_eq_some {b : Byte} {e : Edge} (h : edgeOf? b = some e) : b = 1 ∨ b = 2 := by
  unfold edgeOf? at h
  split at h
  · next hb => exact .inl (BitVec.eq_of_toNat_eq hb)
  · next hb => exact .inr (BitVec.eq_of_toNat_eq hb)
  · cases h

theorem chanOf?_le {b : Byte} {k : Chan} (h : chanOf? b = some k) : b.toNat ≤ 5 := by
  rw [chanOf?_eq_some.mp h, toNat_byteOf (by omega)]; omega

theorem pinOf?_le {b : Byte} {p : Pin} (h : pinOf? b = some p) : b.toNat ≤ 15 := by
  rw [pinOf?_eq_some.mp h, toNat_byteOf (by omega)]; omega

/-- An ARM payload with a field outside its range decodes as nothing. -/
theorem decodeArm_eq_none {bk bp be : Byte} (h : 5 < bk.toNat ∨ 15 < bp.toNat ∨ (be ≠ 1 ∧ be ≠ 2)) :
    decodeArm [bk, bp, be] = none := by
  unfold decodeArm
  split
  · next hk hp he =>
    have chan : bk.toNat ≤ 5 := chanOf?_le hk
    have pin : bp.toNat ≤ 15 := pinOf?_le hp
    obtain h | h | ⟨rise, fall⟩ := h
    · omega
    · omega
    · exact absurd (edgeOf?_eq_some he) (not_or_intro rise fall)
  · rfl

/-! ## The answer (R63) -/

theorem State.served_arm {s : State} {c : Client} (hs : s.InSession c) (bk bp be : Byte) :
    s.served c .arm [bk, bp, be] = armAct c [bk, bp, be] (s.taken c) := State.served_act (fun _ => hs) rfl

/-- ARM by the owner of the channel, at its block. -/
theorem armAct_of_owner {s : State} {c : Client} {k : Chan} (ho : (s.channel k).owner = some c) (p : Pin) (e : Edge) :
    armAct c [byteOf k.val, byteOf p.val, edgeByte e] s =
      if (s.channel k).state = .stopped ∨ (s.channel k).state = .done then
        { state := s.setChannel k { s.channel k with state := .armed, trigger := some (p, e), triggerDue := false }
          status := .ok, payload := [2] }
      else refuse s .state := by
  simp only [armAct, decodeArm_bytes]
  rw [if_neg (not_not_intro ho)]
  by_cases idle : (s.channel k).state = .stopped ∨ (s.channel k).state = .done
  · rw [if_neg (by rcases idle with e | e <;> simp [e]), if_pos idle]; rfl
  · rw [if_pos (by simpa [not_or] using idle), if_neg idle]

/-- Settles O39: ARM rewrites its channel alone. -/
theorem armStoresTheTrigger : Obligations.ArmStoresTheTrigger := by
  refine ⟨fun s c tag k p e ha hs ho idle => exec_setChannel ha ?_,
    fun s c tag k p e ha hs ho busy => exec_refused ha ?_, fun s c tag bk bp be ha hs bad => exec_refused ha ?_⟩
  · rw [State.served_arm hs, armAct_of_owner (s := s.taken c) ho, State.taken_channel, if_pos idle]
  · rw [State.served_arm hs, armAct_of_owner (s := s.taken c) ho, State.taken_channel, if_neg]
    rcases busy with e | e <;> simp [e]
  · rw [State.served_arm hs, armAct, decodeArm_eq_none bad]

end Sys2Proof.Machine
end

section
/-! PROOFS. START, START GROUP and the trigger edge (R62, R64, R67, R68): the checks of a group entry by entry, and
what a start leaves. -/

namespace Sys2Proof.Machine

open Sys2Proof

/-! ## The checks of START GROUP (R67) -/

theorem ChanState.startable_iff {x : ChanState} : x.startable = true ↔ x ≠ .free ∧ x ≠ .running := by
  cases x <;> decide

/-- A channel that its owner may start. -/
def State.MayStart (s : State) (c : Client) (k : Chan) : Prop :=
  (s.channel k).owner = some c ∧ (s.channel k).state.startable = true

section
variable {s : State} {c : Client}

theorem State.groupCheck_byteOf (s : State) (c : Client) (earlier : List Byte) (k : Chan) :
    s.groupCheck c earlier (byteOf k.val) =
      if byteOf k.val ∈ earlier then some .badArg
      else if (s.channel k).owner ≠ some c then some .notOwner
      else if (s.channel k).state.startable = true then none
      else some .state := by
  simp only [State.groupCheck, chanOf?_byteOf, List.contains_iff_mem]
  cases (s.channel k).state.startable <;> rfl

theorem byteOf_mem_map {k : Chan} {ks : List Chan} : byteOf k.val ∈ ks.map (fun k : Chan => byteOf k.val) ↔ k ∈ ks :=
  List.mem_map_of_injective fun _ _ h => byteOf_chan_injective h

/-- Entries that pass the checks are passed over. -/
theorem State.groupFail_append {ks : List Chan} (rest : List Byte) :
    ∀ {before : List Chan}, (before ++ ks).Nodup → (∀ k ∈ ks, s.MayStart c k) →
      s.groupFail c (before.map fun k => byteOf k.val) ((ks.map fun k => byteOf k.val) ++ rest) =
        s.groupFail c ((before ++ ks).map fun k => byteOf k.val) rest := by
  induction ks with
  | nil => intro before _ _; simp
  | cons k ks ih =>
    intro before distinct may
    obtain ⟨owner, startable⟩ := may k List.mem_cons_self
    have new : k ∉ before := fun hk =>
      (List.nodup_append.mp distinct).2.2 k hk k List.mem_cons_self rfl
    have passes : s.groupCheck c (before.map fun k => byteOf k.val) (byteOf k.val) = none := by
      rw [State.groupCheck_byteOf, if_neg (mt byteOf_mem_map.mp new), if_neg (not_not_intro owner), if_pos startable]
    rw [List.map_cons, List.cons_append, State.groupFail, passes]
    have step := ih (before := before ++ [k]) (by simpa using distinct) fun j hj => may j (List.mem_cons_of_mem _ hj)
    simpa using step

theorem State.groupFail_of_mayStart {ks : List Chan} (distinct : ks.Nodup) (may : ∀ k ∈ ks, s.MayStart c k) :
    s.groupFail c [] (ks.map fun k => byteOf k.val) = none := by
  have pass := State.groupFail_append [] (before := []) (by simpa using distinct) may
  rw [List.append_nil] at pass
  exact pass

/-- The status of an entry that fails, after entries that pass. -/
theorem State.groupCheck_of_bad {ks : List Chan} {b : Byte}
    (bad : ∀ k : Chan, b = byteOf k.val →
      k ∈ ks ∨ (s.channel k).owner ≠ some c ∨ (s.channel k).state = .running) :
    s.groupCheck c (ks.map fun k => byteOf k.val) b = some
      (if ∃ k : Chan, b = byteOf k.val ∧ k ∉ ks then
        (if ∃ k : Chan, b = byteOf k.val ∧ (s.channel k).owner = some c then .state else .notOwner)
      else .badArg) := by
  cases hb : chanOf? b with
  | none =>
    have noChan : ∀ k : Chan, b ≠ byteOf k.val := fun k e => by rw [chanOf?_eq_some.mpr e] at hb; cases hb
    rw [if_neg fun ⟨k, e, _⟩ => noChan k e, State.groupCheck, hb]
  | some k =>
    obtain rfl := chanOf?_eq_some.mp hb
    have only {P : Chan → Prop} : (∃ j : Chan, byteOf k.val = byteOf j.val ∧ P j) ↔ P k :=
      ⟨fun ⟨j, e, h⟩ => byteOf_chan_injective e ▸ h, fun h => ⟨k, rfl, h⟩⟩
    rw [State.groupCheck_byteOf]
    simp only [byteOf_mem_map, only]
    by_cases listed : k ∈ ks
    · simp [listed]
    · by_cases owner : (s.channel k).owner = some c
      · have running : (s.channel k).state = .running :=
          ((bad k rfl).resolve_left listed).resolve_left (not_not_intro owner)
        simp [listed, owner, running, ChanState.startable]
      · simp [listed, owner]

end

theorem State.served_startGroup {s : State} {c : Client} (hs : s.InSession c) {pl : List Byte} (h0 : 0 < pl.length)
    (h6 : pl.length ≤ 6) : s.served c .startGroup pl = startGroupAct c pl (s.taken c) :=
  State.served_act (fun _ => hs) (by simp only [lengthOk, Bool.and_eq_true, decide_eq_true_eq]; omega)

/-- Settles O38: the entries before the first failing one are passed over, and its check says the status. -/
theorem startGroupRefusesWhole : Obligations.StartGroupRefusesWhole := by
  intro s c tag ks b rest ha hs distinct short may bad free
  refine exec_onlyAnswered ha ?_
  have mayStart : ∀ k ∈ ks, (s.taken c).MayStart c k := fun k hk => by
    obtain ⟨owner, idle⟩ := may k hk
    refine ⟨owner, ChanState.startable_iff.mpr ⟨fun hf => ?_, idle⟩⟩
    rw [free k hf] at owner
    cases owner
  have fails := State.groupFail_append (b :: rest) (before := []) (by simpa using distinct) mayStart
  rw [List.nil_append, State.groupFail, State.groupCheck_of_bad (s := s.taken c) bad, List.length_map, List.map_nil]
    at fails
  have length : ((ks.map fun k => byteOf k.val) ++ b :: rest).length ≤ 6 := by
    simp only [List.length_append, List.length_map, List.length_cons]
    omega
  rw [State.served_startGroup hs (by simp) length, startGroupAct, fails]
  rfl

/-! ## What a start leaves (R62, R64, R68) -/

section
variable (s : State) (c : Client) (ks : List Chan)

theorem State.startChans_frame (x : Option Client) : PadsResolved s (s.startChans ks x) ∧
    SamePool s (s.startChans ks x) ∧ (s.startChans ks x).watches = s.watches ∧ SameDevice s (s.startChans ks x) :=
  ⟨⟨State.startChans_policies .., State.pad_startChans s ks x⟩, ⟨by simp, by simp, by simp⟩, by simp,
    ⟨by simp, by simp, by simp, by simp, by simp⟩⟩

/-- The same through the answer to the request that starts the channels. -/
theorem State.startChans_answered {t : State} {tag : Byte} {pl : List Byte}
    (ht : t = ((s.taken c).startChans ks (some c)).answer c tag .ok pl) :
    PadsResolved s t ∧ SamePool s t ∧ t.watches = s.watches ∧ SameDevice s t ∧ OnlyRenewed s t c ∧
      Answered s t c tag .ok pl := by
  subst ht
  obtain ⟨⟨policies, pads⟩, ⟨claims, lists, waits⟩, watches, device⟩ := (s.taken c).startChans_frame ks (some c)
  refine ⟨⟨(State.answer_policies ..).trans policies, fun p => ?_⟩, ⟨(State.answer_claims ..).trans claims,
    (State.answer_claimLists ..).trans lists, (State.answer_waitLists ..).trans waits⟩,
    (State.answer_watches ..).trans watches, sameDevice_answer device tag .ok pl,
    onlyRenewed_of_sessions (State.startChans_sessions ..) tag .ok pl,
    answered_of_placed ((s.taken c).startChans_placed ks (some c)) tag .ok pl⟩
  rw [State.answer_pad, State.resolve_answer]
  exact pads p

end

/-- The start of one channel, seen from one queue (R62, R64, R102). -/
theorem State.queue_startChans_one (s : State) (k : Chan) (x : Option Client) (d : Client) :
    (s.startChans [k] x).queue d =
      if x ≠ some d ∧ s.relies d k = true then
        (s.queue d).place (.sourceChange k .running (s.channel k).owner.isSome)
      else s.queue d := by
  have run : ((s.mapChannels fun j ch => if [k].contains j then ch.start else ch).channel k) = (s.channel k).fresh := by
    simp [Channel.start_eq_fresh]
  unfold State.startChans
  rw [State.resolvePads_queue, allChans_filter_singleton, List.foldl_cons, List.foldl_nil, State.queue_noteSource, run,
    State.queue_mapChannels]
  rfl

theorem State.served_start {s : State} {c : Client} (hs : s.InSession c) (b : Byte) :
    s.served c .start [b] = startAct c [b] (s.taken c) := State.served_act (fun _ => hs) rfl

/-- START by the owner of the channel, at its block. -/
theorem startAct_of_owner {s : State} {c : Client} {k : Chan} (ho : (s.channel k).owner = some c) :
    startAct c [byteOf k.val] s =
      if (s.channel k).state.startable = true then
        { state := s.startChans [k] (some c), status := .ok, payload := [3] }
      else refuse s .state := by
  simp only [startAct, byteAt_zero, chanOf?_byteOf]
  rw [if_neg (not_not_intro ho)]
  cases (s.channel k).state.startable <;> rfl

/-- An owned channel is not FREE. -/
theorem State.Lawful.mayStart {s : State} (h : s.Lawful) {c : Client} {k : Chan} (ho : (s.channel k).owner = some c)
    (hr : (s.channel k).state ≠ .running) : s.MayStart c k := by
  refine ⟨ho, ChanState.startable_iff.mpr ⟨fun hf => ?_, hr⟩⟩
  rw [((h.channels k).1.mp hf).1] at ho
  cases ho

theorem State.triggered_of_due {s : State} (h : s.Calm) {k : Chan} (ha : (s.channel k).state = .armed)
    (hd : (s.channel k).triggerDue = true) : s.triggered k = s.startChans [k] none := by
  have ready : s.ready k = s := h.ready (.inl (by simp [Channel.waiting, hd]))
  simp [State.triggered, ready, ha, hd]

/-- Settles O37: each of the three is one start of the channels it names. -/
theorem startsRunFromReload : Obligations.StartsRunFromReload := by
  refine ⟨fun s c tag k h ha hs ho hr => ?_, fun s c tag ks h ha hs listed distinct may => ?_,
    fun s k h hc ha hd => ?_, fun s c tag k ha hs ho hr => exec_refused ha ?_⟩
  · have served : s.served c .start [byteOf k.val] =
        { state := (s.taken c).startChans [k] (some c), status := .ok, payload := [3] } := by
      rw [State.served_start hs, startAct_of_owner (s := s.taken c) ho, State.taken_channel,
        if_pos (h.mayStart ho hr).2]
    refine ⟨_, exec_of_asks ha, ?_⟩
    rw [served]
    refine ⟨fun j => ?_, fun d => ?_, s.startChans_answered c [k] rfl⟩
    · rw [State.answer_channel, State.channel_startChans, State.taken_channel]
      simp only [List.mem_singleton]
    · rw [State.answer_queue, State.queue_startChans_one, State.taken_channel, ho]
      refine if_congr (and_congr ?_ Iff.rfl) rfl rfl
      simp [eq_comm]
  · have length : ks.length ≤ 6 := by simpa using distinct.length_le_card
    have served : s.served c .startGroup (ks.map fun k => byteOf k.val) =
        { state := (s.taken c).startChans ks (some c), status := .ok, payload := [] } := by
      have chans : (ks.map fun k : Chan => byteOf k.val).filterMap chanOf? = ks := by
        rw [List.filterMap_map]
        exact (List.filterMap_congr fun k _ => chanOf?_byteOf k).trans List.filterMap_some
      have passes : (s.taken c).groupFail c [] (ks.map fun k => byteOf k.val) = none :=
        State.groupFail_of_mayStart distinct fun k hk => h.mayStart (may k hk).1 (may k hk).2
      rw [State.served_startGroup hs (by simpa using List.length_pos_iff.mpr listed) (by simpa using length),
        startGroupAct, passes, chans]
    refine ⟨_, exec_of_asks ha, ?_⟩
    rw [served]
    refine ⟨fun j => ?_, fun d => ?_, s.startChans_answered c ks rfl⟩
    · rw [State.answer_channel, State.channel_startChans, State.taken_channel]
    · rw [State.answer_queue, State.queue_startChans]
      refine congrArg (fun f => allChans.foldl f (s.queue d)) (funext₂ fun q k => ?_)
      by_cases hk : k ∈ ks
      · rw [State.taken_channel, (may k hk).1]
        refine if_congr (and_congr Iff.rfl (and_congr ?_ Iff.rfl)) rfl rfl
        simp [eq_comm]
      · rw [if_neg fun e => hk e.1, if_neg fun e => hk e.1]
  · have owner : (s.channel k).owner.isSome = true := (Channel.ok_iff.mp (h.channels k)).1.armed ha
    obtain ⟨pads, pool, watches, device⟩ := s.startChans_frame [k] none
    refine ⟨s.startChans [k] none, congrArg Host.Outcome.next (State.triggered_of_due hc ha hd), fun j => ?_,
      fun d => ?_, pads, pool, watches, device, State.startChans_sessions .., s.startChans_placed [k] none⟩
    · rw [State.channel_startChans]
      simp only [List.mem_singleton]
    · rw [State.queue_startChans_singleton, owner]
  · rw [State.served_start hs, startAct_of_owner (s := s.taken c) ho, State.taken_channel, hr]
    rfl

end Sys2Proof.Machine
end

section
/-! PROOFS. CONFIGURE (R60, R61): the payloads it refuses, the walk of R59 as a path of channels, its checks in order, and
the settings replaced. -/

namespace Sys2Proof.Machine

open Sys2Proof

/-! ## Payloads (R60, check 1) -/

theorem modeOf?_le {b : Byte} {m : Mode} (h : modeOf? b = some m) : b.toNat ≤ 2 := by
  unfold modeOf? at h
  split at h
  case h_1 hb | h_2 hb | h_3 hb => omega
  case h_4 => cases h

theorem prescaleOf?_le {b : Byte} {e : Fin 9} (h : prescaleOf? b = some e) : b.toNat ≤ 8 := by
  unfold prescaleOf? at h
  split at h
  · omega
  · cases h

theorem boolOf?_le {b : Byte} {v : Bool} (h : boolOf? b = some v) : b.toNat ≤ 1 := by
  unfold boolOf? at h
  split at h
  case h_1 hb | h_2 hb => omega
  case h_3 => cases h

/-- A byte is the sum of its bits under a mask and its other bits. -/
theorem byteOf_add_of_mask {b m n v : Byte} (head : b &&& m = v) (all : m ||| n = BitVec.allOnes 8)
    (apart : m &&& n = 0) :
    byteOf (v.toNat + (b &&& n).toNat) = b := by
  have disjoint : (b &&& m) &&& (b &&& n) = 0 := by
    rw [show (b &&& m) &&& (b &&& n) = (b &&& b) &&& (m &&& n) by ac_rfl, apart]
    simp
  have sum : (b &&& m) + (b &&& n) = b := by
    rw [BitVec.add_eq_or_of_and_eq_zero _ _ disjoint, ← BitVec.and_or_distrib_left, all, BitVec.and_allOnes]
  rw [byteOf, BitVec.ofNat_add, BitVec.ofNat_toNat, BitVec.ofNat_toNat, ← head]
  simpa using sum

theorem pinOf?_val {b : Byte} {p : Pin} (h : pinOf? b = some p) : p.val = b.toNat := by
  rw [pinOf?_eq_some.mp h, toNat_byteOf (by omega)]

theorem chanOf?_val {b : Byte} {k : Chan} (h : chanOf? b = some k) : k.val = b.toNat := by
  rw [chanOf?_eq_some.mp h, toNat_byteOf (by omega)]

/-- A clock source is decoded from its own byte alone. -/
theorem clockByte_of_clockOf? {b : Byte} {src : ClockSource} (h : clockOf? b = some src) : clockByte src = b := by
  unfold clockOf? at h
  split_ifs at h with base rise fall chain
  · cases h; exact base.symm
  · obtain ⟨n, hn, rfl⟩ := Option.map_eq_some_iff.mp h
    rw [clockByte, pinOf?_val hn]
    exact byteOf_add_of_mask rise rfl rfl
  · obtain ⟨n, hn, rfl⟩ := Option.map_eq_some_iff.mp h
    rw [clockByte, pinOf?_val hn]
    exact byteOf_add_of_mask fall rfl rfl
  · obtain ⟨j, hj, rfl⟩ := Option.map_eq_some_iff.mp h
    rw [clockByte, chanOf?_val hj]
    exact byteOf_add_of_mask chain rfl rfl

/-- A CONFIGURE payload with a field outside its encoding decodes as nothing. -/
theorem decodeConfigure_eq_none {bs : List Byte}
    (h : 5 < (byteAt bs 0).toNat ∨ 2 < (byteAt bs 1).toNat ∨ 8 < (byteAt bs 6).toNat ∨
      (∀ src : ClockSource, clockByte src ≠ byteAt bs 7) ∨ 1 < (byteAt bs 8).toNat) : decodeConfigure bs = none := by
  unfold decodeConfigure
  split
  · next hk hm he hc hn =>
    have chan : (byteAt bs 0).toNat ≤ 5 := chanOf?_le hk
    have mode : (byteAt bs 1).toNat ≤ 2 := modeOf?_le hm
    have exp : (byteAt bs 6).toNat ≤ 8 := prescaleOf?_le he
    have notify : (byteAt bs 8).toNat ≤ 1 := boolOf?_le hn
    obtain h | h | h | h | h := h
    · omega
    · omega
    · omega
    · exact absurd (clockByte_of_clockOf? hc) (h _)
    · omega
  · rfl

/-! ## The walk of R59 -/

section
variable {s : State}

/-- The channels that a walk visits, in order. -/
theorem State.exists_path_of_walk {n : Nat} {j k : Chan} (h : s.walk n j = some k) :
    ∃ path : List Chan, path.head? = some j ∧ path.getLast? = some k ∧ path.length = n + 1 ∧
      path.IsChain fun a b => (s.channel a).settings.clock = .chain b := by
  induction n generalizing j with
  | zero => exact ⟨[j], rfl, h, rfl, .singleton j⟩
  | succ n ih =>
    rw [State.walk, Option.bind_eq_some_iff] at h
    obtain ⟨i, hi, hw⟩ := h
    obtain ⟨path, head, last, length, chain⟩ := ih hw
    obtain ⟨rest, rfl⟩ : ∃ rest, path = i :: rest := List.head?_eq_some_iff.mp head
    refine ⟨j :: i :: rest, rfl, ?_, by rw [List.length_cons, length], .cons_cons (State.chainOf_eq_some.mp hi) chain⟩
    rw [List.getLast?_cons_cons, last]

theorem State.walk_of_path {path : List Chan} {j k : Chan} (head : path.head? = some j) (last : path.getLast? = some k)
    (chain : path.IsChain fun a b => (s.channel a).settings.clock = .chain b) :
    s.walk (path.length - 1) j = some k := by
  induction path generalizing j with
  | nil => cases head
  | cons i path ih =>
    obtain rfl := Option.some.inj head
    cases path with
    | nil => exact last
    | cons b rest =>
      obtain ⟨source, chain⟩ := List.isChain_cons_cons.mp chain
      rw [List.getLast?_cons_cons] at last
      have onward := ih rfl last chain
      rw [List.length_cons, Nat.add_sub_cancel] at onward ⊢
      rw [List.length_cons, State.walk, State.chainOf_eq_some.mpr source]
      exact onward

/-- The check of R60 finds a loop where a path of at most six channels leads back (R59). -/
theorem State.chainReaches_six {j k : Chan} : s.chainReaches k 6 j = true ↔ ∃ path, s.ChainWalk j k path := by
  rw [State.chainReaches_iff]
  constructor
  · rintro ⟨n, hn, hw⟩
    obtain ⟨path, head, last, length, chain⟩ := State.exists_path_of_walk hw
    exact ⟨path, head, last, by omega, chain⟩
  · rintro ⟨path, head, last, length, chain⟩
    exact ⟨path.length - 1, by omega, State.walk_of_path head last chain⟩

/-! ## The checks (R60) -/

theorem State.chainCheck_eq_none {k : Chan} {src : ClockSource}
    (h : ∀ j : Chan, src = .chain j → (s.channel j).state ≠ .free ∧ ∀ path : List Chan, ¬ s.ChainWalk j k path) :
    s.chainCheck k src = none := by
  unfold State.chainCheck
  split
  · rfl
  · rfl
  · next j =>
    obtain ⟨used, no_way⟩ := h j rfl
    rw [if_neg used, if_neg fun e => ?_]
    obtain ⟨path, walk⟩ := State.chainReaches_six.mp e
    exact no_way path walk

theorem State.chainCheck_of_bad {k j : Chan} {path : List Chan}
    (h : (s.channel j).state = .free ∨ s.ChainWalk j k path) :
    s.chainCheck k (.chain j) = some (if (s.channel j).state = .free then .sourceFree else .loop) := by
  unfold State.chainCheck
  dsimp only
  by_cases free : (s.channel j).state = .free
  · rw [if_pos free, if_pos free]
  · rw [if_neg free, if_neg free, if_pos (State.chainReaches_six.mpr ⟨path, h.resolve_left free⟩)]

theorem State.served_configure {c : Client} (hs : s.InSession c) {pl : List Byte} (hl : lengthOk .configure pl = true) :
    s.served c .configure pl = configureAct c pl (s.taken c) := State.served_act (fun _ => hs) hl

/-- CONFIGURE by the owner of the channel, at its block. -/
theorem configureAct_of_owner {c : Client} {k : Chan} (ho : (s.channel k).owner = some c) (r : Settings) :
    configureAct c (byteOf k.val :: settingsBytes r) s =
      if (s.channel k).state = .stopped ∨ (s.channel k).state = .done then
        (s.chainCheck k r.clock).elim { state := s.configure k r, status := .ok, payload := [] } (refuse s)
      else refuse s .state := by
  unfold configureAct
  rw [decodeConfigure_bytes]
  dsimp only
  rw [if_neg (not_not_intro ho)]
  by_cases idle : (s.channel k).state = .stopped ∨ (s.channel k).state = .done
  · rw [if_neg (by rcases idle with e | e <;> simp [e]), if_pos idle]
    cases s.chainCheck k r.clock <;> rfl
  · rw [if_pos (by simpa [not_or] using idle), if_neg idle]

end

/-! ## The settings replaced (R61) -/

section
variable {s : State} {k : Chan}

/-- An owned channel is never freed (R96). -/
theorem Channel.settled_of_owner {ch : Channel} {c : Client} (ho : ch.owner = some c) (n : Nat) :
    ch.settled n = { ch with refs := n } := if_neg fun e => by rw [ho] at e; cases e.1

/-- Every channel after a CONFIGURE that passes its checks (R61, R95 to R97). -/
theorem State.channel_configure (h : s.ChannelsOk) (hf : (s.channel k).state ≠ .free) (r : Settings) (j : Chan) :
    (s.configure k r).channel j =
      (if k = j then { s.channel k with settings := r, staging := none } else s.channel j).settled
        ((s.configure k r).refsOf j) := by
  unfold State.configure
  rw [State.channel_settleRefs fun i hi => ?_, State.channel_setChannel]
  rw [State.channel_setChannel] at hi ⊢
  split at hi
  · exact absurd hi hf
  · next e => rw [if_neg e]; exact h.freeCleared i hi

/-- No session's count changes: the owners, the claims and the watches are as they were (R120). -/
theorem State.sessions_configure (h : s.CountsOk) (r : Settings) : (s.configure k r).sessions = s.sessions := by
  refine State.sessions_ext fun c => ?_
  obtain ⟨claims, watches, owned⟩ := h.2 c
  have owner (j : Chan) : ((s.setChannel k { s.channel k with settings := r, staging := none }).channel j).owner =
      (s.channel j).owner := by
    rw [State.channel_setChannel]
    split
    · next e => rw [← e]
    · rfl
  unfold State.configure
  rw [State.session_settleRefs]
  simp only [owner, State.session_setChannel, State.setChannel_claims, State.setChannel_watches, ← claims, ← watches,
    ← owned]

end

/-- Settles O33: the checks come in the order in which the block writes them, and its loop check is the walk of R59. -/
theorem configureReplacesTheSettings : Obligations.ConfigureReplacesTheSettings := by
  refine ⟨fun s c tag k r h ha hs ho idle chain => ?_, fun s c tag k r ha hs ho moving hd => exec_refused ha ?_,
    fun s c tag k r j path ha hs ho idle hr bad => exec_refused ha ?_,
    fun s c tag pl ha hs hlen bad => exec_refused ha ?_⟩
  · have used : (s.channel k).state ≠ .free := by rcases idle with e | e <;> simp [e]
    have served : s.served c .configure (byteOf k.val :: settingsBytes r) =
        { state := (s.taken c).configure k r, status := .ok, payload := [] } := by
      rw [State.served_configure hs (lengthOk_configure k r), configureAct_of_owner (s := s.taken c) ho,
        State.taken_channel, if_pos idle, State.chainCheck_eq_none (s := s.taken c) chain]
      rfl
    have channel := State.channel_configure (s := s.taken c) h.channels used r
    refine ⟨_, exec_of_asks ha, ?_⟩
    rw [served]
    dsimp only
    refine ⟨?_, fun j hj => ?_, ?_⟩
    · rw [State.answer_channel, State.refsOf_answer, channel, if_pos rfl, State.taken_channel]
      exact Channel.settled_of_owner (ch := { s.channel k with settings := r, staging := none }) ho _
    · rw [State.answer_channel, State.refsOf_answer, channel, if_neg (Ne.symm hj), State.taken_channel]
    · exact channelsAnswered_of_same (by simp) (State.sessions_configure (h.counts.taken c) r)
        ⟨by simp, by simp, by simp⟩ ⟨by simp, by simp⟩ (by simp) (by simp) ⟨by simp, by simp, by simp, by simp, by simp⟩ tag .ok []
  · rw [State.served_configure hs (lengthOk_configure k r), configureAct_of_owner (s := s.taken c) ho,
      State.taken_channel, if_neg (not_or_intro moving hd)]
  · rw [State.served_configure hs (lengthOk_configure k r), configureAct_of_owner (s := s.taken c) ho,
      State.taken_channel, if_pos idle, hr, State.chainCheck_of_bad (s := s.taken c) bad]
    rfl
  · rw [State.served_configure hs (by simp [lengthOk, hlen]), configureAct, decodeConfigure_eq_none bad]

end Sys2Proof.Machine
end

section
/-! PROOFS. The activation of a waiting list (R22 to R24): the claim lists and the claims as the statements write
them. -/

namespace Sys2Proof.Machine

open Sys2Proof

/-! ## Insertion by rank (R4) -/

/-- There is one place immediately after the last claim of equal or higher rank. -/
theorem Inserted.eq_placedByRank {l m : List Client} {rk : Client → Rank} {c : Client} {r : Rank}
    (h : Inserted l m rk c r) : m = placedByRank l rk c r := by
  obtain ⟨i, -, rfl, low, last⟩ := h
  have parts : l.reverse = (l.drop i).reverse ++ (l.take i).reverse := by
    rw [← List.reverse_append, List.take_append_drop]
  have lower : ∀ y ∈ (l.drop i).reverse, decide (rk y < r) = true := fun y hy =>
    decide_eq_true (low y (List.mem_reverse.mp hy))
  rw [← List.head?_reverse] at last
  have stops : (l.take i).reverse.dropWhile (fun y => rk y < r) = (l.take i).reverse ∧
      (l.take i).reverse.takeWhile (fun y => rk y < r) = [] := by
    cases hr : (l.take i).reverse with
    | nil => exact ⟨rfl, rfl⟩
    | cons y ys =>
      rw [hr] at last
      have high : ¬rk y < r := not_lt.mpr (of_decide_eq_true last)
      exact ⟨List.dropWhile_cons_of_neg (by simpa using high), List.takeWhile_cons_of_neg (by simpa using high)⟩
  obtain ⟨drops, takes⟩ := stops
  rw [placedByRank, parts, List.dropWhile_append_of_pos lower, List.takeWhile_append_of_pos lower, drops, takes,
    List.append_nil, List.reverse_reverse, List.reverse_reverse]

theorem insertRanked_eq_placedByRank (rk : Client → Rank) (c : Client) (r : Rank) (l : List Client) :
    insertRanked rk c r l = placedByRank l rk c r := (insertRanked_inserted rk c r l).eq_placedByRank

/-! ## One claim of a waiting list -/

section
variable {s t : State}

/-- What the activation of one claim makes of a pin's list and of its clients' ranks: a round of `activatedList`. -/
def State.listRound (s : State) (p : Pin) (acc : List Client × (Client → Rank)) (w : Client × Pin) :
    List Client × (Client → Rank) :=
  match s.claimAt w.1 p with
  | none => acc
  | some q =>
      let r := (q.change.bind (·.rank)).getD q.rank
      if w.2 = p ∧ (q.state = .pending ∨ r ≠ q.rank) then
        (placedByRank (acc.1.filter (· ≠ w.1)) acc.2 w.1 r, fun y => if y = w.1 then r else acc.2 y)
      else acc

theorem activatedList_eq (s : State) (k : Chan) (p : Pin) : activatedList s k p =
    ((s.waitList k).foldl (s.listRound p) (s.claimList p, fun y => s.rankAt y p)).1 := rfl

theorem State.listRound_other {p : Pin} {w : Client × Pin} (h : w.2 ≠ p) (acc : List Client × (Client → Rank)) :
    s.listRound p acc w = acc := by
  unfold State.listRound
  split
  · rfl
  · exact if_neg fun e => h e.1

theorem State.listRound_self {c : Client} {p : Pin} {q : Claim} (hq : s.claimAt c p = some q)
    (acc : List Client × (Client → Rank)) : s.listRound p acc (c, p) =
      if q.state = .pending ∨ q.activated.rank ≠ q.rank then
        (placedByRank (acc.1.filter (· ≠ c)) acc.2 c q.activated.rank,
          fun y => if y = c then q.activated.rank else acc.2 y)
      else acc := by
  unfold State.listRound
  rw [hq]
  simp only [true_and]
  rfl

theorem State.activateOne_of_none {id : Client × Pin} (h : s.claimAt id.1 id.2 = none) : s.activateOne id = s := by
  unfold State.activateOne
  rw [h]

theorem State.activateOne_of_some {id : Client × Pin} {q : Claim} (h : s.claimAt id.1 id.2 = some q) :
    s.activateOne id = if q.state = .pending ∨ q.activated.rank ≠ q.rank then
      (s.setClaim q.activated).enterList id.1 id.2 else s.setClaim q.activated := by
  unfold State.activateOne
  rw [h]
  simp only [Bool.or_eq_true, decide_eq_true_eq]

/-- The activation of a claim changes no other claim. -/
theorem State.claimAt_activateOne_ne {id : Client × Pin} {d : Client} {x : Pin} (h : (d, x) ≠ id) :
    (s.activateOne id).claimAt d x = s.claimAt d x := by
  cases hq : s.claimAt id.1 id.2 with
  | none => rw [State.activateOne_of_none hq]
  | some q =>
    obtain ⟨-, client, pin⟩ := State.claimAt_mem hq
    have claims : (s.activateOne id).claims = (s.setClaim q.activated).claims := by
      rw [State.activateOne_of_some hq]
      split
      · exact State.enterList_claims ..
      · rfl
    rw [State.claimAt_congr claims, State.claimAt_setClaim, if_neg]
    rintro ⟨hc, hp⟩
    exact h (Prod.ext (hc.symm.trans client) (hp.symm.trans pin))

theorem State.claimList_activateOne_ne {id : Client × Pin} {p : Pin} (h : id.2 ≠ p) :
    (s.activateOne id).claimList p = s.claimList p := by
  cases hq : s.claimAt id.1 id.2 with
  | none => rw [State.activateOne_of_none hq]
  | some q =>
    rw [State.activateOne_of_some hq]
    split
    · rw [State.claimList_enterList, if_neg h, State.setClaim_claimList]
    · exact State.setClaim_claimList ..

/-- A pin's list and its clients' ranks, as a run of `activatedList` holds them. -/
def State.ListedAs (t : State) (p : Pin) (acc : List Client × (Client → Rank)) : Prop :=
  t.claimList p = acc.1 ∧ ∀ y : Client, t.rankAt y p = acc.2 y

/-- A round follows the activation of a claim that the ones before it left alone. -/
theorem State.ListedAs.round {p : Pin} {acc : List Client × (Client → Rank)} {w : Client × Pin} (h : t.ListedAs p acc)
    (same : t.claimAt w.1 w.2 = s.claimAt w.1 w.2) : (t.activateOne w).ListedAs p (s.listRound p acc w) := by
  obtain ⟨list, rank⟩ := h
  by_cases pin : w.2 = p
  · obtain ⟨c, x⟩ := w
    dsimp only at pin same
    subst pin
    cases hq : s.claimAt c x with
    | none =>
      rw [State.activateOne_of_none (same.trans hq), State.listRound, hq]
      exact ⟨list, rank⟩
    | some q =>
      have found : t.claimAt c x = some q := same.trans hq
      obtain ⟨-, client, pin⟩ := State.claimAt_mem found
      have ranks (y : Client) : (t.setClaim q.activated).rankAt y x =
          if y = c then q.activated.rank else acc.2 y := by
        rw [State.rankAt_setClaim (q' := q.activated) found client pin, rank]
        simp only [Prod.mk.injEq, and_true]
      rw [State.activateOne_of_some found, State.listRound_self hq]
      dsimp only
      by_cases moves : q.state = .pending ∨ q.activated.rank ≠ q.rank
      · rw [if_pos moves, if_pos moves]
        refine ⟨?_, fun y => (State.rankAt_congr (State.enterList_claims ..) y x).trans (ranks y)⟩
        rw [State.claimList_enterList, if_pos rfl, State.setClaim_claimList, list, ranks, if_pos rfl,
          ← insertRanked_eq_placedByRank]
        refine insertRanked_congr (fun y hy => ?_) c _
        rw [ranks, if_neg (by simpa using (List.mem_filter.mp hy).2)]
      · rw [if_neg moves, if_neg moves]
        refine ⟨(State.setClaim_claimList ..).trans list, fun y => ?_⟩
        rw [ranks]
        split
        · next e =>
          subst e
          rw [← rank, State.rankAt, found]
          exact not_not.mp fun ne => moves (.inr ne)
        · rfl
  · rw [State.listRound_other pin]
    refine ⟨(State.claimList_activateOne_ne pin).trans list, fun y => ?_⟩
    rw [State.rankAt, State.claimAt_activateOne_ne (by intro e; exact pin (congrArg Prod.snd e).symm)]
    exact rank y

theorem State.ListedAs.rounds {p : Pin} {ids : List (Client × Pin)} (distinct : ids.Nodup) :
    ∀ {t : State} {acc : List Client × (Client → Rank)}, t.ListedAs p acc →
      (∀ w ∈ ids, t.claimAt w.1 w.2 = s.claimAt w.1 w.2) →
      (ids.foldl State.activateOne t).ListedAs p (ids.foldl (s.listRound p) acc) := by
  induction ids with
  | nil => intro t acc h _; exact h
  | cons w ids ih =>
    intro t acc h same
    obtain ⟨new, distinct⟩ := List.nodup_cons.mp distinct
    refine ih distinct (h.round (same w List.mem_cons_self)) fun v hv => ?_
    have other : (v.1, v.2) ≠ w := fun e => new (e ▸ hv)
    rw [State.claimAt_activateOne_ne other]
    exact same v (List.mem_cons_of_mem _ hv)

/-- The claim lists once a waiting list has been activated (R22). -/
theorem State.claimList_activate_eq {k : Chan} (distinct : (s.waitList k).Nodup) (p : Pin) :
    (s.activate k).claimList p = activatedList s k p := by
  have atFirst : (s.setWaitList k []).ListedAs p (s.claimList p, fun y => s.rankAt y p) := ⟨rfl, fun _ => rfl⟩
  unfold State.activate
  rw [State.noteTops_claimList, activatedList_eq]
  exact (atFirst.rounds distinct fun _ _ => rfl).1

/-- What `activatedList` looks at. -/
theorem activatedList_congr (hc : t.claims = s.claims) (hl : t.claimLists = s.claimLists)
    (hw : t.waitLists = s.waitLists) (k : Chan) (p : Pin) : activatedList t k p = activatedList s k p := by
  unfold activatedList
  simp only [State.claimAt_congr hc, State.rankAt_congr hc, State.claimList_congr hl, State.waitList_congr hw]

/-- The claims once a waiting list has been activated, whatever the state of its channel (R22). -/
theorem State.WaitsHeld.claims_activate (h : s.WaitsHeld) (hu : s.Unique) (k : Chan) :
    (s.activate k).claims = activatedClaims s.claims k := by
  rw [State.claims_activate_map hu (h k).1]
  refine List.map_congr_left fun q hq => ?_
  have waits : (q.client, q.pin) ∈ s.waitList k ↔ q.wait = some k := by
    rw [(h k).2, State.WaitsFor, State.claimAt_of_mem hu hq]
    simp
  simp only [waits, Claim.activated]

end

end Sys2Proof.Machine
end

section
/-! PROOFS. STOP (R65): what it leaves of a RUNNING channel, of the claims that waited on it, and who is told. -/

namespace Sys2Proof.Machine

open Sys2Proof

/-! ## STOP of a RUNNING channel -/

section
variable (s : State) (k : Chan) (c : Client)

theorem State.queue_stopped (d : Client) : (s.stopped k).queue d =
    if (s.channel k).owner = some d ∧ (s.channel k).commit ≠ none then (s.queue d).place (.commitEnd k false)
    else s.queue d := by
  unfold State.stopped
  cases h : (s.channel k).commit with
  | none => simp
  | some x => simp [State.queue_noteOwner]

theorem State.stopped_placed : Placed (s.setChannel k { s.channel k with
    state := .stopped, output := false, commit := none, inputsDue := 0 }) (s.stopped k) := by
  unfold State.stopped
  split
  · exact .noteOwner ..
  · exact .refl _

@[simp] theorem State.stopped_sessions : (s.stopped k).sessions = s.sessions := by unfold State.stopped; split <;> simp
@[simp] theorem State.stopped_watches : (s.stopped k).watches = s.watches := by unfold State.stopped; split <;> simp

theorem State.stopRunning_claims : (s.stopRunning k c).claims = ((s.stopped k).activate k).claims := by
  simp [State.stopRunning_eq]

theorem State.stopRunning_claimLists : (s.stopRunning k c).claimLists = ((s.stopped k).activate k).claimLists := by
  simp [State.stopRunning_eq]

theorem State.waitList_stopRunning (j : Chan) :
    (s.stopRunning k c).waitList j = if k = j then [] else s.waitList j := by
  rw [State.stopRunning_eq, State.resolvePads_waitList, State.settleRefs_waitList, State.noteSource_waitList,
    State.waitList_activate, State.waitList_congr (s.stopped_waitLists k)]

theorem State.pad_stopRunning (p : Pin) :
    (s.stopRunning k c).pad p = (s.pad p).take ((s.stopRunning k c).resolve p) := by
  rw [State.stopRunning_eq, State.resolve_resolvePads, State.pad_resolvePads, State.settleRefs_pad,
    State.noteSource_pad, State.activate_pad, State.pad_congr (s.stopped_pads k)]

theorem State.stopRunning_samePorts : SamePorts s (s.stopRunning k c) := by
  have stopped : SamePorts s (s.stopped k) := (s.stopped_placed k).samePorts
  have told : SamePorts s (((s.stopped k).activate k).noteSource k (some c)) :=
    samePorts_trans (samePorts_trans stopped (State.activate_samePorts _ k)) (Placed.noteSource _ k _).samePorts
  intro d
  rw [State.stopRunning_eq, State.resolvePads_port, State.settleRefs_port]
  exact told d

/-- The owner hears of the commit, every client of its tops, and the others that still rely on the channel of its
stop (R65, R24, R102). -/
theorem State.queue_stopRunning (d : Client) : (s.stopRunning k c).queue d =
    (let q := if (s.channel k).owner = some d ∧ (s.channel k).commit ≠ none then (s.queue d).place (.commitEnd k false)
      else s.queue d
     let q' := topNotices s (s.stopRunning k c) none d q
     if d ≠ c ∧ (s.stopRunning k c).relies d k = true then
       q'.place (.sourceChange k .stopped (s.channel k).owner.isSome) else q') := by
  have channel : ((s.stopped k).activate k).channel k = (s.stopped k).channel k := State.activate_channel ..
  have relies : (s.stopRunning k c).relies d k = ((s.stopped k).activate k).relies d k := by
    simp only [State.relies, State.stopRunning_claims]
  dsimp only
  rw [topNotices_congr (State.stopRunning_claimLists s k c) (State.stopRunning_claims s k c), relies,
    State.stopRunning_eq, State.resolvePads_queue, State.settleRefs_queue, State.queue_noteSource, channel, State.channel_stopped, if_pos rfl,
    State.queue_activate, State.queue_stopped, topNotices_congr_before (s.stopped_claimLists k)]
  refine if_congr (and_congr ?_ Iff.rfl) rfl rfl
  simp [eq_comm]

end

section
variable {s : State} {k : Chan}

/-- Every channel after a STOP (R65, R95 to R97). -/
theorem State.channel_stopRunning (h : s.ChannelsOk) (k : Chan) (c : Client) (j : Chan) :
    (s.stopRunning k c).channel j =
      (if k = j then { s.channel k with state := .stopped, output := false, commit := none, inputsDue := 0 }
        else s.channel j).settled ((s.stopRunning k c).refsOf j) := by
  have channel (i : Chan) : (((s.stopped k).activate k).noteSource k (some c)).channel i = (s.stopped k).channel i := by
    rw [State.noteSource_channel, State.activate_channel]
  have refs : (s.stopRunning k c).refsOf j = (((s.stopped k).activate k).noteSource k (some c)).settleRefs.refsOf j :=
    State.refsOf_congr (by simp [State.stopRunning_eq]) (fun i => by simp [State.stopRunning_eq]) j
  rw [refs, State.stopRunning_eq, State.resolvePads_channel, State.channel_settleRefs fun i hi => ?_, channel,
    State.channel_stopped]
  rw [channel, State.channel_stopped] at hi ⊢
  split at hi
  · cases hi
  · next e => rw [if_neg e]; exact h.freeCleared i hi

/-- An activation changes no count of a session (R22, R120). -/
theorem activatedClaims_countP (l : List Claim) (k : Chan) (d : Client) :
    ((activatedClaims l k).countP fun q => q.client = d) = l.countP fun q => q.client = d := by
  unfold activatedClaims
  rw [List.countP_map]
  refine List.countP_congr fun q _ => ?_
  simp only [Function.comp]
  split <;> exact Iff.rfl

theorem State.claims_stopRunning (hu : s.Unique) (hw : s.WaitsHeld) (k : Chan) (c : Client) :
    (s.stopRunning k c).claims = activatedClaims s.claims k := by
  have held : (s.stopped k).WaitsHeld := hw.congr (s.stopped_claims k) (s.stopped_waitLists k)
  have unique : (s.stopped k).Unique := by rw [State.Unique, State.stopped_claims]; exact hu
  rw [State.stopRunning_claims, held.claims_activate unique, State.stopped_claims]

theorem State.claimList_stopRunning (hw : s.WaitsHeld) (k : Chan) (c : Client) (p : Pin) :
    (s.stopRunning k c).claimList p = activatedList s k p := by
  have distinct : ((s.stopped k).waitList k).Nodup := by
    rw [State.waitList_congr (s.stopped_waitLists k)]; exact (hw k).1
  rw [State.claimList_congr (State.stopRunning_claimLists s k c), State.claimList_activate_eq distinct]
  exact activatedList_congr (s.stopped_claims k) (s.stopped_claimLists k) (s.stopped_waitLists k) k p

theorem State.sessions_stopRunning (hc : s.CountsOk) (hu : s.Unique) (hw : s.WaitsHeld) (k : Chan) (c : Client) :
    (s.stopRunning k c).sessions = s.sessions := by
  refine State.sessions_ext fun d => ?_
  obtain ⟨claims, watches, owned⟩ := hc.2 d
  have pool : (((s.stopped k).activate k).noteSource k (some c)).claims = activatedClaims s.claims k := by
    rw [State.noteSource_claims, ← State.stopRunning_claims s k c, State.claims_stopRunning hu hw]
  have owner (j : Chan) :
      ((((s.stopped k).activate k).noteSource k (some c)).channel j).owner = (s.channel j).owner := by
    rw [State.noteSource_channel, State.activate_channel, State.channel_stopped]
    split
    · next e => rw [← e]
    · rfl
  have session : (((s.stopped k).activate k).noteSource k (some c)).session d = s.session d := by
    rw [State.noteSource_session, State.activate_session, State.session_congr (s.stopped_sessions k)]
  have watched : (((s.stopped k).activate k).noteSource k (some c)).watches = s.watches := by simp
  rw [State.stopRunning_eq, State.resolvePads_session, State.session_settleRefs, pool, activatedClaims_countP, session,
    watched]
  simp only [owner, ← claims, ← watches, ← owned]

end

/-! ## The answer (R65) -/

theorem State.served_stop {s : State} {c : Client} (hs : s.InSession c) (b : Byte) :
    s.served c .stop [b] = stopAct c [b] (s.taken c) := State.served_act (fun _ => hs) rfl

/-- STOP by the owner of the channel, at its block. -/
theorem stopAct_of_owner {s : State} {c : Client} {k : Chan} (ho : (s.channel k).owner = some c) :
    stopAct c [byteOf k.val] s =
      match (s.channel k).state with
      | .running => { state := s.stopRunning k c, status := .ok, payload := [1] }
      | .armed => { state := s.disarm k, status := .ok, payload := [1] }
      | .free | .stopped | .done => refuse s .state := by
  simp only [stopAct, byteAt_zero, chanOf?_byteOf]
  rw [if_neg (not_not_intro ho)]
  cases (s.channel k).state <;> rfl

/-- Settles O40: the exit from RUNNING is one event of the channel, of its waiting list and of the references. -/
theorem stopEndsTheRun : Obligations.StopEndsTheRun := by
  refine ⟨fun s c tag k h ha hs ho hr => ?_, fun s c tag k ha hs ho harmed => exec_setChannel ha ?_,
    fun s c tag k ha hs ho idle => exec_refused ha ?_⟩
  · have served : s.served c .stop [byteOf k.val] =
        { state := (s.taken c).stopRunning k c, status := .ok, payload := [1] } := by
      rw [State.served_stop hs, stopAct_of_owner (s := s.taken c) ho, State.taken_channel, hr]
    have held : (s.taken c).WaitsHeld := ((State.waitsOk_iff h.pool.unique).mp h.waits).1
    have unique : (s.taken c).Unique := h.pool.unique
    have channel := State.channel_stopRunning (s := s.taken c) h.channels k c
    have device : SameDevice (s.taken c) ((s.taken c).stopRunning k c) := ⟨by simp, by simp, by simp, by simp, by simp⟩
    refine ⟨_, exec_of_asks ha, ?_⟩
    rw [served]
    dsimp only
    refine ⟨?_, fun j hj => ?_, ?_, ?_, fun j hj => ?_, fun p => ?_, fun d => ?_, ⟨?_, fun p => ?_⟩, ?_,
      sameDevice_answer device tag .ok [1], ?_, ?_⟩
    · rw [State.answer_channel, State.refsOf_answer, channel, if_pos rfl, State.taken_channel]
      exact Channel.settled_of_owner (ch := { s.channel k with
        state := .stopped, output := false, commit := none, inputsDue := 0 }) ho _
    · rw [State.answer_channel, State.refsOf_answer, channel, if_neg (Ne.symm hj), State.taken_channel]
    · rw [State.answer_claims, State.claims_stopRunning unique held, State.taken_claims]
    · rw [State.answer_waitList, State.waitList_stopRunning, if_pos rfl]
    · rw [State.answer_waitList, State.waitList_stopRunning, if_neg (Ne.symm hj), State.taken_waitList]
    · rw [State.answer_claimList, State.claimList_stopRunning held]
      exact activatedList_congr rfl rfl rfl k p
    · rw [State.answer_queue, State.queue_stopRunning, State.relies_answer,
        topNotices_congr (State.answer_claimLists ..) (State.answer_claims ..), State.taken_channel,
        State.taken_queue, ho]
      simp only [topNotices_congr_before (State.taken_claimLists s c), Option.some.injEq, eq_comm (a := c),
        Option.isSome_some]
    · rw [State.answer_policies, State.stopRunning_policies, State.taken_policies]
    · rw [State.answer_pad, State.resolve_answer, State.pad_stopRunning, State.taken_pad]
    · rw [State.answer_watches, State.stopRunning_watches, State.taken_watches]
    · exact onlyRenewed_of_sessions (State.sessions_stopRunning (h.counts.taken c) unique held k c) tag .ok [1]
    · exact answered_of_placed ((s.taken c).stopRunning_samePorts k c) tag .ok [1]
  · rw [State.served_stop hs, stopAct_of_owner (s := s.taken c) ho, State.taken_channel, harmed]
    rfl
  · rw [State.served_stop hs, stopAct_of_owner (s := s.taken c) ho, State.taken_channel]
    rcases idle with e | e <;> rw [e]

end Sys2Proof.Machine
end

section
/-! PROOFS. Clock inputs (R50 to R53, R56, R57): an input that is due, the base tick, an input of the last base tick
that still waits, and an input that an edge still due at its pin brings. -/

namespace Sys2Proof.Machine

open Sys2Proof

section
variable {s : State} {k : Chan}

/-! ## An input that is due (R51 to R53) -/

theorem Channel.nextInput_raise {ch : Channel} (h : ch.phase.toNat + 1 ≠ ch.settings.prescale) :
    ch.nextInput = .raise := if_neg h

theorem Channel.nextInput_tick {ch : Channel} (h : ch.phase.toNat + 1 = ch.settings.prescale) (hc : ch.count ≠ 0) :
    ch.nextInput = .tick := (if_pos h).trans (if_neg hc)

theorem Channel.nextInput_boundary {ch : Channel} (h : ch.phase.toNat + 1 = ch.settings.prescale) (hc : ch.count = 0) :
    ch.nextInput = .boundary := (if_pos h).trans (if_pos hc)

/-- A RUNNING channel at a channel tick (R52, R53). -/
theorem Channel.tick_taken {ch : Channel} (hr : ch.state = .running) : ch.taken.tick =
    { ch with
      phase := 0, count := ch.count - 1, inputsDue := ch.inputsDue - 1
      output := if ch.settings.compare = 0 then false
        else if ch.settings.reload < ch.settings.compare then true
        else ch.startValue - (ch.count - 1) < ch.settings.compare } := by
  simp only [Channel.tick, Channel.evalOutput, Channel.taken, hr, decide_true, Bool.true_and]
  rfl

/-- CLOCK_INPUT and CHANNEL_TICK alike take a channel tick that is due (R52). -/
theorem State.exec_tick (h : s.Calm) (hr : (s.channel k).state = .running) (hd : 0 < (s.channel k).inputsDue)
    (hn : (s.channel k).nextInput = .tick) {com : Instr} (hc : com = .clockInput k ∨ com = .channelTick k) :
    exec com s = .next (s.setChannel k (s.channel k).taken.tick).resolvePads := by
  have take : s.takeInput k = (s.setChannel k (s.channel k).taken.tick).resolvePads := State.takeInput_tick hn
  rw [← take]
  rcases hc with rfl | rfl
  · exact congrArg Host.Outcome.next (State.clocked_of_due h hr hd _)
  · exact congrArg Host.Outcome.next ((State.clocked_of_due h hr hd _).trans (if_pos (by rw [hn]; rfl)))

/-! ## The base tick (R56) -/

theorem State.baseTick_eq (s : State) : s.baseTick = { s with
    channels := Vector.ofFn fun j =>
      if (s.channel j).state = .running ∧ (s.channel j).settings.clock = .base then
        { s.channel j with inputsDue := (s.channel j).inputsDue + 1 }
      else s.channel j } := by
  simp only [State.baseTick, State.mapChannels, Bool.and_eq_true, decide_eq_true_eq]

theorem State.Calm.baseTick (h : s.Calm) : s.baseTick.Calm := by
  obtain ⟨out, still, owed⟩ := h
  refine ⟨(State.inReset_congr (by simp) (by simp)).trans out, fun p => ?_, by simpa using owed⟩
  exact (State.lags_congr (by simp) (by simp)).trans (still p)

/-- A command that clocks a channel, and that takes the channel's next input. -/
def ClocksNext (s : State) (k : Chan) (com : Instr) : Prop :=
  ∃ asked : InputKind → Bool, (∀ u : State, exec com u = .next (u.clocked k asked)) ∧
    asked (s.channel k).nextInput = true

theorem clocksNext_of_command {com : Instr} (h : com = .clockInput k ∨
    ((s.channel k).phase.toNat + 1 = 2 ^ (s.channel k).settings.prescaleExp.val ∧
      com = if (s.channel k).count = 0 then Instr.periodBoundary k else .channelTick k)) : ClocksNext s k com := by
  rcases h with rfl | ⟨last, rfl⟩
  · exact ⟨fun _ => true, fun _ => rfl, rfl⟩
  · split
    · next hc => exact ⟨fun i => i = .boundary, fun _ => rfl, by rw [Channel.nextInput_boundary last hc]; rfl⟩
    · next hc => exact ⟨fun i => i = .tick, fun _ => rfl, by rw [Channel.nextInput_tick last hc]; rfl⟩

/-- A clock command of a channel on BASE where nothing waits is the base tick, and then the same command. -/
theorem ClocksNext.base {com : Instr} (hc : ClocksNext s k com) (h : s.Calm) (hq : s.Quiet)
    (hr : (s.channel k).state = .running) (hb : (s.channel k).settings.clock = .base) :
    exec com s = .next (s.baseTick.takeInput k) ∧ exec com s.baseTick = .next (s.baseTick.takeInput k) := by
  obtain ⟨asked, runs, next⟩ := hc
  have handed : s.baseTick.channel k = { s.channel k with inputsDue := (s.channel k).inputsDue + 1 } := by
    rw [State.channel_baseTick, if_pos (by simp [hr, hb])]
  have next' : asked (s.baseTick.channel k).nextInput = true := by rw [handed]; exact next
  rw [runs, runs, State.clocked_of_base h hq hr hb, if_pos next,
    State.clocked_of_due h.baseTick (by rw [handed]; exact hr) (by rw [handed]; exact Nat.succ_pos _), if_pos next']
  exact ⟨rfl, rfl⟩

/-! ## An input of the last base tick that still waits (R56) -/

theorem State.takeWaiting_of_none (h : (s.channel k).waiting = false) : s.takeWaiting k = s :=
  if_neg (by rw [h]; decide)

/-- Where one input waits in all, and taking it leaves a state in which nothing does, catching up is to take it. -/
theorem State.catchUp_of_one (hr : (s.channel k).state = .running) (one : (s.channel k).inputsDue = 1)
    (rest : ∀ i : Chan, i ≠ k → (s.channel i).waiting = false) (calm : (s.takeInput k).Calm)
    (quiet : (s.takeInput k).Quiet) : s.catchUp = s.takeInput k := by
  have still (i : Chan) : (s.takeInput k).takeWaiting i = s.takeInput k :=
    State.takeWaiting_of_none (by simp [Channel.waiting, (quiet i).1, (quiet i).2])
  have takes : s.takeWaiting k = s.takeInput k := by
    have waits : (s.channel k).waiting = true := by simp [Channel.waiting, one]
    have take : s.takeOne k = s.takeInput k := by
      unfold State.takeOne
      rw [if_neg (by simp [hr]), if_pos (by simp [hr, one])]
    rw [State.takeWaiting, if_pos waits, one]
    exact (congrArg State.settle take).trans calm.settle
  have round : s.takeAllWaiting = s.takeInput k := by
    obtain ⟨before, after, split⟩ := List.append_of_mem (mem_allChans k)
    have others : k ∉ before := fun hk => by
      have distinct := allChans_nodup
      rw [split] at distinct
      exact (List.nodup_append.mp distinct).2.2 k hk k List.mem_cons_self rfl
    rw [State.takeAllWaiting, split, List.foldl_append, List.foldl_cons]
    have first : before.foldl State.takeWaiting s = s := foldl_inv (P := (· = s)) (fun t i hi e => by
      subst e
      exact State.takeWaiting_of_none (rest i fun e => others (e ▸ hi))) rfl
    rw [first, takes]
    exact foldl_inv (P := (· = s.takeInput k)) (fun t i _ e => by subst e; exact still i) rfl
  have again : (s.takeInput k).takeAllWaiting = s.takeInput k :=
    foldl_inv (P := (· = s.takeInput k)) (fun t i _ e => by rw [e]; exact still i) rfl
  have rounds : s.catchUp = Nat.repeat State.takeAllWaiting 5 s.takeAllWaiting := rfl
  rw [rounds, round]
  exact repeat_inv (P := (· = s.takeInput k)) (fun t e => by rw [e]; exact again) 5 rfl

/-- The base tick comes once the part has caught up with the last one. -/
theorem State.clocked_of_catchUp (h : s.Calm) (hr : (s.channel k).state = .running)
    (hb : (s.channel k).settings.clock = .base) (none_due : (s.channel k).inputsDue = 0) {m : State}
    (caught : s.catchUp = m) (hm : (m.channel k).state = .running) :
    (s.clocked k fun _ => true) = m.baseTick.takeInput k := by
  have ready : s.ready k = s := h.ready (.inr (.inl (by simp [Channel.edgePin, hr, hb])))
  simp [State.clocked, State.inputReady, ready, hr, none_due, hb, caught, hm]

/-! ## An input that an edge still due at its pin brings (R57) -/

theorem flipLevel_of_edge {l : Level} {g : Edge} (h : l = if g = .rise then .low else .high) :
    flipLevel l = (if g = .rise then .high else .low) ∧ edgeTo (flipLevel l) = g := by
  subst h
  cases g <;> decide

/-- The first half of an edge, its level and its channels written out (R44). -/
theorem State.beginEdge_eq {p : Pin} {g : Edge} (h : (s.pad p).filtered = if g = .rise then .low else .high) :
    s.beginEdge p = { (s.setPad p { s.pad p with
        filtered := (if g = .rise then .high else .low), run := 0, tickDue := false }) with
      channels := (Vector.ofFn fun j =>
        if (s.channel j).state = .armed ∧ (s.channel j).trigger = some (p, g) then
          { s.channel j with triggerDue := true }
        else if (s.channel j).state = .running ∧ (s.channel j).settings.clock = .pin p g then
          { s.channel j with inputsDue := (s.channel j).inputsDue + 1 }
        else s.channel j)
      edgeOwed := some (p, if g = .rise then .high else .low) } := by
  obtain ⟨level, edge⟩ := flipLevel_of_edge h
  rw [level] at edge
  simp only [State.beginEdge, State.mapChannels, level, edge, Channel.handEdge_eq]
  rfl

/-- A pad does not lag once its edge has begun (R43). -/
theorem State.lags_beginEdge {p : Pin} (hd : s.lags p = true ∨ (s.pad p).tickDue = true) (hf : s.FiltersOk) (q : Pin) :
    (s.beginEdge p).lags q = if p = q then false else s.lags q := by
  have lags : (s.beginEdge p).lags q = (s.takeEdge p).lags q := State.lags_congr (by simp) (s.pad_beginEdge p q)
  rw [lags]
  by_cases hl : s.lags p = true
  · rw [← State.lags_follow, State.follow, if_pos hl]
  · have length : (s.policy p).filterLen ≠ 0 := (hf p).2 (hd.resolve_left hl)
    split
    · next e => subst e; simp [State.lags, length]
    · next e => exact State.lags_congr (by simp) (by rw [State.pad_takeEdge, if_neg e])

/-- A RUNNING channel waits for an edge of its PIN clock source that is still due at the pin. -/
structure State.AwaitsEdge (s : State) (k : Chan) (p : Pin) (g : Edge) : Prop where
  out : s.inReset = false
  owed : s.edgeOwed = none
  others : ∀ q : Pin, q ≠ p → s.lags q = false
  due : s.lags p = true ∨ (s.pad p).tickDue = true
  running : (s.channel k).state = .running
  clock : (s.channel k).settings.clock = .pin p g
  inputs : (s.channel k).inputsDue = 0
  trigger : (s.channel k).triggerDue = false
  edge : edgeTo (flipLevel (s.pad p).filtered) = g

theorem State.AwaitsEdge.channel {p : Pin} {g : Edge} (h : s.AwaitsEdge k p g) :
    (s.beginEdge p).channel k = { s.channel k with inputsDue := (s.channel k).inputsDue + 1 } := by
  rw [State.channel_beginEdge, State.channel_takeEdge, h.edge, Channel.handEdge_eq, if_neg (by simp [h.running]),
    if_pos ⟨h.running, h.clock⟩]

/-- A clock command of the channel begins the edge (R44, R153). -/
theorem State.AwaitsEdge.ready {p : Pin} {g : Edge} (h : s.AwaitsEdge k p g) : s.ready k = s.beginEdge p := by
  refine State.ready_of_edge (g := g) h.out h.owed h.others (by simp [Channel.edgePin, h.running, h.clock])
    (by simp [Channel.waiting, h.inputs, h.trigger]) ?_
  simp only [State.edgeComes, h.edge, decide_true, Bool.and_true, Bool.or_eq_true]
  exact h.due

/-- A further clock command of the channel leaves the notices of the begun edge owed (R153). -/
theorem State.AwaitsEdge.ready_beginEdge {p : Pin} {g : Edge} (h : s.AwaitsEdge k p g) (hf : s.FiltersOk) :
    (s.beginEdge p).ready k = s.beginEdge p := by
  have pin : ((s.beginEdge p).channel k).edgePin = some (p, g) := by
    rw [h.channel]; simp [Channel.edgePin, h.running, h.clock]
  have lags := State.lags_beginEdge h.due hf
  have out : (s.beginEdge p).inReset = false := (State.inReset_congr (by simp) (by simp)).trans h.out
  unfold State.ready
  rw [pin]
  dsimp only
  rw [if_neg (by simp [out]), if_pos]
  · exact State.followBut_of_calm fun q hq => by rw [lags, if_neg (Ne.symm hq)]; exact h.others q hq
  · rw [h.channel, State.beginEdge_edgeOwed, lags, if_pos rfl]
    simp [Channel.waiting]

/-- CLOCK_INPUT of a channel that is ready with an input due. -/
theorem exec_clockInput_of_ready {t : State} (ready : s.ready k = t) (run : (t.channel k).state = .running)
    (due : 0 < (t.channel k).inputsDue) : exec (.clockInput k) s = .next (t.takeInput k) := by
  refine congrArg Host.Outcome.next ?_
  simp [State.clocked, State.inputReady, ready, run, due]

end

/-- Settles O50: a clock command takes the input that its channel has, or the one that a base tick, an input waiting
elsewhere or a begun edge brings it. -/
theorem clockInputsCount : Obligations.ClockInputsCount := by
  refine ⟨fun s k h hc hr hd hn => ?_, fun s k com hcom h hc hr hd hp hn => ?_, fun s k com hcom hc hq hr hb => ?_,
    fun s k j h hc hr hb hj rest triggers one => ?_, fun s k p g h hr ho hq hd run inputs clock level => ?_,
    fun s k hc hr => ?_⟩
  · have raise : (s.channel k).taken.nextInput = .raise := Channel.nextInput_raise hn
    exact ⟨s.takeInput k, congrArg Host.Outcome.next (State.clocked_of_due hc hr hd _), State.takeInput_raise raise⟩
  · refine ⟨_, State.exec_tick hc hr hd (Channel.nextInput_tick hp hn) hcom, ?_, fun j hj => ?_,
      ⟨by simp, fun p => ?_⟩, ⟨by simp, by simp, by simp⟩, by simp, by simp, by simp, by simp,
      ⟨by simp, by simp, by simp, by simp, by simp⟩⟩
    · rw [State.resolvePads_channel, State.channel_setChannel_self, Channel.tick_taken hr]
    · rw [State.resolvePads_channel, State.channel_setChannel_ne _ _ hj]
    · rw [State.pad_resolvePads, State.resolve_resolvePads, State.pad_setChannel]
  · obtain ⟨now, after⟩ := (clocksNext_of_command hcom).base hc hq hr hb
    exact ⟨_, now, by rw [← State.baseTick_eq]; exact after⟩
  · have run : (s.channel j).state = .running := (Channel.ok_iff.mp (h.channels j)).1.due (by omega)
    have first : exec (.clockInput j) s = .next (s.takeInput j) :=
      congrArg Host.Outcome.next (State.clocked_of_due hc run (by omega) _)
    refine ⟨_, rfl, ?_⟩
    rw [first]
    dsimp only
    intro calm quiet run'
    have caught : s.catchUp = s.takeInput j := State.catchUp_of_one run one
      (fun i hi => by simp [Channel.waiting, rest i hi, triggers i]) calm quiet
    have base : ((s.takeInput j).channel k).settings.clock = .base := by
      obtain ⟨same, -⟩ | ⟨cleared, -⟩ := (s.takeInput_slows j).1 k
      · exact same.trans hb
      · exact cleared
    refine congrArg Host.Outcome.next ?_
    rw [State.clocked_of_base calm quiet run' base, if_pos rfl]
    exact (State.clocked_of_catchUp hc hr hb (rest k (Ne.symm hj)) caught run').symm
  · obtain ⟨-, edge⟩ := flipLevel_of_edge level
    have trigger : (s.channel k).triggerDue = false :=
      (Channel.ok_iff.mp (h.channels k)).1.not_triggerDue (by simp [run])
    have awaits : s.AwaitsEdge k p g := ⟨hr, ho, hq, hd, run, clock, inputs, trigger, edge⟩
    have running : ((s.beginEdge p).channel k).state = .running := by rw [awaits.channel]; exact run
    have due : 0 < ((s.beginEdge p).channel k).inputsDue := by rw [awaits.channel]; exact Nat.succ_pos _
    refine ⟨_, exec_clockInput_of_ready awaits.ready running due, ?_⟩
    rw [← State.beginEdge_eq level]
    exact exec_clockInput_of_ready (awaits.ready_beginEdge h.filters) running due
  · have ignores (asked : InputKind → Bool) : s.clocked k asked = s := State.clocked_of_idle hc hr asked
    exact ⟨s, congrArg Host.Outcome.next (ignores _), rfl, congrArg Host.Outcome.next (ignores _),
      congrArg Host.Outcome.next (ignores _)⟩

end Sys2Proof.Machine
end

section
/-! PROOFS. STAGE, COMMIT and CANCEL (R74 to R79): the payloads that STAGE refuses, and what each block answers the owner
of the channel. -/

namespace Sys2Proof.Machine

open Sys2Proof

/-! ## STAGE payloads (R74, R170) -/

/-- A STAGE payload with any byte in each field. -/
def stageBytes (bk : Byte) (reload compare : Option Word) (ex md : Option Byte) : List Byte :=
  [bk, presenceByte [reload.isSome, compare.isSome, ex.isSome, md.isSome]] ++
    (reload.map wordBytes).getD [] ++ (compare.map wordBytes).getD [] ++ ex.toList ++ md.toList

theorem presenceByte_four_lt (a b c d : Bool) : (presenceByte [a, b, c, d]).toNat < 16 := by
  revert a b c d; decide

theorem lengthOk_stageBytes (bk : Byte) (reload compare : Option Word) (ex md : Option Byte) :
    lengthOk .stage (stageBytes bk reload compare ex md) = true := by
  obtain ⟨m0, m1, m2, m3⟩ := presenceByte_four reload.isSome compare.isSome ex.isSome md.isSome
  have words (x : Option Word) : ((x.map wordBytes).getD []).length = 2 * (if x.isSome then 1 else 0) := by
    cases x <;> rfl
  have bytes (x : Option Byte) : x.toList.length = if x.isSome then 1 else 0 := by cases x <;> rfl
  simp only [lengthOk, stageBytes, marked, List.cons_append, List.nil_append, byteAt_zero, byteAt_succ, m0, m1, m2, m3,
    List.length_cons, List.length_append, words, bytes, Bool.and_eq_true]
  exact ⟨⟨decide_eq_true (by omega), decide_eq_true (presenceByte_four_lt ..)⟩, decide_eq_true (by omega)⟩

theorem optField_eq_none_of_any {α : Type} {decode : Byte → Option α} {x : Option Byte} {n : Nat}
    (within : ∀ {b : Byte} {v : α}, decode b = some v → b.toNat ≤ n) (h : (x.any fun b => n < b.toNat) = true) :
    optField decode x = none := by
  obtain ⟨b, hb, above⟩ := (Option.any_eq_true ..).mp h
  refine optField_eq_none hb (Option.eq_none_iff_forall_ne_some.mpr fun v hv => ?_)
  exact absurd (within hv) (not_le.mpr (of_decide_eq_true above))

/-- A STAGE payload with a field that is out of its encoding decodes as nothing (R74). -/
theorem decodeStage_eq_none {bk : Byte} {reload compare : Option Word} {ex md : Option Byte}
    (h : optField prescaleOf? ex = none ∨ optField modeOf? md = none) :
    decodeStage (stageBytes bk reload compare ex md) = none := by
  obtain ⟨m0, m1, m2, m3⟩ := presenceByte_four reload.isSome compare.isSome ex.isSome md.isSome
  have r := optWord_isSome reload ((compare.map wordBytes).getD [] ++ (ex.toList ++ md.toList))
  have w := optWord_isSome compare (ex.toList ++ md.toList)
  have e := optByte_isSome ex md.toList
  have m := optByte_isSome md []
  rw [List.append_nil] at m
  simp only [decodeStage, stageBytes, List.cons_append, List.nil_append, List.append_assoc, byteAt_zero, byteAt_succ,
    m0, m1, m2, m3, List.drop_succ_cons, List.drop_zero, r, w, e, m]
  split
  · rfl
  · split
    · next he hm =>
      rw [he, hm] at h
      rcases h with h | h <;> cases h
    · rfl

/-! ## STAGE (R74) -/

theorem State.served_stage {s : State} {c : Client} (hs : s.InSession c) {pl : List Byte}
    (hl : lengthOk .stage pl = true) : s.served c .stage pl = stageAct c pl (s.taken c) :=
  State.served_act (fun _ => hs) hl

/-- STAGE by the owner of the channel, at its block. -/
theorem stageAct_of_owner {s : State} {c : Client} {k : Chan} (ho : (s.channel k).owner = some c) (bs : List Byte) :
    stageAct c (byteOf k.val :: bs) s = (decodeStage (byteOf k.val :: bs)).elim (refuse s .badArg) fun x =>
      { state := s.setChannel k { s.channel k with staging := some (x.merge (s.channel k).staging) }
        status := .ok, payload := stagedBytes (x.merge (s.channel k).staging) } := by
  simp only [stageAct, byteAt_zero, chanOf?_byteOf]
  rw [if_neg (not_not_intro ho)]
  cases decodeStage (byteOf k.val :: bs) <;> rfl

/-- Settles O34: STAGE rewrites its channel alone, by the merge of the fields that its payload decodes to. -/
theorem stageMerges : Obligations.StageMerges := by
  have refused {s : State} {c : Client} {tag : Byte} {k : Chan} {pl : List Byte}
      (ha : s.Asks c (frameOf .stage tag (byteOf k.val :: pl))) (hs : s.InSession c)
      (ho : (s.channel k).owner = some c) (hl : lengthOk .stage (byteOf k.val :: pl) = true)
      (hd : decodeStage (byteOf k.val :: pl) = none) :
      ∃ t, exec (Instr.stage c) s = .next t ∧ OnlyAnswered s t c tag .badArg [] := by
    refine exec_refused ha ?_
    rw [State.served_stage hs hl, stageAct_of_owner (s := s.taken c) ho, hd]
    rfl
  refine ⟨fun s c tag k r ha hs ho given => exec_setChannel ha ?_, fun s c tag k ha hs ho => ?_,
    fun s c tag k rl cm ex md ha hs ho bad => ?_⟩
  · rw [State.served_stage hs (lengthOk_stage _ r), stageAct_of_owner (s := s.taken c) ho, decodeStage_bytes,
      if_pos given]
    rfl
  · exact refused ha hs ho (lengthOk_stageBytes _ none none none none) rfl
  · refine refused ha hs ho (lengthOk_stageBytes _ rl cm ex md)
      (decodeStage_eq_none (reload := rl) (compare := cm) (bad.imp ?_ ?_))
    · exact optField_eq_none_of_any prescaleOf?_le
    · exact optField_eq_none_of_any modeOf?_le

/-! ## COMMIT (R75 to R78) -/

theorem State.served_commit {s : State} {c : Client} (hs : s.InSession c) (b : Byte) :
    s.served c .commit [b] = commitAct c [b] (s.taken c) := State.served_act (fun _ => hs) rfl

/-- COMMIT by the owner of the channel, at its block. -/
theorem commitAct_of_owner {s : State} {c : Client} {k : Chan} (ho : (s.channel k).owner = some c) :
    commitAct c [byteOf k.val] s = (s.channel k).staging.elim (refuse s .badArg) fun x =>
      { state := s.setChannel k ((s.channel k).commitStaged x).1
        status := ((s.channel k).commitStaged x).2, payload := commitReply ((s.channel k).commitStaged x).1 } := by
  simp only [commitAct, byteAt_zero, chanOf?_byteOf]
  rw [if_neg (not_not_intro ho)]
  cases (s.channel k).staging <;> rfl

/-- What a COMMIT makes of a channel, and its status, case by case (R77, R78). -/
theorem Channel.commitStaged_eq (ch : Channel) (x : Staged) : ch.commitStaged x =
    (if ch.state ≠ .running then { ch with staging := none, settings := ch.settings.apply x }
      else if ch.commit = none then { ch with staging := none, commit := some x } else ch,
     if ch.state ≠ .running then .ok else if ch.commit = none then .accepted else .pending) := by
  unfold Channel.commitStaged
  by_cases run : ch.state ≠ .running
  · simp only [if_pos run]
  · cases hc : ch.commit <;> simp [if_neg run]

/-- Settles O35: COMMIT rewrites its channel alone, as `commitStaged` says. -/
theorem commitAppliesWaitsOrStays : Obligations.CommitAppliesWaitsOrStays := by
  refine ⟨fun s c tag k x ha hs ho staged => ?_, fun s c tag k ha hs ho bare => exec_refused ha ?_⟩
  · have served : s.served c .commit [byteOf k.val] =
        { state := (s.taken c).setChannel k ((s.channel k).commitStaged x).1
          status := ((s.channel k).commitStaged x).2, payload := commitReply ((s.channel k).commitStaged x).1 } := by
      rw [State.served_commit hs, commitAct_of_owner (s := s.taken c) ho, State.taken_channel, staged]
      rfl
    obtain ⟨t, next, channel, others, answered⟩ := exec_setChannel ha served
    rw [commitReply, (Channel.commitStaged_fields (s.channel k) x).1, ← channel, Channel.commitStaged_eq] at answered
    refine ⟨t, next, ?_, others, answered⟩
    rw [channel, Channel.commitStaged_eq]
    rfl
  · rw [State.served_commit hs, commitAct_of_owner (s := s.taken c) ho, State.taken_channel, bare]
    rfl

/-! ## CANCEL (R79) -/

theorem State.served_cancel {s : State} {c : Client} (hs : s.InSession c) (b : Byte) :
    s.served c .cancel [b] = cancelAct c [b] (s.taken c) := State.served_act (fun _ => hs) rfl

/-- CANCEL of a channel, at its block: the two checks, then the commit discarded. -/
theorem cancelAct_byteOf (s : State) (c : Client) (k : Chan) : cancelAct c [byteOf k.val] s =
    if (s.channel k).owner ≠ some c then refuse s .notOwner
    else if (s.channel k).commit.isNone then refuse s .nonePending
    else { state := s.setChannel k { s.channel k with commit := none }, status := .ok, payload := [] } := by
  simp only [cancelAct, byteAt_zero, chanOf?_byteOf]

/-- Settles O36: CANCEL rewrites its channel alone, and its checks come in the order in which the block writes them. -/
theorem cancelWithdrawsTheCommit : Obligations.CancelWithdrawsTheCommit := by
  refine ⟨fun s c tag k ha hs ho held => exec_setChannel ha ?_, fun s c tag b ha hs idle => exec_refused ha ?_⟩
  · rw [State.served_cancel hs, cancelAct_byteOf, State.taken_channel, if_neg (not_not_intro ho),
      if_neg (by simpa using held)]
  · rw [State.served_cancel hs]
    cases hb : chanOf? b with
    | none =>
      have above : ¬ b.toNat < 6 := not_lt.mpr (chanOf?_eq_none.mp hb)
      rw [if_neg above, cancelAct, byteAt_zero, hb]
    | some k =>
      obtain rfl := chanOf?_eq_some.mp hb
      have owns : (∃ j : Chan, byteOf k.val = byteOf j.val ∧ (s.channel j).owner = some c) ↔
          (s.channel k).owner = some c :=
        ⟨fun ⟨j, e, h⟩ => byteOf_chan_injective e ▸ h, fun h => ⟨k, rfl, h⟩⟩
      have chan : (byteOf k.val).toNat < 6 := by rw [toNat_byteOf (by omega)]; exact k.isLt
      rw [cancelAct_byteOf, State.taken_channel, if_pos chan]
      simp only [owns]
      by_cases owner : (s.channel k).owner = some c
      · rw [if_neg (not_not_intro owner), if_pos owner, if_pos (by rw [idle k rfl owner]; rfl)]
      · rw [if_pos owner, if_neg owner]

end Sys2Proof.Machine
end

section
/-! PROOFS. A period boundary (R80 to R84): the settings record that it puts in force, the channel that begins a new
period or finishes, the claims that waited, who is told, and the references and the pins after it. -/

namespace Sys2Proof.Machine

open Sys2Proof

/-! ## The channel at its boundary (R80 to R83) -/

/-- The settings record once a pending commit has been applied (R80, R81). -/
def Channel.committed (ch : Channel) : Settings :=
  match ch.commit with
  | none => ch.settings
  | some x => ch.settings.apply x

section
variable (ch : Channel)

theorem Channel.committed_mode : ch.committed.mode = (ch.commit.bind (·.mode)).getD ch.settings.mode := by
  unfold Channel.committed; split <;> simp [Settings.apply, *]

theorem Channel.committed_notify : ch.committed.notify = ch.settings.notify := by
  unfold Channel.committed; split <;> rfl

theorem Channel.committed_clock : ch.committed.clock = ch.settings.clock := by
  unfold Channel.committed; split <;> rfl

/-- At position 0 the output is active unless the compare is 0 (R53). -/
theorem Channel.outputNow_of_begin (h : ch.count = ch.startValue) : ch.outputNow = decide (ch.settings.compare ≠ 0) := by
  unfold Channel.outputNow
  by_cases zero : ch.settings.compare = 0
  · simp [zero]
  · have pos : (0#16) < ch.settings.compare := by
      have : ch.settings.compare ≠ 0#16 := zero
      bv_omega
    rw [if_neg zero, h, BitVec.sub_self, decide_eq_true pos, ite_self, decide_eq_true zero]

theorem Channel.newPeriod_eq (hr : ch.state = .running) (start : Word) : ch.newPeriod start =
    { ch with
      count := start, startValue := start, phase := 0, output := ch.settings.compare ≠ 0 } := by
  simp only [Channel.newPeriod, Channel.evalOutput, hr, decide_true, Bool.true_and]
  rw [Channel.outputNow_of_begin _ rfl]

/-- A RUNNING channel once the mode has decided (R82, R83). -/
theorem Channel.afterBoundary_eq (hr : ch.state = .running) : ch.afterBoundary =
    if ch.settings.mode = .oneShot then ch.finish
    else
      { ch with
        count := if ch.settings.mode = .wrap then 65535 else ch.settings.reload
        startValue := if ch.settings.mode = .wrap then 65535 else ch.settings.reload
        phase := 0, output := ch.settings.compare ≠ 0 } := by
  unfold Channel.afterBoundary
  split
  case h_1 mode => rw [mode]; exact ch.newPeriod_eq hr _
  case h_2 mode => rw [mode]; exact ch.newPeriod_eq hr _
  case h_3 mode => rw [mode]; rfl

/-- One input more where the channel is RUNNING and chained (R58). -/
theorem Channel.handChain_eq (k : Chan) : ch.handChain k = { ch with
    inputsDue := ch.inputsDue + if ch.state = .running ∧ ch.settings.clock = .chain k then 1 else 0 } := by
  unfold Channel.handChain
  by_cases chained : ch.state = .running ∧ ch.settings.clock = .chain k
  · rw [if_pos (by simp [chained]), if_pos chained]
  · rw [if_neg (by simpa using chained), if_neg chained]; rfl

theorem Channel.handChain_of_ne {k : Chan} (h : ch.settings.clock ≠ .chain k) : ch.handChain k = ch :=
  if_neg (by simp [h])

end

/-- A RUNNING channel whose input has ended its period, chained from elsewhere: what the boundary makes of it. -/
theorem Channel.boundary_eq {ch : Channel} (hr : ch.state = .running) {k : Chan} (hk : ch.settings.clock ≠ .chain k) :
    ({ ch.taken.ended with
      settings := ch.taken.ended.committed, commit := none } : Channel).afterBoundary.handChain k =
    if ch.committed.mode = .oneShot then
      { ch with
        state := .done, settings := ch.committed, commit := none, count := 0, phase := 0, output := false
        inputsDue := 0 : Channel }
    else
      { ch with
        settings := ch.committed, commit := none
        count := if ch.committed.mode = .wrap then 65535 else ch.committed.reload
        startValue := if ch.committed.mode = .wrap then 65535 else ch.committed.reload
        phase := 0, output := ch.committed.compare ≠ 0, inputsDue := ch.inputsDue - 1 } := by
  have same : ch.taken.ended.committed = ch.committed := rfl
  have chained : ({ ch.taken.ended with
      settings := ch.committed, commit := none } : Channel).afterBoundary.settings.clock ≠ .chain k := by
    rw [Channel.afterBoundary_clock, Channel.committed_clock]
    exact hk
  rw [same, Channel.handChain_of_ne _ chained]
  exact Channel.afterBoundary_eq _ hr

theorem Channel.afterBoundary_owner (ch : Channel) : ch.afterBoundary.owner = ch.owner := by
  unfold Channel.afterBoundary; split <;> rfl

theorem Channel.afterBoundary_notify (ch : Channel) : ch.afterBoundary.settings.notify = ch.settings.notify := by
  unfold Channel.afterBoundary; split <;> rfl

/-- No channel is chained from itself (R59). -/
theorem State.ChainsOk.clock_ne_self {s : State} (h : s.ChainsOk) (k : Chan) :
    (s.channel k).settings.clock ≠ .chain k := fun e => by
  have returns : s.chainReaches k 6 k = true := if_pos rfl
  rw [(h k k e).1] at returns
  cases returns

/-! ## What a boundary leaves (R80 to R84) -/

section
variable (s : State) (k : Chan)

theorem State.channel_boundaryCommit_self : (s.boundaryCommit k).channel k =
    { s.channel k with settings := (s.channel k).committed, commit := none } := by
  rw [State.channel_boundaryCommit, if_pos rfl]; rfl

theorem State.boundary_claims : (s.boundary k).claims = ((s.boundaryCommit k).activate k).claims := by
  simp [State.boundary]

theorem State.boundary_claimLists : (s.boundary k).claimLists = ((s.boundaryCommit k).activate k).claimLists := by
  simp [State.boundary]

theorem State.waitList_boundary (j : Chan) : (s.boundary k).waitList j = if k = j then [] else s.waitList j := by
  rw [State.boundary, State.resolvePads_waitList, State.settleRefs_waitList, State.boundaryTerminal_waitList,
    State.boundaryMode_waitList, State.waitList_activate, State.boundaryCommit_waitList]

theorem State.pad_boundary (p : Pin) : (s.boundary k).pad p = (s.pad p).take ((s.boundary k).resolve p) := by
  rw [State.boundary, State.resolve_resolvePads, State.pad_resolvePads, State.settleRefs_pad,
    State.boundaryTerminal_pad, State.boundaryMode_pad, State.activate_pad, State.boundaryCommit_pad]

theorem State.boundary_samePorts : SamePorts s (s.boundary k) := fun c => by
  rw [State.boundary_eq, State.resolvePads_port, State.settleRefs_port]
  exact s.boundaryDone_samePorts k c

/-- The owner hears of the commit, every client of its tops, those that still rely on a channel that finished of its
end, and the owner of the boundary (R70, R80, R81, R83). -/
theorem State.queue_boundary (d : Client) : (s.boundary k).queue d =
    (let q1 := if (s.channel k).owner = some d ∧ (s.channel k).commit ≠ none then
        (s.queue d).place (.commitEnd k true) else s.queue d
     let q2 := topNotices s (s.boundary k) none d q1
     let q3 := if (s.channel k).committed.mode = .oneShot ∧ (s.boundary k).relies d k = true then
        q2.place (.sourceChange k .done (s.channel k).owner.isSome) else q2
     if (s.channel k).owner = some d ∧ (s.channel k).settings.notify = true then q3.place (.terminal k) else q3) := by
  have committed : ((s.boundaryCommit k).activate k).channel k =
      { s.channel k with settings := (s.channel k).committed, commit := none } :=
    (State.activate_channel ..).trans (s.channel_boundaryCommit_self k)
  have relies : (s.boundary k).relies d k = ((s.boundaryCommit k).activate k).relies d k := by
    simp only [State.relies, State.boundary_claims]
  have after : ((((s.boundaryCommit k).activate k).boundaryMode k).channel k).owner = (s.channel k).owner ∧
      ((((s.boundaryCommit k).activate k).boundaryMode k).channel k).settings.notify = (s.channel k).settings.notify := by
    rw [State.channel_boundaryMode, if_pos rfl, committed, Channel.handChain_eq]
    dsimp only
    rw [Channel.afterBoundary_owner, Channel.afterBoundary_notify, Channel.committed_notify]
    exact ⟨rfl, rfl⟩
  obtain ⟨owner, notify⟩ := after
  have told : (s.channel k).commit.isSome = true ↔ (s.channel k).commit ≠ none := Option.isSome_iff_ne_none
  dsimp only
  rw [topNotices_congr (s.boundary_claimLists k) (s.boundary_claims k), relies]
  rw [State.boundary, State.resolvePads_queue, State.settleRefs_queue, State.queue_boundaryTerminal, owner, notify,
    State.queue_boundaryMode, committed, State.queue_activate, State.queue_boundaryCommit,
    topNotices_congr_before (s.boundaryCommit_claimLists k)]
  simp only [told]

end

section
variable {s : State}

theorem State.claims_boundary (hu : s.Unique) (hw : s.WaitsHeld) (k : Chan) :
    (s.boundary k).claims = activatedClaims s.claims k := by
  have held : (s.boundaryCommit k).WaitsHeld := hw.congr (s.boundaryCommit_claims k) (s.boundaryCommit_waitLists k)
  have unique : (s.boundaryCommit k).Unique := by rw [State.Unique, State.boundaryCommit_claims]; exact hu
  rw [State.boundary_claims, held.claims_activate unique, State.boundaryCommit_claims]

theorem State.claimList_boundary (hw : s.WaitsHeld) (k : Chan) (p : Pin) :
    (s.boundary k).claimList p = activatedList s k p := by
  have distinct : ((s.boundaryCommit k).waitList k).Nodup := by rw [State.boundaryCommit_waitList]; exact (hw k).1
  rw [State.claimList_congr (s.boundary_claimLists k), State.claimList_activate_eq distinct]
  exact activatedList_congr (s.boundaryCommit_claims k) (s.boundaryCommit_claimLists k) (s.boundaryCommit_waitLists k) k p

/-- Every channel after a boundary of a RUNNING channel (R80 to R84, R95 to R97). -/
theorem State.channel_boundary (h : s.ChannelsOk) {k : Chan} (hr : (s.channel k).state = .running) (j : Chan) :
    (s.boundary k).channel j = ((if k = j then
        ({ s.channel k with settings := (s.channel k).committed, commit := none } : Channel).afterBoundary
      else s.channel j).handChain k).settled ((s.boundary k).refsOf j) := by
  have refs : (s.boundary k).refsOf j = (s.boundaryDone k).settleRefs.refsOf j :=
    State.refsOf_congr (by simp [State.boundary_eq]) (fun i => by simp [State.boundary_eq]) j
  rw [refs, State.boundary_eq, State.resolvePads_channel, State.channel_settleRefs fun i hi => ?_,
    State.channel_boundaryDone, State.channel_boundaryCommit_self]
  rw [State.channel_boundaryDone] at hi ⊢
  rw [Channel.handChain_state] at hi
  split at hi
  · refine absurd hi (Channel.afterBoundary_running ?_)
    rw [State.channel_boundaryCommit_self]
    exact hr
  · next other =>
    rw [if_neg other, Channel.handChain, if_neg (by simp [hi])]
    exact h.freeCleared i hi

theorem State.owner_boundaryDone (k j : Chan) : ((s.boundaryDone k).channel j).owner = (s.channel j).owner := by
  rw [State.channel_boundaryDone, Channel.handChain_owner]
  split
  · next e =>
    rw [Channel.afterBoundary_owner, State.channel_boundaryCommit_self, ← e]
  · rfl

/-- No session's count changes: the claims stay their clients', the watches and the owners as they were (R120). -/
theorem State.sessions_boundary (hc : s.CountsOk) (hu : s.Unique) (hw : s.WaitsHeld) (k : Chan) :
    (s.boundary k).sessions = s.sessions := by
  refine State.sessions_ext fun d => ?_
  obtain ⟨claims, watches, owned⟩ := hc.2 d
  have pool : (s.boundaryDone k).claims = activatedClaims s.claims k := by
    rw [State.claims_boundaryDone, ← State.boundary_claims, State.claims_boundary hu hw]
  have watched : (s.boundaryDone k).watches = s.watches := by simp [State.boundaryDone]
  rw [State.boundary_eq, State.resolvePads_session, State.session_settleRefs, pool, activatedClaims_countP,
    State.session_congr (s.sessions_boundaryDone k), watched]
  simp only [State.owner_boundaryDone, ← claims, ← watches, ← owned]

/-! ## The input that is the boundary (R51, R52) -/

/-- The state in which a channel has taken the input that ends its period. -/
abbrev State.periodEnded (s : State) (k : Chan) : State := s.setChannel k (s.channel k).taken.ended

theorem State.Ledger.periodEnded (h : s.Ledger) {k : Chan} (hr : (s.channel k).state = .running) :
    (s.periodEnded k).Ledger :=
  h.setChannel (((h.sound k).taken hr).ended hr) ⟨rfl, rfl, rfl, Iff.rfl⟩

/-- CLOCK_INPUT and PERIOD_BOUNDARY alike take a boundary that is due (R80). -/
theorem State.exec_boundary {k : Chan} (h : s.Calm) (hr : (s.channel k).state = .running)
    (hd : 0 < (s.channel k).inputsDue) (hn : (s.channel k).nextInput = .boundary) {com : Instr}
    (hc : com = .clockInput k ∨ com = .periodBoundary k) :
    exec com s = .next ((s.periodEnded k).boundary k) := by
  have take : s.takeInput k = (s.periodEnded k).boundary k := State.takeInput_boundary hn
  rw [← take]
  rcases hc with rfl | rfl
  · exact congrArg Host.Outcome.next (State.clocked_of_due h hr hd _)
  · exact congrArg Host.Outcome.next ((State.clocked_of_due h hr hd _).trans (if_pos (by rw [hn]; rfl)))

end

/-- Settles O51: the steps of a boundary one after another, from the state in which its channel has taken the input. -/
theorem periodBoundaryInFourSteps : Obligations.PeriodBoundaryInFourSteps := by
  intro s k com hcom h hc hr hd hp h0
  refine ⟨_, State.exec_boundary hc hr hd (Channel.nextInput_boundary hp h0) hcom, ?_⟩
  have ledger := (State.ledger_iff.mpr ⟨h.channels, h.counts⟩).periodEnded hr
  have self : (s.periodEnded k).channel k = (s.channel k).taken.ended := State.channel_setChannel_self ..
  have run : ((s.periodEnded k).channel k).state = .running := by rw [self]; exact hr
  have held : (s.periodEnded k).WaitsHeld := ((State.waitsOk_iff h.pool.unique).mp h.waits).1
  have unique : (s.periodEnded k).Unique := h.pool.unique
  have channel := State.channel_boundary (State.ledger_iff.mp ledger).1 run
  refine ⟨?_, fun j hj => ?_, ?_, ?_, fun j hj => ?_, fun p => ?_, fun d => ?_, ⟨?_, fun p => ?_⟩, ?_, ?_, fun d => ?_,
    ⟨by simp, by simp, by simp, by simp, by simp⟩⟩
  · rw [channel, if_pos rfl, self, Channel.boundary_eq hr (h.chains.clock_ne_self k)]
    rfl
  · rw [channel, if_neg (Ne.symm hj), State.channel_setChannel_ne _ _ hj, Channel.handChain_eq]
  · rw [State.claims_boundary unique held, State.setChannel_claims]
  · rw [State.waitList_boundary, if_pos rfl]
  · rw [State.waitList_boundary, if_neg (Ne.symm hj), State.waitList_setChannel]
  · rw [State.claimList_boundary held]
    exact activatedList_congr rfl rfl rfl k p
  · have mode : (s.channel k).taken.ended.committed.mode = _ := (s.channel k).committed_mode
    rw [State.queue_boundary, self, mode, State.queue_setChannel]
    dsimp only
    rw [topNotices_congr_before (State.setChannel_claimLists ..)]
    rfl
  · rw [State.boundary_policies, State.setChannel_policies]
  · rw [State.pad_boundary, State.pad_setChannel]
  · rw [State.boundary_watches, State.setChannel_watches]
  · rw [State.sessions_boundary ledger.counts unique held, State.setChannel_sessions]
  · have ports := State.boundary_samePorts (s.periodEnded k) k d
    rwa [State.port_setChannel] at ports

end Sys2Proof.Machine
end

section
/-! PROOFS. The reference counts and the session counts through every step (R95, R120), whatever else the state holds: an
event either ends in a recount or touches nothing that is counted. -/

namespace Sys2Proof.Machine

open Sys2Proof

section
variable {s t : State} {c : Client}

/-! ## What no count notices -/

theorem State.CountsOk.congr (h : s.CountsOk) (hk : t.channels = s.channels) (hc : t.claims = s.claims)
    (hw : t.watches = s.watches) (hs : t.sessions = s.sessions) : t.CountsOk :=
  (State.countsOk_congr hc hw hk hs).mpr h

/-- A change under which every claim, watch, channel and session counts as before. -/
theorem State.CountsOk.steady (h : s.CountsOk) (hk : ∀ k, (s.channel k).Kin (t.channel k))
    (hn : ∀ k : Chan, t.claims.countP (·.names k) = s.claims.countP (·.names k))
    (hc : ∀ c : Client, (t.claims.countP fun q => q.client = c) = s.claims.countP fun q => q.client = c)
    (hw : ∀ c : Client, (t.watches.countP fun w => w.client = c) = s.watches.countP fun w => w.client = c)
    (hs : ∀ c : Client, (t.session c).claimsHeld = (s.session c).claimsHeld ∧
      (t.session c).watchesHeld = (s.session c).watchesHeld ∧
      (t.session c).channelsOwned = (s.session c).channelsOwned) : t.CountsOk := by
  obtain ⟨refs, counts⟩ := h
  refine ⟨fun k => ?_, fun c => ?_⟩
  · rw [(hk k).refs, refs]
    simp only [State.refsOf, hn, (hk _).clock]
  · obtain ⟨claims, watches, owned⟩ := hs c
    simp only [claims, watches, owned, hc, hw, (hk _).owner]
    exact counts c

/-- A change of the channels that leaves their owners, references and sources. -/
theorem State.CountsOk.channels (h : s.CountsOk) (hk : ∀ k, (s.channel k).Kin (t.channel k))
    (hc : t.claims = s.claims) (hw : t.watches = s.watches) (hs : t.sessions = s.sessions) : t.CountsOk :=
  h.steady hk (fun k => by rw [hc]) (fun c => by rw [hc]) (fun c => by rw [hw])
    fun c => by rw [State.session_congr hs]; exact ⟨rfl, rfl, rfl⟩

theorem State.CountsOk.setChannel (h : s.CountsOk) {k : Chan} {ch : Channel} (kin : (s.channel k).Kin ch) :
    (s.setChannel k ch).CountsOk := by
  refine h.channels (fun j => ?_) (by simp) (by simp) (by simp)
  rw [State.channel_setChannel]
  split
  · next e => exact e ▸ kin
  · exact .refl _

/-- A session changed but for its counts. -/
theorem State.CountsOk.setSession (h : s.CountsOk) {e : Session}
    (he : e.claimsHeld = (s.session c).claimsHeld ∧ e.watchesHeld = (s.session c).watchesHeld ∧
      e.channelsOwned = (s.session c).channelsOwned) : (s.setSession c e).CountsOk := by
  refine h.steady (fun _ => .refl _) (fun _ => rfl) (fun _ => rfl) (fun _ => rfl) fun d => ?_
  rw [State.session_setSession]
  split
  · next e => exact e ▸ he
  · exact ⟨rfl, rfl, rfl⟩

theorem State.CountsOk.setWatch (h : s.CountsOk) (w : Watch) : (s.setWatch w).CountsOk := by
  refine h.steady (fun _ => .refl _) (fun _ => rfl) (fun _ => rfl) (fun d => ?_) fun _ => ⟨rfl, rfl, rfl⟩
  rw [show (s.setWatch w).watches = s.watches.map _ from rfl, List.countP_map]
  refine List.countP_congr fun r _ => ?_
  simp only [Function.comp]
  split
  · next e => simp only [Bool.and_eq_true, decide_eq_true_eq] at e; rw [e.1]
  · exact Iff.rfl

theorem State.CountsOk.takeEdge (h : s.CountsOk) (p : Pin) : (s.takeEdge p).CountsOk :=
  h.channels (fun k => by rw [State.channel_takeEdge]; exact Channel.handEdge_kin _ _ _) (by simp) (by simp) (by simp)

theorem State.CountsOk.startChans (h : s.CountsOk) {ks : List Chan} (x : Option Client)
    (may : ∀ k ∈ ks, (s.channel k).state ≠ .free) : (s.startChans ks x).CountsOk := by
  refine h.channels (fun k => ?_) (by simp) (by simp) (by simp)
  rw [State.channel_startChans]
  split
  · next hk => exact Channel.fresh_kin (may k hk)
  · exact .refl _

theorem State.CountsOk.baseTick (h : s.CountsOk) : s.baseTick.CountsOk := by
  refine h.channels (fun k => ?_) (by simp) (by simp) (by simp)
  rw [State.channel_baseTick]
  split
  · exact ⟨rfl, rfl, rfl, Iff.rfl⟩
  · exact .refl _

/-- A tick counts the holds of the claims down, and leaves whom they belong to and what they name. -/
theorem State.countP_tickComes (s : State) {p : Claim → Bool} (h : ∀ q : Claim, p q.tick = p q) :
    s.tickComes.claims.countP p = s.claims.countP p := by
  rw [State.claims_tickComes, List.countP_map]
  refine List.countP_congr fun q _ => ?_
  simp only [Function.comp]
  split
  · exact Iff.rfl
  · rw [h]

theorem State.CountsOk.tickComes (h : s.CountsOk) : s.tickComes.CountsOk := by
  refine h.steady (fun k => by simpa using Channel.Kin.refl _)
    (fun k => s.countP_tickComes fun q => q.tick_names k)
    (fun d => s.countP_tickComes fun q => by rw [q.tick_fields.1]) (fun d => by simp) fun d => ?_
  rw [State.session_tickComes]
  split
  · exact ⟨rfl, rfl, rfl⟩
  · exact (s.session d).tick_counts

/-! ## What counts anew -/

theorem State.CountsOk.resolvePads (h : s.CountsOk) : s.resolvePads.CountsOk :=
  h.congr (State.resolvePads_channels _) (State.resolvePads_claims _) (State.resolvePads_watches _)
    (State.resolvePads_sessions _)

theorem State.claimsChanged_countsOk (s v : State) (x : Option Client) : (s.claimsChanged x v).CountsOk :=
  (State.settleRefs_countsOk _).resolvePads

theorem State.boundary_countsOk (s : State) (k : Chan) : (s.boundary k).CountsOk :=
  (State.settleRefs_countsOk _).resolvePads

theorem State.letGo_countsOk (s : State) (k : Chan) (c : Client) : (s.letGo k c).CountsOk := by
  have settled := (s.setChannel k (s.channel k).letGo).settleRefs_countsOk
  unfold State.letGo
  dsimp only
  split
  · exact settled
  · exact settled.congr (by simp) (by simp) (by simp) (by simp)

theorem State.torn_countsOk (s : State) (c : Client) : (s.torn c).CountsOk := by
  refine foldl_inv (P := State.CountsOk) (fun u k _ hu => ?_) (State.recount_countsOk _)
  split
  · exact u.letGo_countsOk k c
  · exact hu

theorem Session.ended_counts (e : Session) (cause : EndCause) : (e.ended cause).claimsHeld = e.claimsHeld ∧
    (e.ended cause).watchesHeld = e.watchesHeld ∧ (e.ended cause).channelsOwned = e.channelsOwned := ⟨rfl, rfl, rfl⟩

theorem State.teardown_countsOk (s : State) (c : Client) (cause : EndCause) : (s.teardown c cause).CountsOk := by
  have purged : ((s.torn c).purge c).CountsOk := (s.torn_countsOk c).congr (by simp) (by simp) (by simp) (by simp)
  have same := ((s.torn c).session c).ended_counts cause
  rw [State.teardown_eq]
  rw [← State.purge_session (s.torn c) c c] at same ⊢
  exact (purged.setSession same).resolvePads

theorem State.CountsOk.takeInput (h : s.CountsOk) (k : Chan) : (s.takeInput k).CountsOk := by
  obtain e | e | e := s.takeInput_cases k <;> rw [e]
  · exact h.setChannel ⟨rfl, rfl, rfl, Iff.rfl⟩
  · exact State.CountsOk.resolvePads (h.setChannel ⟨rfl, rfl, rfl, Iff.rfl⟩)
  · exact State.boundary_countsOk _ k

/-! ## Every event and every effect -/

theorem Event.keepsCounts (e : Event s t) (h : s.CountsOk) : t.CountsOk := by
  cases e with
  | edge p => exact h.takeEdge p
  | edgeBegins p =>
    exact (h.takeEdge p).channels (fun k => by rw [State.channel_beginEdge]; exact .refl _) (by simp) (by simp) (by simp)
  | input k => exact h.takeInput k
  | trigger k armed =>
    refine h.startChans none fun j hj => ?_
    rw [List.mem_singleton.mp hj, armed]
    decide
  | tick => exact h.tickComes
  | hold c p =>
    rw [State.expireHold_eq]
    exact (State.claimsChanged_countsOk ..).congr (State.place_channels ..) (State.place_claims ..)
      (State.place_watches ..) (State.place_sessions ..)
  | lease c => exact (h.setSession (e := (s.session c).toGrace) ⟨rfl, rfl, rfl⟩).congr rfl rfl rfl rfl
  | grace c => exact s.teardown_countsOk c .lapsed
  | reset cause => exact (s.deviceReset_ledger cause).counts.congr rfl rfl rfl rfl
  | resetLasts => exact h.congr rfl rfl rfl rfl
  | resetEnds | board | bus | edgeEnds => exact h.congr (by simp) (by simp) (by simp) (by simp)

theorem Effect.keepsCounts (e : Effect c s t) (h : s.CountsOk) : t.CountsOk := by
  cases e with
  | unchanged => exact h
  | opens lease => exact h.setSession ⟨rfl, rfl, rfl⟩
  | closes => exact s.teardown_countsOk c .closed
  | resets => exact (s.deviceReset_ledger .resetCommand).counts.congr (by simp) (by simp) (by simp) (by simp)
  | setsPolicy p e =>
    have edge : (if (s.pad p).tickDue = true then s.takeEdge p else s).CountsOk := by
      split
      · exact h.takeEdge p
      · exact h
    exact edge.congr (by simp [State.writePolicy]) (by simp [State.writePolicy]) (by simp [State.writePolicy])
      (by simp [State.writePolicy])
  | claimsLive a => exact (State.recount_countsOk _).resolvePads
  | claimsPending a k => exact State.recount_countsOk _
  | modifiesNow q a => exact State.claimsChanged_countsOk ..
  | modifiesLater q a k => exact State.settleRefs_countsOk _
  | releases p q => exact State.claimsChanged_countsOk ..
  | binds k => exact State.recount_countsOk _
  | configures k r => exact State.settleRefs_countsOk _
  | stages k x => exact h.setChannel ⟨rfl, rfl, rfl, Iff.rfl⟩
  | commits k x => exact h.setChannel (Channel.commitStaged_kin _ x)
  | cancels k => exact h.setChannel ⟨rfl, rfl, rfl, Iff.rfl⟩
  | starts ks may => exact h.startChans _ fun k hk => (ChanState.startable_iff.mp (may k hk).2).1
  | arms k p e _ idle =>
    refine h.setChannel ⟨rfl, rfl, rfl, iff_of_false (by simp) ?_⟩
    rcases idle with e | e <;> simp [e]
  | stops k => exact (State.settleRefs_countsOk _).resolvePads
  | disarms k _ armed => exact h.setChannel ⟨rfl, rfl, rfl, iff_of_false (by simp) (by simp [armed])⟩
  | releasesChannel k => exact s.letGo_countsOk k c
  | adopts k =>
    exact (State.recount_countsOk _).congr (State.noteSource_channels ..) (State.noteSource_claims ..)
      (State.noteSource_watches ..) (State.noteSource_sessions ..)
  | replacesWatch w => exact h.setWatch w
  | addsWatch w => exact State.recount_countsOk _
  | dropsWatch p => exact State.recount_countsOk _
  | fetches n => exact h.congr (by simp) (by simp) (by simp) (by simp)

end

/-! ## The step lemma of the counts -/

theorem counts_keeps : Keeps State.CountsOk where
  event _ _ h e := e.keepsCounts h
  pending _ _ h := h.congr rfl rfl rfl rfl
  base _ _ caught := caught.baseTick
  request _ _ c _ _ _ h _ _ e := (e.keepsCounts (h.taken c)).congr rfl rfl rfl rfl

/-- Settles O10: whatever changes a claim, a watch, an owner or a source counts anew, and nothing else is counted. -/
theorem everyStepKeepsTheCounts : Obligations.EveryStepKeepsTheCounts := fun _ _ h ht => counts_keeps.step h ht

end Sys2Proof.Machine
end

section
/-! PROOFS. The owner column of R90: the blocks that answer nobody but the owner of the channel a payload names, and what
they answer the others. -/

namespace Sys2Proof.Machine

open Sys2Proof

/-! ## Blocks that look at the owner first (R90) -/

/-- A block whose first two checks are that the first byte names a channel and that the caller owns it. -/
structure ChecksOwner (c : Client) (act : List Byte → State → Result) : Prop where
  noChan : ∀ (s : State) (b : Byte) (pl : List Byte), chanOf? b = none → act (b :: pl) s = refuse s .badArg
  notOwner : ∀ (s : State) (k : Chan) (pl : List Byte), (s.channel k).owner ≠ some c →
    act (byteOf k.val :: pl) s = refuse s .notOwner

section
variable (c : Client)

theorem commitAct_checksOwner : ChecksOwner c (commitAct c) where
  noChan s b pl h := by simp only [commitAct, byteAt_zero, h]
  notOwner s k pl h := by simp only [commitAct, byteAt_zero, chanOf?_byteOf]; exact if_pos h

theorem cancelAct_checksOwner : ChecksOwner c (cancelAct c) where
  noChan s b pl h := by simp only [cancelAct, byteAt_zero, h]
  notOwner s k pl h := by simp only [cancelAct, byteAt_zero, chanOf?_byteOf]; exact if_pos h

theorem startAct_checksOwner : ChecksOwner c (startAct c) where
  noChan s b pl h := by simp only [startAct, byteAt_zero, h]
  notOwner s k pl h := by simp only [startAct, byteAt_zero, chanOf?_byteOf]; exact if_pos h

theorem stopAct_checksOwner : ChecksOwner c (stopAct c) where
  noChan s b pl h := by simp only [stopAct, byteAt_zero, h]
  notOwner s k pl h := by simp only [stopAct, byteAt_zero, chanOf?_byteOf]; exact if_pos h

theorem releaseChannelAct_checksOwner : ChecksOwner c (releaseChannelAct c) where
  noChan s b pl h := by simp only [releaseChannelAct, byteAt_zero, h]
  notOwner s k pl h := by simp only [releaseChannelAct, byteAt_zero, chanOf?_byteOf]; exact if_pos h

theorem stageAct_checksOwner : ChecksOwner c (stageAct c) where
  noChan s b pl h := by simp only [stageAct, byteAt_zero, h]
  notOwner s k pl h := by simp only [stageAct, byteAt_zero, chanOf?_byteOf]; exact if_pos h

/-- The requests whose whole payload is a channel that only its owner may name. -/
theorem checksOwner_of_mem {cmd : Command} (h : cmd ∈ [Command.commit, .cancel, .start, .stop, .releaseChannel]) :
    ChecksOwner c (actOf c cmd) ∧ ∀ b : Byte, lengthOk cmd [b] = true := by
  simp only [List.mem_cons, List.not_mem_nil, or_false] at h
  obtain rfl | rfl | rfl | rfl | rfl := h
  · exact ⟨commitAct_checksOwner c, fun _ => rfl⟩
  · exact ⟨cancelAct_checksOwner c, fun _ => rfl⟩
  · exact ⟨startAct_checksOwner c, fun _ => rfl⟩
  · exact ⟨stopAct_checksOwner c, fun _ => rfl⟩
  · exact ⟨releaseChannelAct_checksOwner c, fun _ => rfl⟩

end

/-! ## What they answer -/

section
variable {s : State} {c : Client} {cmd : Command} {tag : Byte} {pl : List Byte}

theorem ChecksOwner.exec_notOwner (h : ChecksOwner c (actOf c cmd)) {k : Chan}
    (ha : s.Asks c (frameOf cmd tag (byteOf k.val :: pl))) (hl : lengthOk cmd (byteOf k.val :: pl) = true)
    (hs : s.InSession c) (ho : (s.channel k).owner ≠ some c) :
    ∃ t, exec (requestAt c cmd) s = .next t ∧ OnlyAnswered s t c tag .notOwner [] :=
  exec_refused ha ((State.served_act (fun _ => hs) hl).trans (h.notOwner (s.taken c) k pl ho))

theorem ChecksOwner.exec_noChan (h : ChecksOwner c (actOf c cmd)) {b : Byte}
    (ha : s.Asks c (frameOf cmd tag (b :: pl))) (hl : lengthOk cmd (b :: pl) = true)
    (hs : s.InSession c) (hb : 6 ≤ b.toNat) :
    ∃ t, exec (requestAt c cmd) s = .next t ∧ OnlyAnswered s t c tag .badArg [] :=
  exec_refused ha ((State.served_act (fun _ => hs) hl).trans (h.noChan (s.taken c) b pl (chanOf?_eq_none.mpr hb)))

end

theorem configureAct_notOwner {s : State} {c : Client} {k : Chan} (ho : (s.channel k).owner ≠ some c) (r : Settings) :
    configureAct c (byteOf k.val :: settingsBytes r) s = refuse s .notOwner := by
  simp only [configureAct, decodeConfigure_bytes]
  exact if_pos ho

theorem armAct_notOwner {s : State} {c : Client} {k : Chan} (ho : (s.channel k).owner ≠ some c) (p : Pin) (e : Edge) :
    armAct c [byteOf k.val, byteOf p.val, edgeByte e] s = refuse s .notOwner := by
  simp only [armAct, decodeArm_bytes]
  exact if_pos ho

/-- Settles O20: each block looks at the owner before anything that the payload says besides the channel, but for
CONFIGURE and ARM, whose payloads are decoded whole. -/
theorem ownerOnlyRequestsNeedTheOwner : Obligations.OwnerOnlyRequestsNeedTheOwner := by
  refine ⟨fun s c tag cmd k hm ha hs ho => ?_, fun s c tag k pl ha hl hs ho => ?_,
    fun s c tag k r ha hs ho => exec_refused ha ?_, fun s c tag k p e ha hs ho => exec_refused ha ?_,
    fun s c tag cmd b hm ha hs hb => ?_, fun s c tag b pl ha hl hs hb => ?_⟩
  · obtain ⟨checks, length⟩ := checksOwner_of_mem c hm
    exact checks.exec_notOwner ha (length _) hs ho
  · exact ChecksOwner.exec_notOwner (cmd := .stage) (stageAct_checksOwner c) ha hl hs ho
  · rw [State.served_configure hs (lengthOk_configure k r), configureAct_notOwner (s := s.taken c) ho]
  · rw [State.served_arm hs, armAct_notOwner (s := s.taken c) ho]
  · obtain ⟨checks, length⟩ := checksOwner_of_mem c hm
    exact checks.exec_noChan ha (length _) hs hb
  · exact ChecksOwner.exec_noChan (cmd := .stage) (stageAct_checksOwner c) ha hl hs hb

end Sys2Proof.Machine
end

section
/-! PROOFS. BIND and ADOPT (R92, R93, R101): a channel that comes to an owner, and what is counted of it. -/

namespace Sys2Proof.Machine

open Sys2Proof

/-! ## A channel that changes its owner (R95, R120) -/

/-- Two counts over a list that differ at one element of it only. -/
theorem countP_add_of_agree_off {α : Type} [DecidableEq α] {p q : α → Bool} {l : List α} {a : α} (distinct : l.Nodup)
    (ha : a ∈ l) (agree : ∀ x, x ≠ a → p x = q x) :
    l.countP p + (if q a = true then 1 else 0) = l.countP q + if p a = true then 1 else 0 := by
  have perm := List.perm_cons_erase ha
  have rest : (l.erase a).countP p = (l.erase a).countP q := List.countP_congr fun x hx => by
    rw [agree x (distinct.mem_erase_iff.mp hx).1]
  rw [perm.countP_eq p, perm.countP_eq q, List.countP_cons, List.countP_cons, rest]
  omega

/-- A session that owns so many channels. -/
def Session.owning (e : Session) (n : Nat) : Session := { e with channelsOwned := n }

/-- A channel that comes to a client. -/
def Channel.ownedBy (ch : Channel) (c : Client) : Channel := { ch with owner := some c }

/-- A FREE channel that is bound to a client (R92). -/
def Channel.boundTo (ch : Channel) (c : Client) : Channel := { ch with state := .stopped, owner := some c }

theorem State.bindTo_eq (s : State) (k : Chan) (c : Client) :
    s.bindTo k c = (s.setChannel k ((s.channel k).boundTo c)).recount := rfl

theorem State.adopt_eq (s : State) (k : Chan) (c : Client) :
    s.adopt k c = ((s.setChannel k ((s.channel k).ownedBy c)).recount).noteSource k (some c) := rfl

section
variable {s : State} {k : Chan} {ch : Channel} {c : Client}

theorem State.refsOf_setChannel (hc : ch.settings.clock = (s.channel k).settings.clock) (j : Chan) :
    (s.setChannel k ch).refsOf j = s.refsOf j :=
  State.refsOf_congr (State.setChannel_claims ..) (fun i => by
    rw [State.channel_setChannel]
    split
    · next e => rw [hc, e]
    · rfl) j

/-- How many channels a client owns once one of them has another owner. -/
theorem State.owned_setChannel (s : State) (k : Chan) (ch : Channel) (d : Client) :
    (allChans.countP fun j => ((s.setChannel k ch).channel j).owner = some d) +
        (if (s.channel k).owner = some d then 1 else 0) =
      (allChans.countP fun j => (s.channel j).owner = some d) + if ch.owner = some d then 1 else 0 := by
  have count := countP_add_of_agree_off (p := fun j => decide (((s.setChannel k ch).channel j).owner = some d))
    (q := fun j => decide ((s.channel j).owner = some d)) allChans_nodup (mem_allChans k)
    fun j hj => by rw [State.channel_setChannel_ne _ _ hj]
  simpa only [State.channel_setChannel_self, decide_eq_true_eq] using count

/-- Only a change of the owner tells in the counts. -/
theorem State.channel_recount_setChannel (h : s.CountsOk) (hr : ch.refs = (s.channel k).refs)
    (hc : ch.settings.clock = (s.channel k).settings.clock) (j : Chan) :
    (s.setChannel k ch).recount.channel j = if k = j then ch else s.channel j := by
  rw [State.channel_recount, State.channel_setChannel, State.refsOf_setChannel hc, ← h.1 j]
  split
  · next e => rw [← e, ← hr]
  · rfl

/-- The clients that rely on the channel are told of it as it then is (R103). -/
theorem State.queue_told (h : s.CountsOk) (hr : ch.refs = (s.channel k).refs)
    (hc : ch.settings.clock = (s.channel k).settings.clock) (d : Client) :
    ((s.setChannel k ch).recount.noteSource k (some c)).queue d =
      if d ≠ c ∧ s.relies d k = true then (s.queue d).place (.sourceChange k ch.state ch.owner.isSome)
      else s.queue d := by
  have caller : some c ≠ some d ↔ d ≠ c := by rw [ne_comm, ne_eq, Option.some_inj]
  rw [State.queue_noteSource, State.channel_recount_setChannel h hr hc, if_pos rfl]
  simp only [caller]
  rfl

theorem State.samePorts_told (s : State) (k : Chan) (ch : Channel) (c : Client) :
    SamePorts s ((s.setChannel k ch).recount.noteSource k (some c)) :=
  (Placed.noteSource (s.setChannel k ch).recount k (some c)).samePorts

theorem State.session_recount_setChannel (h : s.CountsOk) (d : Client) : (s.setChannel k ch).recount.session d =
    (s.session d).owning ((s.session d).channelsOwned + (if ch.owner = some d then 1 else 0) -
      if (s.channel k).owner = some d then 1 else 0) := by
  obtain ⟨claims, watches, owned⟩ := h.2 d
  rw [State.session_recount, State.session_setChannel, State.setChannel_claims, State.setChannel_watches, ← claims,
    ← watches, owned, ← State.owned_setChannel s k ch d, Nat.add_sub_cancel]
  rfl

/-- A channel without an owner that comes to one is one more of its client's. -/
theorem State.session_recount_owned (h : s.CountsOk) (orphan : (s.channel k).owner = none) (hc : ch.owner = some c)
    (d : Client) : (s.setChannel k ch).recount.session d =
      if d = c then (s.session d).owning ((s.session d).channelsOwned + 1) else s.session d := by
  rw [State.session_recount_setChannel h, orphan, hc]
  by_cases e : d = c
  · rw [if_pos e, if_pos (congrArg some e.symm)]
    rfl
  · rw [if_neg e, if_neg fun e' => e (Option.some.inj e').symm]
    rfl

end

/-- The sessions after a taking whose block counts the caller's channels anew. -/
theorem session_answer_owning {s u : State} {c : Client} {f : Nat → Nat}
    (h : ∀ d, u.session d = if d = c then ((s.taken c).session d).owning (f ((s.taken c).session d).channelsOwned)
      else (s.taken c).session d) (tag : Byte) (st : Status) (pl : List Byte) :
    (u.answer c tag st pl).session c = (s.session c).renewed.owning (f (s.session c).channelsOwned) ∧
      ∀ d : Client, d ≠ c → (u.answer c tag st pl).session d = s.session d := by
  refine ⟨?_, fun d hd => ?_⟩
  · rw [State.answer_session, h, if_pos rfl, State.session_taken, if_pos rfl, Session.renewed_channelsOwned]
  · rw [State.answer_session, h, if_neg hd, State.session_taken, if_neg (Ne.symm hd)]

/-! ## BIND (R92, R93) -/

section
variable {s : State} {c : Client} {k : Chan} {b : Byte}

theorem byteOf_chan_ne_any (k : Chan) : byteOf k.val ≠ 0xFF := by revert k; decide

theorem State.lowestFree_eq_some (hf : (s.channel k).state = .free)
    (low : ∀ j : Chan, j < k → (s.channel j).state ≠ .free) : s.lowestFree = some k := by
  refine List.find?_eq_some_iff_getElem.mpr ⟨decide_eq_true hf, k.val, by simp [allChans], by simp [allChans], ?_⟩
  intro j hj
  simpa [allChans] using low ⟨j, by omega⟩ (Fin.mk_lt_of_lt_val hj)

theorem State.lowestFree_eq_none (h : ∀ k : Chan, (s.channel k).state ≠ .free) : s.lowestFree = none :=
  List.find?_eq_none.mpr fun k _ => by simpa using h k

theorem State.channel_bindTo (h : s.CountsOk) (j : Chan) :
    (s.bindTo k c).channel j = if k = j then (s.channel k).boundTo c else s.channel j := by
  rw [State.bindTo_eq]
  exact State.channel_recount_setChannel (ch := (s.channel k).boundTo c) h rfl rfl j

theorem State.served_bind (hs : s.InSession c) (b : Byte) : s.served c .bind [b] = bindAct c [b] (s.taken c) :=
  State.served_act (fun _ => hs) rfl

theorem bindAct_any : bindAct c [0xFF] s = s.lowestFree.elim (refuse s .noChannel) fun k =>
    { state := s.bindTo k c, status := .ok, payload := [byteOf k.val] } := by
  unfold bindAct
  rw [byteAt_zero, if_pos rfl]
  cases s.lowestFree <;> rfl

theorem bindAct_byteOf : bindAct c [byteOf k.val] s =
    if (s.channel k).state ≠ .free then refuse s .inUse
    else { state := s.bindTo k c, status := .ok, payload := [byteOf k.val] } := by
  simp only [bindAct, byteAt_zero, if_neg (byteOf_chan_ne_any k), chanOf?_byteOf]

/-- BIND that finds the FREE channel it asks for, at its block. -/
theorem bindAct_of_free (hf : (s.channel k).state = .free)
    (hb : b = byteOf k.val ∨ (b = 0xFF ∧ ∀ j : Chan, j < k → (s.channel j).state ≠ .free)) :
    bindAct c [b] s = { state := s.bindTo k c, status := .ok, payload := [byteOf k.val] } := by
  obtain rfl | ⟨rfl, low⟩ := hb
  · rw [bindAct_byteOf, if_neg (not_not_intro hf)]
  · rw [bindAct_any, State.lowestFree_eq_some hf low]
    rfl

/-- BIND that finds none, at its block. -/
theorem bindAct_refused (h : if b = 0xFF then ∀ k : Chan, (s.channel k).state ≠ .free
      else ∀ k : Chan, b = byteOf k.val → (s.channel k).state ≠ .free) :
    bindAct c [b] s = refuse s (if b = 0xFF then .noChannel else if b.toNat < 6 then .inUse else .badArg) := by
  by_cases any : b = 0xFF
  · rw [if_pos any] at h ⊢
    rw [any, bindAct_any, State.lowestFree_eq_none h]
    rfl
  · rw [if_neg any] at h ⊢
    cases hb : chanOf? b with
    | none =>
      rw [if_neg (not_lt.mpr (chanOf?_eq_none.mp hb)), bindAct, byteAt_zero, if_neg any, hb]
    | some k =>
      have named : b = byteOf k.val := chanOf?_eq_some.mp hb
      rw [if_pos (Nat.lt_succ_of_le (chanOf?_le hb)), named, bindAct_byteOf, if_pos (h k named)]

end

/-- Settles O32: a FREE channel holds the cleared values, so that binding it gives it a state and an owner alone. -/
theorem bindTakesAFreeChannel : Obligations.BindTakesAFreeChannel := by
  refine ⟨fun s c tag k b h ha hs hf hb => ⟨_, exec_of_asks ha, ?_⟩, fun s c tag b ha hs hb => exec_refused ha ?_⟩
  · have cleared : s.channel k = Channel.cleared := (h.channels k).2.1 hf
    have counts : (s.taken c).CountsOk := h.counts.taken c
    have orphan : ((s.taken c).channel k).owner = none := by rw [State.taken_channel, cleared]; rfl
    have channel := State.channel_bindTo (k := k) (c := c) counts
    obtain ⟨own, others⟩ := session_answer_owning (f := (· + 1))
      (State.session_recount_owned (ch := ((s.taken c).channel k).boundTo c) counts orphan rfl) tag .ok [byteOf k.val]
    rw [State.served_bind hs, bindAct_of_free (s := s.taken c) hf hb]
    refine ⟨?_, fun j hj => ?_, own, others, answered_of_ports (fun d => by rw [State.bindTo_port]) tag .ok _,
      ⟨by simp, by simp, by simp⟩, ⟨by simp, by simp⟩, by simp, by simp,
      sameDevice_answer ⟨by simp, by simp, by simp, by simp, by simp⟩ tag .ok _⟩
    · rw [State.answer_channel, channel, if_pos rfl, State.taken_channel, cleared]
      rfl
    · rw [State.answer_channel, channel, if_neg (Ne.symm hj), State.taken_channel]
  · rw [State.served_bind hs, bindAct_refused (s := s.taken c) hb]

/-! ## ADOPT (R101) -/

section
variable {s : State} {c : Client} {k : Chan} {b : Byte}

theorem State.served_adopt (hs : s.InSession c) (b : Byte) : s.served c .adopt [b] = adoptAct c [b] (s.taken c) :=
  State.served_act (fun _ => hs) rfl

theorem State.channel_adopt (h : s.CountsOk) (j : Chan) :
    (s.adopt k c).channel j = if k = j then (s.channel k).ownedBy c else s.channel j := by
  rw [State.adopt_eq, State.noteSource_channel]
  exact State.channel_recount_setChannel (ch := (s.channel k).ownedBy c) h rfl rfl j

theorem State.session_adopt (h : s.CountsOk) (orphan : (s.channel k).owner = none) (d : Client) :
    (s.adopt k c).session d =
      if d = c then (s.session d).owning ((s.session d).channelsOwned + 1) else s.session d := by
  rw [State.adopt_eq, State.noteSource_session]
  exact State.session_recount_owned (ch := (s.channel k).ownedBy c) h orphan rfl d

theorem State.queue_adopt (h : s.CountsOk) (d : Client) : (s.adopt k c).queue d =
    if d ≠ c ∧ s.relies d k = true then (s.queue d).place (.sourceChange k (s.channel k).state true)
    else s.queue d := by
  rw [State.adopt_eq, State.queue_told (ch := (s.channel k).ownedBy c) h rfl rfl]
  rfl

/-- ADOPT of a channel, at its block: the two checks, then the owner (R101). -/
theorem adoptAct_byteOf (s : State) (c : Client) (k : Chan) : adoptAct c [byteOf k.val] s =
    if (s.channel k).state = .free then refuse s .state
    else if (s.channel k).owner.isSome then refuse s .notOrphan
    else
      { state := s.adopt k c, status := .ok
        payload := [chanStateByte ((s.adopt k c).channel k).state, byteOf ((s.adopt k c).channel k).refs] } := by
  simp only [adoptAct, byteAt_zero, chanOf?_byteOf]

/-- ADOPT of no orphan, at its block. -/
theorem adoptAct_refused (h : ∀ k : Chan, b = byteOf k.val → (s.channel k).state = .free ∨ (s.channel k).owner ≠ none) :
    adoptAct c [b] s = refuse s (if b.toNat < 6 then
      (if ∃ k : Chan, b = byteOf k.val ∧ (s.channel k).state = .free then .state else .notOrphan) else .badArg) := by
  cases hb : chanOf? b with
  | none => rw [if_neg (not_lt.mpr (chanOf?_eq_none.mp hb)), adoptAct, byteAt_zero, hb]
  | some k =>
    have chan : b.toNat < 6 := Nat.lt_succ_of_le (chanOf?_le hb)
    obtain rfl := chanOf?_eq_some.mp hb
    have frees : (∃ j : Chan, byteOf k.val = byteOf j.val ∧ (s.channel j).state = .free) ↔ (s.channel k).state = .free :=
      ⟨fun ⟨j, e, hf⟩ => byteOf_chan_injective e ▸ hf, fun hf => ⟨k, rfl, hf⟩⟩
    rw [adoptAct_byteOf, if_pos chan]
    simp only [frees]
    by_cases free : (s.channel k).state = .free
    · rw [if_pos free, if_pos free]
    · have owned := Option.isSome_iff_ne_none.mpr ((h k rfl).resolve_left free)
      rw [if_neg free, if_neg free, if_pos owned]

end

/-- Settles O42: nothing of the channel is counted but its owner, and the notices tell of it as it then is. -/
theorem adoptTakesAnOrphan : Obligations.AdoptTakesAnOrphan := by
  refine ⟨fun s c tag k h ha hs used orphan => ⟨_, exec_of_asks ha, ?_⟩, fun s c tag b ha hs hb => exec_refused ha ?_⟩
  · have counts : (s.taken c).CountsOk := h.counts.taken c
    have channel := State.channel_adopt (k := k) (c := c) counts
    have served : s.served c .adopt [byteOf k.val] =
        { state := (s.taken c).adopt k c, status := .ok
          payload := [chanStateByte (s.channel k).state, byteOf (s.channel k).refs] } := by
      rw [State.served_adopt hs, adoptAct_byteOf, State.taken_channel, if_neg used, orphan, if_neg (by simp), channel,
        if_pos rfl, State.taken_channel]
      rfl
    obtain ⟨own, others⟩ := session_answer_owning (f := (· + 1)) (State.session_adopt counts orphan) tag .ok
      [chanStateByte (s.channel k).state, byteOf (s.channel k).refs]
    rw [served]
    refine ⟨?_, fun j hj => ?_, fun d => ?_, own, others, answered_of_placed (State.samePorts_told _ k _ c) tag .ok _,
      ⟨by simp, by simp, by simp⟩, ⟨by simp, by simp⟩, by simp,
      sameDevice_answer ⟨by simp, by simp, by simp, by simp, by simp⟩ tag .ok _⟩
    · rw [State.answer_channel, channel, if_pos rfl, State.taken_channel]
      rfl
    · rw [State.answer_channel, channel, if_neg (Ne.symm hj), State.taken_channel]
    · rw [State.answer_queue, State.queue_adopt counts]
      rfl
  · rw [State.served_adopt hs, adoptAct_refused (s := s.taken c) hb]
    rfl

end Sys2Proof.Machine
end

section
/-! PROOFS. RELEASE CHANNEL (R97 to R99): a channel without references goes FREE and may take others with it, one with
references is orphaned and takes none. -/

namespace Sys2Proof.Machine

open Sys2Proof

section
variable {s : State} {k : Chan} {c : Client}

/-! ## The settling and the notices (R97, R103) -/

theorem Channel.letGo_not_free {ch : Channel} (used : ch.state ≠ .free) : ch.letGo.state ≠ .free := by
  unfold Channel.letGo
  dsimp only
  split
  · decide
  · exact used

/-- The notices change no channel. -/
theorem State.channels_letGo (s : State) (k : Chan) (c : Client) :
    (s.letGo k c).channels = (s.setChannel k (s.channel k).letGo).settleRefs.channels := by
  unfold State.letGo
  dsimp only
  split
  · rfl
  · exact State.noteSource_channels ..

theorem State.refsOf_letGo_le (s : State) (k : Chan) (c : Client) (j : Chan) :
    (s.letGo k c).refsOf j ≤ s.refsOf j := by
  have same : (s.letGo k c).refsOf j = (s.setChannel k (s.channel k).letGo).settleRefs.refsOf j :=
    State.refsOf_congr (by simp) (fun i => by rw [State.channel_congr (s.channels_letGo k c)]) j
  rw [same, ← State.refsOf_setChannel (ch := (s.channel k).letGo) rfl j]
  exact State.refsOf_settleRefs_le ..

theorem State.channel_letGo_of_unreferenced (h : s.ChannelsOk) (counts : s.CountsOk) (used : (s.channel k).state ≠ .free)
    (hr : (s.channel k).refs = 0) : (s.letGo k c).channel k = Channel.cleared := by
  have unnamed : (s.letGo k c).refsOf k = 0 := by
    have le := s.refsOf_letGo_le k c k
    rw [← counts.1 k, hr] at le
    exact Nat.le_zero.mp le
  rw [State.channel_letGo h.freeCleared used c k, if_pos rfl, unnamed]
  exact if_pos ⟨rfl, rfl⟩

/-- Nobody is told of a channel that goes FREE (R99). -/
theorem State.letGo_of_unreferenced (h : s.ChannelsOk) (counts : s.CountsOk) (used : (s.channel k).state ≠ .free)
    (hr : (s.channel k).refs = 0) : s.letGo k c = (s.setChannel k (s.channel k).letGo).settleRefs := by
  have cleared := State.channel_letGo_of_unreferenced (c := c) h counts used hr
  rw [State.channel_congr (s.channels_letGo k c)] at cleared
  unfold State.letGo
  exact if_pos (by rw [cleared]; rfl)

/-- A channel that is still named is freed by nobody, and no other channel loses a reference. -/
theorem State.letGo_of_referenced (h : s.ChannelsOk) (counts : s.CountsOk) (used : (s.channel k).state ≠ .free)
    (hr : (s.channel k).refs ≠ 0) :
    s.letGo k c = (s.setChannel k (s.channel k).letGo).recount.noteSource k (some c) := by
  have channel := State.channel_recount_setChannel (ch := (s.channel k).letGo) counts rfl rfl
  have settled : (s.setChannel k (s.channel k).letGo).settleRefs = (s.setChannel k (s.channel k).letGo).recount := by
    refine State.freeOrphans_of_none fun j => Bool.eq_false_iff.mpr fun forsaken => ?_
    obtain ⟨owner, inUse, unnamed⟩ := Channel.forsaken_iff.mp forsaken
    rw [channel] at owner inUse unnamed
    split at unnamed
    · exact hr unnamed
    · next e =>
      rw [if_neg e] at owner inUse
      exact inUse ((h j).1.mpr ⟨owner, unnamed⟩)
  unfold State.letGo
  rw [settled]
  exact if_neg (by rw [channel, if_pos rfl]; exact Channel.letGo_not_free used)

/-! ## What a release leaves (R98, R99) -/

theorem State.channel_letGo_self (h : s.ChannelsOk) (counts : s.CountsOk) (used : (s.channel k).state ≠ .free) :
    (s.letGo k c).channel k = if (s.channel k).refs = 0 then Channel.cleared else (s.channel k).letGo := by
  split
  · next hr => exact State.channel_letGo_of_unreferenced h counts used hr
  · next hr =>
    rw [State.letGo_of_referenced h counts used hr, State.noteSource_channel,
      State.channel_recount_setChannel (ch := (s.channel k).letGo) counts rfl rfl, if_pos rfl]

theorem State.channel_letGo_other (h : s.ChannelsOk) (counts : s.CountsOk) (used : (s.channel k).state ≠ .free)
    (hr : (s.channel k).refs ≠ 0) {j : Chan} (hj : j ≠ k) : (s.letGo k c).channel j = s.channel j := by
  rw [State.letGo_of_referenced h counts used hr, State.noteSource_channel,
    State.channel_recount_setChannel (ch := (s.channel k).letGo) counts rfl rfl, if_neg (Ne.symm hj)]

theorem State.queue_letGo (h : s.ChannelsOk) (counts : s.CountsOk) (used : (s.channel k).state ≠ .free) (d : Client) :
    (s.letGo k c).queue d = if (s.channel k).refs ≠ 0 ∧ d ≠ c ∧ s.relies d k = true then
        (s.queue d).place (.sourceChange k ((s.letGo k c).channel k).state false)
      else s.queue d := by
  rw [State.channel_letGo_self h counts used]
  by_cases hr : (s.channel k).refs = 0
  · rw [State.letGo_of_unreferenced h counts used hr, if_neg fun e => e.1 hr, State.settleRefs_queue,
      State.queue_setChannel]
  · simp only [State.letGo_of_referenced h counts used hr,
      State.queue_told (ch := (s.channel k).letGo) counts rfl rfl, ne_eq, hr, not_false_eq_true, true_and]
    rfl

theorem State.session_letGo (counts : s.CountsOk) (ho : (s.channel k).owner = some c) (d : Client) :
    (s.letGo k c).session d =
      if d = c then (s.session d).owning ((s.session d).channelsOwned - 1) else s.session d := by
  have counted : (s.letGo k c).session d = (s.setChannel k (s.channel k).letGo).recount.session d := by
    rw [State.session_recount, ← State.session_settleRefs]
    unfold State.letGo
    dsimp only
    split
    · rfl
    · exact State.noteSource_session ..
  have nobody : (s.channel k).letGo.owner = none := rfl
  rw [counted, State.session_recount_setChannel counts, nobody, ho]
  by_cases e : d = c
  · rw [if_pos e, if_pos (congrArg some e.symm)]
    rfl
  · rw [if_neg e, if_neg fun e' => e (Option.some.inj e').symm]
    rfl

theorem State.samePorts_letGo (s : State) (k : Chan) (c : Client) : SamePorts s (s.letGo k c) := by
  have port (d : Client) : (s.setChannel k (s.channel k).letGo).settleRefs.port d = s.port d := by
    rw [State.settleRefs_port, State.port_setChannel]
  intro d
  unfold State.letGo
  dsimp only
  split
  · rw [port]
  · have told := (Placed.noteSource (s.setChannel k (s.channel k).letGo).settleRefs k (some c)).samePorts d
    rwa [port] at told

/-! ## The answer (R98) -/

theorem State.served_releaseChannel (hs : s.InSession c) (b : Byte) :
    s.served c .releaseChannel [b] = releaseChannelAct c [b] (s.taken c) := State.served_act (fun _ => hs) rfl

theorem releaseReply_of_referenced {ch : Channel} (used : ch.state ≠ .free) :
    releaseReply ch = [1, chanStateByte ch.state, byteOf ch.refs] := by
  rw [releaseReply, decide_eq_true used]
  rfl

/-- RELEASE CHANNEL by the owner of the channel, at its block. -/
theorem releaseChannelAct_of_owner (h : s.ChannelsOk) (counts : s.CountsOk) (used : (s.channel k).state ≠ .free)
    (ho : (s.channel k).owner = some c) : releaseChannelAct c [byteOf k.val] s =
      { state := s.letGo k c, status := .ok
        payload := if (s.channel k).refs = 0 then [0, 0, 0]
          else [1, chanStateByte ((s.letGo k c).channel k).state, byteOf (s.channel k).refs] } := by
  have reply : releaseReply ((s.letGo k c).channel k) = if (s.channel k).refs = 0 then [0, 0, 0]
      else [1, chanStateByte ((s.letGo k c).channel k).state, byteOf (s.channel k).refs] := by
    rw [State.channel_letGo_self h counts used]
    split
    · rfl
    · exact releaseReply_of_referenced (Channel.letGo_not_free used)
  simp only [releaseChannelAct, byteAt_zero, chanOf?_byteOf, reply]
  exact if_neg (not_not_intro ho)

end

/-- Settles O41: the settling of references frees the channel where none is left, and it alone can free others. -/
theorem releaseChannelFreesOrOrphans : Obligations.ReleaseChannelFreesOrOrphans := by
  intro s c tag k h ha hs ho
  have channels : (s.taken c).ChannelsOk := h.channels
  have counts : (s.taken c).CountsOk := h.counts.taken c
  have owner : ((s.taken c).channel k).owner = some c := ho
  have used : ((s.taken c).channel k).state ≠ .free := fun hf => by
    rw [((channels k).1.mp hf).1] at owner
    cases owner
  have served : s.served c .releaseChannel [byteOf k.val] =
      { state := (s.taken c).letGo k c, status := .ok
        payload := if (s.channel k).refs = 0 then [0, 0, 0]
          else [1, chanStateByte (((s.taken c).letGo k c).channel k).state, byteOf (s.channel k).refs] } := by
    rw [State.served_releaseChannel hs, releaseChannelAct_of_owner channels counts used owner, State.taken_channel]
  refine ⟨_, exec_of_asks ha, ?_⟩
  rw [served]
  dsimp only
  generalize reply : (if (s.channel k).refs = 0 then [0, 0, 0] else
    [1, chanStateByte (((s.taken c).letGo k c).channel k).state, byteOf (s.channel k).refs] : List Byte) = pl
  obtain ⟨own, others⟩ := session_answer_owning (f := (· - 1)) (State.session_letGo counts owner) tag .ok pl
  refine ⟨?_, fun j hj => ?_, fun hr j hj => ?_, fun d => ?_, own, others, ?_, ⟨by simp, by simp, by simp⟩,
    ⟨by simp, by simp⟩, by simp, sameDevice_answer ⟨by simp, by simp, by simp, by simp, by simp⟩ tag .ok _⟩
  · rw [State.answer_channel, State.channel_letGo_self channels counts used, State.taken_channel]
    rfl
  · rw [State.answer_channel, State.refsOf_answer, State.channel_letGo channels.freeCleared used c j, if_neg (Ne.symm hj),
      State.taken_channel]
  · rw [State.answer_channel, State.channel_letGo_other channels counts used hr hj, State.taken_channel]
  · rw [State.answer_queue, State.answer_channel, State.queue_letGo channels counts used]
    rfl
  · rw [State.answer_channel, reply]
    exact answered_of_placed (State.samePorts_letGo _ k c) tag .ok pl

end Sys2Proof.Machine
end

section
/-! PROOFS. WATCH and UNWATCH (R107, R110 to R112): the watch that a request finds, and what is counted of the watches. -/

namespace Sys2Proof.Machine

open Sys2Proof

section
variable {s : State} {c : Client} {p : Pin} {e : EdgeSel} {w : Watch}

/-! ## The watch of a client on a pin (R107) -/

theorem State.watchAt_eq_none : s.watchAt c p = none ↔ ∀ w ∈ s.watches, (w.client, w.pin) ≠ (c, p) := by
  simp [State.watchAt]

/-- A client has at most one watch on a pin, so the lookup finds the one that the pool holds. -/
theorem State.watchAt_of_mem (h : s.WatchesOk) (hw : w ∈ s.watches) : s.watchAt w.client w.pin = some w := by
  obtain ⟨-, nodup, -⟩ := h
  cases found : s.watchAt w.client w.pin with
  | none => exact absurd rfl (State.watchAt_eq_none.mp found w hw)
  | some v =>
    obtain ⟨client, pin⟩ : v.client = w.client ∧ v.pin = w.pin := by simpa using List.find?_some found
    exact congrArg some (List.inj_on_of_nodup_map nodup (List.mem_of_find?_eq_some found) hw (Prod.ext client pin))

theorem State.taken_watchAt (s : State) (c d : Client) (p : Pin) : (s.taken c).watchAt d p = s.watchAt d p := rfl

/-- A watch changed in place keeps its client and its pin, and takes the selection (R111). -/
theorem State.watches_setWatch (s : State) (c : Client) (p : Pin) (e : EdgeSel) :
    (s.setWatch { client := c, pin := p, edges := e }).watches =
      s.watches.map fun v => if v.client = c ∧ v.pin = p then { v with edges := e } else v := by
  refine List.map_congr_left fun v _ => ?_
  by_cases same : v.client = c ∧ v.pin = p
  · obtain ⟨rfl, rfl⟩ := same
    simp
  · rw [if_neg same, if_neg (by simpa using same)]

/-! ## The watches counted anew (R120) -/

/-- The part with other watches, counted anew. -/
def State.rewatched (s : State) (l : List Watch) : State := State.recount { s with watches := l }

theorem State.addWatch_eq (s : State) (w : Watch) : s.addWatch w = s.rewatched (s.watches ++ [w]) := rfl

theorem State.dropWatch_eq (s : State) (c : Client) (p : Pin) :
    s.dropWatch c p = s.rewatched (s.watches.filter fun v => !(v.client = c && v.pin = p)) := rfl

/-- A session that holds so many watches. -/
def Session.watching (e : Session) (n : Nat) : Session := { e with watchesHeld := n }

theorem State.watchesHeld_eq (h : s.CountsOk) (d : Client) :
    (s.session d).watchesHeld = s.watches.countP fun v => v.client = d :=
  let ⟨_, watches, _⟩ := h.2 d
  watches

/-- No reference is a watch's (R95). -/
theorem State.channels_rewatched (h : s.CountsOk) (l : List Watch) : (s.rewatched l).channels = s.channels :=
  State.channels_ext fun k => by
    have refs : State.refsOf { s with watches := l } k = (s.channel k).refs := (h.1 k).symm
    rw [State.rewatched, State.channel_recount, refs]
    rfl

theorem State.session_rewatched (h : s.CountsOk) (l : List Watch) (d : Client) :
    (s.rewatched l).session d = (s.session d).watching (l.countP fun v => v.client = d) := by
  obtain ⟨claims, -, owned⟩ := h.2 d
  rw [State.rewatched, State.session_recount, Session.watching, claims, owned]
  rfl

theorem State.session_rewatched_same (h : s.CountsOk) {l : List Watch} {d : Client}
    (hl : (l.countP fun v => v.client = d) = s.watches.countP fun v => v.client = d) :
    (s.rewatched l).session d = s.session d := by
  rw [State.session_rewatched h, hl, ← State.watchesHeld_eq h]
  rfl

theorem countP_watches_append (l : List Watch) (w : Watch) (d : Client) :
    ((l ++ [w]).countP fun v => v.client = d) = (l.countP fun v => v.client = d) + if w.client = d then 1 else 0 := by
  simp [List.countP_append, List.countP_singleton]

/-- The pool holds one watch of the client on the pin, so one of its client's watches goes and none of the others'. -/
theorem State.countP_watches_dropped (h : s.WatchesOk) (hw : w ∈ s.watches) (d : Client) :
    ((s.watches.filter fun v => !(v.client = w.client && v.pin = w.pin)).countP fun v => v.client = d) =
      (s.watches.countP fun v => v.client = d) - if w.client = d then 1 else 0 := by
  obtain ⟨-, nodup, -⟩ := h
  have one : (s.watches.countP fun v => v.client = w.client && v.pin = w.pin) = 1 := by
    have count := List.count_eq_one_of_mem nodup (List.mem_map_of_mem hw)
    rw [List.count, List.countP_map] at count
    rw [← count]
    exact List.countP_congr fun v _ => by simp
  have gone : ((s.watches.filter fun v => v.client = w.client && v.pin = w.pin).countP fun v => v.client = d) =
      if w.client = d then 1 else 0 := by
    rw [List.countP_filter]
    by_cases hd : w.client = d
    · rw [if_pos hd, ← one]
      exact List.countP_congr fun v _ => by simp +contextual [hd]
    · rw [if_neg hd, List.countP_eq_zero]
      rintro v - both
      simp only [Bool.and_eq_true, decide_eq_true_eq] at both
      obtain ⟨other, same, -⟩ := both
      exact hd (same.symm.trans other)
  have split := List.countP_eq_countP_filter_add s.watches (fun v => decide (v.client = d))
    fun v => v.client = w.client && v.pin = w.pin
  rw [gone] at split
  rw [split, Nat.add_sub_cancel_left]

/-! ## The blocks, case by case (R110 to R112) -/

theorem State.served_watch (hs : s.InSession c) (bp be : Byte) :
    s.served c .watch [bp, be] = watchAct c [bp, be] (s.taken c) := State.served_act (fun _ => hs) rfl

theorem State.served_unwatch (hs : s.InSession c) (b : Byte) :
    s.served c .unwatch [b] = unwatchAct c [b] (s.taken c) := State.served_act (fun _ => hs) rfl

theorem watchAct_new (h : s.watchAt c p = none) (room : s.watches.length < Config.watchPool) :
    watchAct c [byteOf p.val, edgeSelByte e] s =
      { state := s.addWatch { client := c, pin := p, edges := e }, status := .ok
        payload := [byteOf p.val, 0, edgeSelByte e, levelByte (s.pad p).filtered] } := by
  simp only [watchAct, decodeWatch_bytes, h, if_neg (not_le.mpr room)]
  rfl

theorem watchAct_full (h : s.watchAt c p = none) (full : Config.watchPool ≤ s.watches.length) :
    watchAct c [byteOf p.val, edgeSelByte e] s = refuse s .poolFull := by
  simp only [watchAct, decodeWatch_bytes, h, if_pos full]

theorem watchAct_replaced (h : s.watchAt c p = some w) : watchAct c [byteOf p.val, edgeSelByte e] s =
    { state := s.setWatch { client := c, pin := p, edges := e }, status := .ok
      payload := [byteOf p.val, 1, edgeSelByte e, edgeSelByte w.edges, levelByte (s.pad p).filtered] } := by
  simp only [watchAct, decodeWatch_bytes, h]
  rfl

theorem unwatchAct_byteOf (s : State) (c : Client) (p : Pin) : unwatchAct c [byteOf p.val] s =
    (s.watchAt c p).elim (refuse s .noWatch) fun w =>
      { state := s.dropWatch c p, status := .ok, payload := [byteOf p.val, edgeSelByte w.edges] } := by
  simp only [unwatchAct, byteAt_zero, pinOf?_byteOf]
  cases s.watchAt c p <;> rfl

theorem edgeSelOf?_range {b : Byte} (h : edgeSelOf? b = some e) : b ≠ 0 ∧ b.toNat ≤ 3 := by
  unfold edgeSelOf? at h
  have nonzero (hb : b.toNat ≠ 0) : b ≠ 0 := fun zero => hb (by rw [zero]; rfl)
  split at h
  · next hb => exact ⟨nonzero (by omega), by omega⟩
  · next hb => exact ⟨nonzero (by omega), by omega⟩
  · next hb => exact ⟨nonzero (by omega), by omega⟩
  · cases h

/-- A WATCH payload with a field outside its range decodes as nothing. -/
theorem decodeWatch_eq_none {bp be : Byte} (h : 15 < bp.toNat ∨ be = 0 ∨ 3 < be.toNat) :
    decodeWatch [bp, be] = none := by
  unfold decodeWatch
  split
  · next hp he =>
    have pin : bp.toNat ≤ 15 := pinOf?_le hp
    obtain ⟨nonzero, range⟩ : be ≠ 0 ∧ be.toNat ≤ 3 := edgeSelOf?_range he
    obtain h | h | h := h
    · omega
    · exact absurd h nonzero
    · omega
  · rfl

/-- UNWATCH of a byte that names no pin on which the client has a watch, at its block. -/
theorem unwatchAct_refused {b : Byte} (h : ∀ w ∈ s.watches, w.client = c → byteOf w.pin.val ≠ b) :
    unwatchAct c [b] s = refuse s (if b.toNat < 16 then .noWatch else .badArg) := by
  cases hb : pinOf? b with
  | none => rw [if_neg (not_lt.mpr (pinOf?_eq_none.mp hb)), unwatchAct, byteAt_zero, hb]
  | some p =>
    have pin : b.toNat < 16 := Nat.lt_succ_of_le (pinOf?_le hb)
    obtain rfl := pinOf?_eq_some.mp hb
    have unwatched : s.watchAt c p = none := State.watchAt_eq_none.mpr fun w hw e => by
      obtain ⟨client, atPin⟩ := Prod.mk.inj e
      exact h w hw client (congrArg (fun q : Pin => byteOf q.val) atPin)
    rw [if_pos pin, unwatchAct_byteOf, unwatched]
    rfl

end

/-! ## The answers -/

/-- What a request leaves behind whose block gives the pool other watches of the caller's. -/
theorem rewatched_answered {s t : State} {c : Client} {l : List Watch} {n : Nat} {tag : Byte} {st : Status}
    {pl : List Byte} (h : s.CountsOk) (own : (l.countP fun v => v.client = c) = n)
    (others : ∀ d : Client, d ≠ c → (l.countP fun v => v.client = d) = s.watches.countP fun v => v.client = d)
    (ht : t = ((s.taken c).rewatched l).answer c tag st pl) :
    t.watches = l ∧ t.session c = (s.session c).renewed.watching n ∧
      (∀ d : Client, d ≠ c → t.session d = s.session d) ∧ Answered s t c tag st pl ∧
      SamePool s t ∧ SamePins s t ∧ t.channels = s.channels ∧ t.queues = s.queues ∧ SameDevice s t := by
  have counts : (s.taken c).CountsOk := h.taken c
  have device : SameDevice (s.taken c) ((s.taken c).rewatched l) := ⟨rfl, rfl, rfl, rfl, rfl⟩
  subst ht
  refine ⟨rfl, ?_, fun d hd => ?_, answered_of_ports (fun d => ?_) tag st pl, ⟨rfl, rfl, rfl⟩, ⟨rfl, rfl⟩, ?_, rfl,
    sameDevice_answer device tag st pl⟩
  · rw [State.answer_session, State.session_rewatched counts, own, State.session_taken, if_pos rfl]
  · rw [State.answer_session, State.session_rewatched_same counts (others d hd), State.session_taken, if_neg (Ne.symm hd)]
  · rw [State.rewatched, State.recount_port]
    rfl
  · rw [State.answer_channels, State.channels_rewatched counts, State.taken_channels]

/-- Settles O43: what WATCH and UNWATCH do turns on the watch that the caller has on the pin, and nothing is counted
anew but the caller's watches. -/
theorem watchAndUnwatch : Obligations.WatchAndUnwatch := by
  refine ⟨fun s c tag p e h ha hs new room => ⟨_, exec_of_asks ha, ?_⟩,
    fun s c tag p e w h ha hs hw ⟨client, pin⟩ => ⟨_, exec_of_asks ha, ?_⟩,
    fun s c tag p e ha hs new full => exec_refused ha ?_,
    fun s c tag p w h ha hs hw ⟨client, pin⟩ => ⟨_, exec_of_asks ha, ?_⟩,
    fun s c tag b ha hs unwatched => exec_refused ha ?_, fun s c tag bp be ha hs bad => exec_refused ha ?_⟩
  · rw [State.served_watch hs, watchAct_new (s := s.taken c) (State.watchAt_eq_none.mpr new) room,
      State.addWatch_eq]
    refine rewatched_answered h.counts ?_ (fun d hd => ?_) rfl
    · rw [countP_watches_append, if_pos rfl, State.watchesHeld_eq h.counts]
    · rw [countP_watches_append, if_neg (Ne.symm hd), Nat.add_zero]
  · subst client pin
    rw [State.served_watch hs, watchAct_replaced ((s.taken_watchAt ..).trans (State.watchAt_of_mem h.watches hw))]
    exact ⟨s.watches_setWatch w.client w.pin e, answered_of_ports (fun _ => rfl) tag .ok _,
      onlyRenewed_of_sessions (State.setWatch_sessions ..) tag .ok _, ⟨rfl, rfl, rfl⟩, ⟨rfl, rfl⟩, rfl, rfl,
      sameDevice_answer ⟨by simp, by simp, by simp, by simp, by simp⟩ tag .ok _⟩
  · rw [State.served_watch hs, watchAct_full (s := s.taken c) (State.watchAt_eq_none.mpr new) full]
  · subst client pin
    rw [State.served_unwatch hs, unwatchAct_byteOf, State.taken_watchAt, State.watchAt_of_mem h.watches hw,
      State.dropWatch_eq]
    refine rewatched_answered h.counts ?_ (fun d hd => ?_) rfl
    · rw [State.countP_watches_dropped h.watches hw, if_pos rfl, State.watchesHeld_eq h.counts]
    · rw [State.countP_watches_dropped h.watches hw, if_neg (Ne.symm hd), Nat.sub_zero]
  · rw [State.served_unwatch hs, unwatchAct_refused (s := s.taken c) unwatched]
  · rw [State.served_watch hs, watchAct, decodeWatch_eq_none bad]

end Sys2Proof.Machine
end

section
/-! PROOFS. Sessions and their leases (R120, R123, R125, R126): the session entries through every step, the requests that
neither open nor end a session, OPEN, and the expiry of a lease. -/

namespace Sys2Proof.Machine

open Sys2Proof

/-! ## The step lemma of the sessions (R120) -/

theorem sessions_keeps : Keeps State.SessionsOk where
  event _ _ h e := e.sessionsOk h
  pending _ _ h := h
  base s _ caught c := by
    rw [State.session_congr (t := s.catchUp.baseTick) (s := s.catchUp) (by simp [State.baseTick])]
    exact caught c
  request _ _ c _ _ _ h _ _ e d := by
    rw [State.answer_session]
    exact e.sessionsOk (h.taken c) d

/-- Settles O9: a session is opened, renewed, sent to GRACE, counted down or ended, or keeps all but its counts. -/
theorem everyStepKeepsTheSessions : Obligations.EveryStepKeepsTheSessions := fun _ _ h ht => sessions_keeps.step h ht

/-! ## Operations that leave every session as it was, but for its counts -/

section
variable (s : State) (c : Client) (k : Chan) (p : Pin)

theorem SameCore.writePolicy (e : Policy) : SameCore s (s.writePolicy p e) := .of_same (by simp)

theorem SameCore.claimLive (a : ClaimArgs) : SameCore s (s.claimLive c a) :=
  .counted (t := State.noteTops s (some c) (s.entered c a)) (State.noteTops_sessions ..) (State.resolvePads_sessions _)

theorem SameCore.claimPending (a : ClaimArgs) : SameCore s (s.claimPending c a k) :=
  .counted (t := (s.addClaim (newClaim c a (some k))).enterWait c a.pin k) rfl rfl

theorem SameCore.modifyNow (q : Claim) (a : ModifyArgs) : SameCore s (s.modifyNow c q a) := by
  refine State.sessions_claimsChanged s (s.modifiedPool c q a) (some c) ?_
  unfold State.modifiedPool
  dsimp only
  split <;> rfl

theorem SameCore.modifyLater (q : Claim) (a : ModifyArgs) : SameCore s (s.modifyLater c q a k) :=
  .settled (t := (s.setClaim (q.deferred a k)).enterWait c q.pin k) rfl (by rw [State.modifyLater_eq])

theorem SameCore.releaseClaim : SameCore s (s.releaseClaim c p) :=
  State.sessions_claimsChanged s (s.without c p) (some c) rfl

theorem SameCore.setChannel (ch : Channel) : SameCore s (s.setChannel k ch) := .of_same rfl

theorem SameCore.bindTo : SameCore s (s.bindTo k c) := .counted (t := s.setChannel k _) rfl rfl

theorem SameCore.configure (r : Settings) : SameCore s (s.configure k r) := .settled (t := s.setChannel k _) rfl rfl

theorem SameCore.startChans (ks : List Chan) (x : Option Client) : SameCore s (s.startChans ks x) := .of_same (by simp)

theorem SameCore.stopRunning : SameCore s (s.stopRunning k c) := by
  refine .settled (t := ((s.stopped k).activate k).noteSource k (some c)) ?_ (State.resolvePads_sessions _)
  rw [State.noteSource_sessions, State.activate_sessions]
  unfold State.stopped
  dsimp only
  split <;> simp

theorem SameCore.adopt : SameCore s (s.adopt k c) := .counted (t := s.setChannel k _) rfl (State.noteSource_sessions ..)

theorem SameCore.rewatched (l : List Watch) : SameCore s (s.rewatched l) := .counted (t := { s with watches := l }) rfl rfl

end

/-! ## Requests that neither open nor end a session -/

section
variable (c : Client) (bs : List Byte) (s : State)

theorem openAct_sameCore (hs : s.InSession c) : SameCore s (openAct c bs s).state := by
  unfold openAct
  dsimp only
  split_ifs
  · exact .refl s
  · exact .refl s

theorem setPolicyAct_sameCore : SameCore s (setPolicyAct c bs s).state := by
  unfold setPolicyAct
  split
  · exact .refl s
  · split_ifs
    · exact .refl s
    · exact .refl s
    · exact SameCore.writePolicy _ _ _

theorem claimAct_sameCore : SameCore s (claimAct c bs s).state := by
  unfold claimAct
  split
  · exact .refl s
  · split_ifs
    iterate 5 exact .refl s
    split
    · exact SameCore.claimLive _ _ _
    · exact SameCore.claimPending _ _ _ _

theorem modifyAct_sameCore : SameCore s (modifyAct c bs s).state := by
  unfold modifyAct
  split
  · exact .refl s
  · split
    · exact .refl s
    · split_ifs
      iterate 3 exact .refl s
      split
      · exact SameCore.modifyNow _ _ _ _
      · dsimp only
        exact SameCore.modifyLater _ _ _ _ _

theorem releaseAct_sameCore : SameCore s (releaseAct c bs s).state := by
  unfold releaseAct
  split
  · exact .refl s
  · split
    · exact .refl s
    · exact SameCore.releaseClaim _ _ _

theorem bindAct_sameCore : SameCore s (bindAct c bs s).state := by
  unfold bindAct
  split
  · split
    · exact .refl s
    · exact SameCore.bindTo _ _ _
  · split
    · exact .refl s
    · split_ifs
      · exact .refl s
      · exact SameCore.bindTo _ _ _

theorem configureAct_sameCore : SameCore s (configureAct c bs s).state := by
  unfold configureAct
  split
  · exact .refl s
  · split_ifs
    iterate 2 exact .refl s
    split
    · exact .refl s
    · dsimp only
      exact SameCore.configure _ _ _

theorem stageAct_sameCore : SameCore s (stageAct c bs s).state := by
  unfold stageAct
  split
  · exact .refl s
  · split_ifs
    · exact .refl s
    · split
      · exact .refl s
      · exact SameCore.setChannel _ _ _

theorem commitAct_sameCore : SameCore s (commitAct c bs s).state := by
  unfold commitAct
  split
  · exact .refl s
  · split_ifs
    · exact .refl s
    · split
      · exact .refl s
      · exact SameCore.setChannel _ _ _

theorem cancelAct_sameCore : SameCore s (cancelAct c bs s).state := by
  unfold cancelAct
  split
  · exact .refl s
  · split_ifs
    · exact .refl s
    · exact .refl s
    · exact SameCore.setChannel _ _ _

theorem startAct_sameCore : SameCore s (startAct c bs s).state := by
  unfold startAct
  split
  · exact .refl s
  · split_ifs
    · exact .refl s
    · exact .refl s
    · exact SameCore.startChans _ _ _

theorem armAct_sameCore : SameCore s (armAct c bs s).state := by
  unfold armAct
  split
  · exact .refl s
  · split_ifs
    · exact .refl s
    · exact .refl s
    · exact SameCore.setChannel _ _ _

theorem stopAct_sameCore : SameCore s (stopAct c bs s).state := by
  unfold stopAct
  split
  · exact .refl s
  · split_ifs
    · exact .refl s
    · split
      · exact SameCore.stopRunning _ _ _
      · exact SameCore.setChannel _ _ _
      all_goals exact .refl s

theorem startGroupAct_sameCore : SameCore s (startGroupAct c bs s).state := by
  unfold startGroupAct
  split
  · exact .refl s
  · exact SameCore.startChans _ _ _

theorem releaseChannelAct_sameCore : SameCore s (releaseChannelAct c bs s).state := by
  unfold releaseChannelAct
  split
  · exact .refl s
  · split_ifs
    · exact .refl s
    · dsimp only
      exact SameCore.letGo _ _ _

theorem adoptAct_sameCore : SameCore s (adoptAct c bs s).state := by
  unfold adoptAct
  split
  · exact .refl s
  · split_ifs
    · exact .refl s
    · exact .refl s
    · exact SameCore.adopt _ _ _

theorem watchAct_sameCore : SameCore s (watchAct c bs s).state := by
  unfold watchAct
  split
  · exact .refl s
  · split
    · exact SameCore.of_same rfl
    · split_ifs
      · exact .refl s
      · exact SameCore.rewatched _ _

theorem unwatchAct_sameCore : SameCore s (unwatchAct c bs s).state := by
  unfold unwatchAct
  split
  · exact .refl s
  · split
    · exact .refl s
    · exact SameCore.rewatched _ _

theorem fetchAct_sameCore : SameCore s (fetchAct c bs s).state := by
  unfold fetchAct
  dsimp only
  split_ifs
  · exact SameCore.of_same rfl
  · exact .refl s

end

/-- The owning block of a request other than CLOSE and RESET ALL, for a client in session. -/
theorem actOf_sameCore {cmd : Command} (close : cmd ≠ .closeSession) (reset : cmd ≠ .resetAll) {c : Client}
    (bs : List Byte) {s : State} (hs : s.InSession c) : SameCore s (actOf c cmd bs s).state := by
  cases cmd with
  | openSession => exact openAct_sameCore c bs s hs
  | closeSession => exact absurd rfl close
  | ping => exact .refl s
  | resetAll => exact absurd rfl reset
  | getPolicy => dsimp only [actOf, getPolicyAct]; split <;> exact .refl s
  | setPolicy => exact setPolicyAct_sameCore c bs s
  | claim => exact claimAct_sameCore c bs s
  | modify => exact modifyAct_sameCore c bs s
  | release => exact releaseAct_sameCore c bs s
  | queryPin => dsimp only [actOf, queryPinAct]; split <;> exact .refl s
  | bind => exact bindAct_sameCore c bs s
  | configure => exact configureAct_sameCore c bs s
  | stage => exact stageAct_sameCore c bs s
  | commit => exact commitAct_sameCore c bs s
  | cancel => exact cancelAct_sameCore c bs s
  | start => exact startAct_sameCore c bs s
  | arm => exact armAct_sameCore c bs s
  | stop => exact stopAct_sameCore c bs s
  | startGroup => exact startGroupAct_sameCore c bs s
  | releaseChannel => exact releaseChannelAct_sameCore c bs s
  | adopt => exact adoptAct_sameCore c bs s
  | readChannel => dsimp only [actOf, readChannelAct]; split <;> exact .refl s
  | watch => exact watchAct_sameCore c bs s
  | unwatch => exact unwatchAct_sameCore c bs s
  | readPins => exact .refl s
  | fetch => exact fetchAct_sameCore c bs s

theorem served_sameCore {cmd : Command} (close : cmd ≠ .closeSession) (reset : cmd ≠ .resetAll) {s : State} {c : Client}
    (pl : List Byte) (hs : s.InSession c) : SameCore (s.taken c) (s.served c cmd pl).state := by
  unfold State.served State.serve
  split_ifs
  · exact .refl _
  · exact .refl _
  · exact actOf_sameCore close reset pl (State.inSession_taken.mpr hs)

/-! ## The renewal of the lease (R126, R168) -/

/-- A session in force whose lease has been renewed, whatever is counted of it. -/
theorem Session.renewed_of_core {e f : Session} (hs : e.state ≠ .closed) (h : f.core = e.renewed.core) :
    f.state = .opened ∧ f.lease = e.lease ∧ f.leaseRemaining = some (10 * (e.lease.getD 0).toNat) ∧
      f.graceRemaining = none := by
  rw [Session.renewed_open hs] at h
  have left : f.leaseRemaining = some ((e.lease.getD 0).toNat * Config.leaseUnit) :=
    (congrArg Session.leaseRemaining h :)
  refine ⟨(congrArg Session.state h :), (congrArg Session.lease h :), ?_, (congrArg Session.graceRemaining h :)⟩
  rw [left, Nat.mul_comm]
  rfl

/-- The session of the caller after CLOSE and RESET ALL: renewed where they were refused, else CLOSED. -/
theorem Effect.core_or_closed {s t : State} {c : Client} (e : Effect c s t) (hs : s.InSession c) :
    SameCore s t ∨ (t.session c).state = .closed := by
  obtain same | ⟨_, _, closed, _⟩ | rfl | rfl := e.sessions
  · exact .inl same
  · exact absurd closed hs
  · exact .inr (State.session_teardown_self s c .closed).1
  · rw [State.firstSamples_session, State.deviceReset_session]
    exact .inr rfl

/-- Settles O18: no block touches a session in force but for its counts, save those of CLOSE and RESET ALL. -/
theorem everyTakenRequestRenewsTheLease : Obligations.EveryTakenRequestRenewsTheLease := by
  intro s c cmd tag pl ha hs
  refine ⟨_, exec_of_asks ha, ?_⟩
  rw [State.answer_session]
  have renewed (same : SameCore (s.taken c) (s.served c cmd pl).state) :
      ((s.served c cmd pl).state.session c).core = (s.session c).renewed.core := by
    rw [same c, State.session_taken, if_pos rfl]
  by_cases ends : cmd = .closeSession ∨ cmd = .resetAll
  · obtain same | closed := (served_effect s c cmd pl).core_or_closed (State.inSession_taken.mpr hs)
    · exact .inl (Session.renewed_of_core hs (renewed same))
    · exact .inr ⟨closed, ends⟩
  · obtain ⟨close, reset⟩ := not_or.mp ends
    exact .inl (Session.renewed_of_core hs (renewed (served_sameCore close reset pl hs)))

/-! ## OPEN (R123) -/

section
variable {s : State} {c : Client} {l : Byte}

theorem State.served_open (s : State) (c : Client) (l : Byte) : s.served c .openSession [l] = openAct c [l] (s.taken c) :=
  State.served_act (fun h => absurd h (by decide)) rfl

theorem openReply_eq (s : State) (c : Client) (l : Byte) : openReply s c l =
    [byteOf c.val, 0x10, 0x40, 1, resetCauseByte s.resetCause, endCauseByte (s.session c).priorEnd, l] := rfl

theorem openAct_byte (s : State) (c : Client) (l : Byte) : openAct c [l] s =
    if l = 0 then refuse s .badArg
    else if s.InSession c then refuse s .state
    else { state := s.setSession c ((s.session c).openWith l), status := .ok, payload := openReply s c l } := rfl

theorem openAct_refused (h : l = 0 ∨ s.InSession c) :
    openAct c [l] s = refuse s (if l = 0 then .badArg else .state) := by
  rw [openAct_byte]
  by_cases zero : l = 0
  · rw [if_pos zero, if_pos zero]
  · rw [if_neg zero, if_neg zero, if_pos (h.resolve_left zero)]

end

/-- Settles O21: a CLOSED session is not renewed, so that OPEN finds the entry as it was. -/
theorem openOpensASession : Obligations.OpenOpensASession := by
  refine ⟨fun s c tag l ha hl hs => ?_, fun s c tag l ha h => exec_refused ha ?_⟩
  · have own : (s.taken c).session c = s.session c := by
      rw [State.session_taken, if_pos rfl, Session.renewed_closed hs]
    have closed : ((s.taken c).session c).state = .closed := by rw [own, hs]
    refine ⟨_, exec_of_asks ha, ?_⟩
    rw [State.served_open, openAct_byte, if_neg hl, if_neg (not_not_intro closed), openReply_eq, own]
    dsimp only
    refine ⟨?_, fun d hd => ?_, ?_, ⟨rfl, rfl, rfl⟩, ⟨rfl, rfl⟩, rfl, rfl, rfl,
      sameDevice_answer ⟨by simp, by simp, by simp, by simp, by simp⟩ tag .ok _⟩
    · rw [State.answer_session, State.session_setSession, if_pos rfl, Nat.mul_comm]
      rfl
    · rw [State.answer_session, State.session_setSession, if_neg (Ne.symm hd), State.session_taken, if_neg (Ne.symm hd)]
    · exact answered_of_ports (s := s) (u := (s.taken c).setSession c _) (fun _ => rfl) tag .ok _
  · rw [State.served_open, openAct_refused (h.imp_right State.inSession_taken.mpr)]

/-! ## The expiry of a lease (R125) -/

theorem State.exec_leaseExpiry {s : State} (hs : s.Calm) {c : Client} (due : s.leaseDue c = true) :
    exec (.leaseExpiry c) s = .next (s.expireLease c) := by
  show Host.Outcome.next _ = _
  rw [hs.settle, State.ofTick, if_pos due]

theorem State.session_expireLease (s : State) (c d : Client) :
    (s.expireLease c).session d = if c = d then (s.session c).toGrace else s.session d := by
  rw [State.expireLease, State.place_session, State.session_setSession]

theorem State.queue_expireLease (s : State) (c d : Client) :
    (s.expireLease c).queue d = if c = d then (s.queue c).place .leaseWarning else s.queue d := by
  rw [State.expireLease, State.queue_place, State.queue_setSession, State.queue_setSession]

/-- Settles O56: the expiry writes the session and places one notice. -/
theorem leaseExpiryWarns : Obligations.LeaseExpiryWarns := by
  intro s c calm opened due
  have expires : s.leaseDue c = true := by simp [State.leaseDue, opened, due]
  refine ⟨_, State.exec_leaseExpiry calm expires, ?_, fun d hd => ⟨?_, ?_⟩, ?_, ⟨rfl, rfl, rfl⟩, ⟨rfl, rfl⟩, rfl, rfl,
    (Placed.place ..).samePorts, ⟨rfl, rfl, rfl, rfl, rfl⟩⟩
  · rw [State.session_expireLease, if_pos rfl, Nat.mul_comm]
    rfl
  · rw [State.session_expireLease, if_neg (Ne.symm hd)]
  · rw [State.queue_expireLease, if_neg (Ne.symm hd)]
  · rw [State.queue_expireLease, if_pos rfl]

end Sys2Proof.Machine
end

section
/-! PROOFS. Device resets (R38, R45, R134 to R136, R172): what a reset leaves of the blocks, the ports and the pads, the
events that bring one about and end it, and RESET ALL. -/

namespace Sys2Proof.Machine

open Sys2Proof

section
variable (s : State) (cause : ResetCause)

/-! ## What a device reset leaves -/

theorem State.deviceReset_blocksReset : (s.deviceReset cause).BlocksReset cause :=
  ⟨rfl, s.deviceReset_session cause, rfl, fun p => ⟨s.deviceReset_claimList cause p, s.deviceReset_policy cause p⟩,
    fun k => ⟨s.deviceReset_waitList cause k, s.deviceReset_channel cause k⟩, rfl, s.deviceReset_queue cause, rfl⟩

/-- Pads, ports and the resets themselves are no part of the blocks. -/
theorem State.BlocksReset.congr {s t : State} {cause : ResetCause} (h : s.BlocksReset cause)
    (same : t = { s with ports := t.ports, pads := t.pads, por := t.por, nrstLow := t.nrstLow }) :
    t.BlocksReset cause := by
  rw [same]; exact h

theorem portReset_of_cut {s t : State} {c : Client} (h : t.port c = (s.port c).cut) : PortReset s t c := by
  rw [PortReset, h]
  exact ⟨rfl, rfl, rfl, rfl, rfl, rfl⟩

theorem padReset_of_cleared {s t : State} {p : Pin} (h : t.pad p = (s.pad p).cleared) : PadReset s t p := by
  rw [PadReset, h]
  exact ⟨rfl, rfl, rfl, rfl⟩

/-- The first sample leaves a pad's drive, its pull and its raw level. -/
theorem padReset_firstSamples {s t : State} {p : Pin} (h : PadReset s t p) : PadReset s t.firstSamples p := by
  obtain ⟨driven, pull, -, raw⟩ := h
  rw [PadReset, State.firstSamples_pad]
  exact ⟨driven, pull, rfl, raw⟩

/-- A device reset, with the resets as the event leaves them. -/
theorem State.deviceReset_resets (por nrstLow : Bool) {t : State}
    (ht : t = { s.deviceReset cause with por := por, nrstLow := nrstLow }) :
    t.BlocksReset cause ∧ t.por = por ∧ t.nrstLow = nrstLow ∧ (∀ p : Pin, PadReset s t p) ∧
      (∀ c : Client, PortReset s t c) ∧ t.pending = s.pending := by
  subst ht
  exact ⟨(s.deviceReset_blocksReset cause).congr rfl, rfl, rfl, fun p => padReset_of_cleared (s.deviceReset_pad cause p),
    fun c => portReset_of_cut (s.deviceReset_port cause c), rfl⟩

end

/-! ## The events of a reset and its end (R134, R45) -/

section
variable {s : State}

theorem State.exec_nrst_reset (por : s.por = false) (high : s.nrstLow = false) :
    exec .nrst s = .next { s.deviceReset .resetPin with nrstLow := true } := by
  simp [exec, execNrst, por, high]

theorem State.exec_nrst_powering (por : s.por = true) : exec .nrst s = .next { s with nrstLow := true } := by
  obtain ⟨⟩ := s
  cases por
  simp [exec, execNrst]

theorem State.exec_powerOnResetEnd_high (por : s.por = true) (high : s.nrstLow = false) :
    exec .powerOnResetEnd s = .next ({ s with por := false, nrstLow := false } : State).firstSamples := by
  obtain ⟨⟩ := s
  cases por; cases high
  rfl

theorem State.exec_powerOnResetEnd_low (por : s.por = true) (low : s.nrstLow = true) :
    exec .powerOnResetEnd s = .next { s with por := false } := by
  simp [exec, execPowerOnResetEnd, por, low]

theorem State.exec_resetEnd_alone (por : s.por = false) (low : s.nrstLow = true) :
    exec .resetEnd s = .next ({ s with por := false, nrstLow := false } : State).firstSamples := by
  obtain ⟨⟩ := s
  cases por; cases low
  rfl

theorem State.exec_resetEnd_powering (por : s.por = true) (low : s.nrstLow = true) :
    exec .resetEnd s = .next { s with nrstLow := false } := by
  simp [exec, execResetEnd, por, low]

/-- The end of a reset: the first samples, and nothing else (R45). -/
theorem State.firstSamples_ends {t : State}
    (ht : t = ({ s with por := false, nrstLow := false } : State).firstSamples) :
    (∀ p : Pin, t.pad p = { s.pad p with filtered := (s.pad p).raw, run := 0, tickDue := false }) ∧
      SamePool s t ∧ t.policies = s.policies ∧ t.channels = s.channels ∧ t.watches = s.watches ∧
      t.queues = s.queues ∧ t.sessions = s.sessions ∧ t.ports = s.ports ∧
      t.pending = s.pending ∧ t.resetCause = s.resetCause ∧ t.edgeOwed = s.edgeOwed ∧
      t.por = false ∧ t.nrstLow = false := by
  subst ht
  exact ⟨fun p => State.firstSamples_pad _ p, ⟨rfl, rfl, rfl⟩, rfl, rfl, rfl, rfl, rfl, rfl, rfl, rfl, rfl, rfl, rfl⟩

end

/-- Settles O58: the two inputs that hold the part in reset decide what the events do, and the first samples come once
neither holds it. -/
theorem deviceResetsAndTheirEnds : Obligations.DeviceResetsAndTheirEnds :=
  ⟨fun s => ⟨_, rfl, s.deviceReset_resets .powerOn true s.nrstLow rfl⟩,
    fun s por high => ⟨_, State.exec_nrst_reset por high,
      s.deviceReset_resets .resetPin false true (by rw [← por]; rfl)⟩,
    fun _ por => ⟨_, State.exec_nrst_powering por, rfl⟩,
    fun _ por high => ⟨_, State.exec_powerOnResetEnd_high por high, State.firstSamples_ends rfl⟩,
    fun _ por low => ⟨_, State.exec_resetEnd_alone por low, State.firstSamples_ends rfl⟩,
    fun _ por low => ⟨_, State.exec_resetEnd_powering por low, rfl, State.exec_powerOnResetEnd_low por low⟩⟩

/-! ## RESET ALL (R136) -/

section
variable {s : State} {c : Client}

theorem State.served_resetAll (hs : s.InSession c) : s.served c .resetAll [] = resetAllAct c [] (s.taken c) :=
  State.served_act (fun _ => hs) rfl

theorem resetAllAct_quiescent (h : s.quiescentFor c = true) : resetAllAct c [] s =
    { state := (s.deviceReset .resetCommand).firstSamples, status := .ok, payload := [] } := if_pos h

theorem resetAllAct_refused (h : ¬s.quiescentFor c = true) : resetAllAct c [] s = refuse s .notQuiescent := if_neg h

/-- The port of a request that was passed by is as it was, but for that (R166). -/
theorem State.port_taken_eq (s : State) (c d : Client) :
    (s.taken c).port d = { s.port d with passedBy := ((s.taken c).port d).passedBy } := by
  rw [State.port_taken]
  split <;> rfl

/-- A port that the taking saw, after the reset (R172). -/
theorem portReset_of_taken {t : State} {d : Client} (h : PortReset (s.taken c) t d) : PortReset s t d := by
  rwa [PortReset, State.port_taken_eq] at h

end

/-- Settles O23: the reply enters a port that the reset has just set to its reset values. -/
theorem resetAllResetsTheDevice : Obligations.ResetAllResetsTheDevice := by
  refine ⟨fun s c tag ha hs quiet => ⟨_, exec_of_asks ha, ?_⟩, fun s c tag d ha hs hd inSession => exec_refused ha ?_⟩
  · have quiescent : (s.taken c).quiescentFor c = true := by
      rw [State.quiescentFor_taken]
      exact State.quiescentFor_iff.mpr quiet
    rw [State.served_resetAll hs, resetAllAct_quiescent quiescent]
    dsimp only
    obtain ⟨u, hu⟩ : ∃ u, u = ((s.taken c).deviceReset .resetCommand).firstSamples := ⟨_, rfl⟩
    have blocks : u.BlocksReset .resetCommand := (State.deviceReset_blocksReset (s.taken c) _).congr (by rw [hu]; rfl)
    have port (d : Client) : u.port d = ((s.taken c).port d).cut := by
      rw [hu, State.firstSamples_port, State.deviceReset_port]
    have reset (d : Client) : PortReset s u d := portReset_of_taken (portReset_of_cut (port d))
    have pad (p : Pin) : PadReset s u p := by
      rw [hu]
      exact padReset_firstSamples (padReset_of_cleared (State.deviceReset_pad (s.taken c) _ p))
    rw [← hu]
    refine ⟨blocks.congr rfl, fun p => ⟨pad p, ?_⟩, ?_, fun d hd => ?_, ?_, ?_, ?_⟩
    · rw [State.answer_pad, hu, State.firstSamples_pad]
    · obtain ⟨-, sessions, -, -, -, -, queues, -⟩ := blocks
      obtain ⟨-, -, -, overrun, -, transaction⟩ := reset c
      rw [State.port_answer, if_pos rfl, sessions, queues]
      exact ⟨rfl, rfl, overrun, rfl, transaction, rfl⟩
    · rw [PortReset, State.port_answer, if_neg (Ne.symm hd)]
      exact reset d
    all_goals rw [hu]; rfl
  · have busy : ¬(s.taken c).quiescentFor c = true := by
      rw [State.quiescentFor_taken, State.quiescentFor_iff]
      exact fun quiet => inSession (quiet d hd)
    rw [State.served_resetAll hs, resetAllAct_refused busy]

end Sys2Proof.Machine
end

section
/-! PROOFS. The requests that report and change nothing (R29, R34, R69, R116, R129): each reply in the bytes of its
layout, and the sixteen filtered levels as one quantity. -/

namespace Sys2Proof.Machine

open Sys2Proof

/-! ## Presence bytes (R181) -/

theorem presenceByte_one (b : Bool) : presenceByte [b] = if b then 1 else 0 := by cases b <;> rfl

/-- The presence byte of a QUERY PIN reply: two fields of the top claim, two of the caller's own, then one each. -/
theorem presenceByte_query (top own hold wait : Bool) : presenceByte [top, top, own, own, hold, wait] =
    (if top then 3 else 0) + (if own then 12 else 0) + (if hold then 16 else 0) + if wait then 32 else 0 := by
  revert top own hold wait; decide

/-! ## Replies by their layouts -/

section
variable {s : State} {c : Client}

theorem pingReply_eq (s : State) (c : Client) : pingReply s c =
    [if (s.session c).state = .closed then 0 else 1, if (s.session c).lease.isSome then 1 else 0] ++
      (s.session c).lease.toList ++
      [byteOf (s.session c).claimsHeld, byteOf (s.session c).watchesHeld, byteOf (s.session c).channelsOwned,
        byteOf (s.queue c).entries.length, endCauseByte (s.session c).priorEnd] := by
  have inSession : flagByte (decide ((s.session c).state ≠ .closed)) = if (s.session c).state = .closed then 0 else 1 := by
    rw [flagByte_decide, ite_not]
  simp only [pingReply, countBytes, presenceByte_one, inSession, List.append_assoc, List.cons_append, List.nil_append]

/-- The renewal changes nothing that PING reports (R126, R129). -/
theorem pingReply_taken (s : State) (c : Client) : pingReply (s.taken c) c = pingReply s c := by
  simp only [pingReply_eq, State.session_taken, if_pos, Session.renewed_closed_iff, Session.renewed_lease,
    Session.renewed_claimsHeld, Session.renewed_watchesHeld, Session.renewed_channelsOwned, Session.renewed_priorEnd,
    State.taken_queue]

theorem readChannelReply_eq (s : State) (k : Chan) : readChannelReply s k =
    [chanStateByte (s.channel k).state, clientByte (s.channel k).owner] ++
      settingsBytes (s.channel k).settings ++ wordBytes (s.channel k).count ++
      [(s.channel k).phase, flagByte (s.channel k).output] ++
      ((s.channel k).trigger.elim [0] fun x => [1, byteOf x.1.val, edgeByte x.2]) ++
      [flagByte (s.channel k).staging.isSome, flagByte (s.channel k).commit.isSome, byteOf (s.channel k).refs] := by
  unfold readChannelReply
  dsimp only
  rw [presenceByte_one]
  cases (s.channel k).trigger with
  | none => simp
  | some x => simp

theorem queryReply_eq (s : State) (c : Client) (p : Pin) : queryReply s c p =
    [drivenByte (s.pad p).driven, pullByte (s.pad p).pull, clientByte (s.top p),
      (if (s.topClaim p).isSome then 3 else 0) + (if (s.claimAt c p).isSome then 12 else 0) +
      (if ((s.claimAt c p).bind (·.holdLeft)).isSome then 16 else 0) +
      (if ((s.claimAt c p).bind (·.wait)).isSome then 32 else 0)] ++
    ((s.topClaim p).elim [] fun q => byteOf q.rank.val :: sourceBytes q.source) ++
    [byteOf (s.claims.countP fun q => q.pin = p && q.state = .live),
      byteOf (s.claims.countP fun q => q.pin = p && q.state = .pending)] ++
    ((s.claimAt c p).elim [0, 0] fun q => [claimStateByte q.state, byteOf q.rank.val] ++ sourceBytes q.source ++
      (q.holdLeft.map wordBytes).getD [] ++ (q.wait.map fun k => [byteOf k.val]).getD [] ++
      [flagByte q.change.isSome]) ++
    [levelByte (s.pad p).filtered] := by
  unfold queryReply
  dsimp only
  rw [presenceByte_query]
  have top : ((s.topClaim p).map fun q => byteOf q.rank.val :: sourceBytes q.source).getD [] =
      (s.topClaim p).elim [] fun q => byteOf q.rank.val :: sourceBytes q.source := by cases s.topClaim p <;> rfl
  rw [top]
  cases s.claimAt c p with
  | none => simp [State.claimsIn, flagByte]
  | some q => simp [State.claimsIn]

/-! ## The sixteen levels (R116) -/

theorem getLsbD_pinBit (p q : Pin) : ((1 : Word) <<< q.val).getLsbD p.val = decide (p = q) := by
  revert p q; decide

theorem State.getLsbD_pinLevels (s : State) (p : Pin) :
    s.pinLevels.getLsbD p.val = decide ((s.pad p).filtered = .high) := by
  have fold (l : List Pin) : (l.foldr (fun q acc =>
      if (s.pad q).filtered = .high then acc ||| ((1 : Word) <<< q.val) else acc) 0).getLsbD p.val =
        decide (p ∈ l ∧ (s.pad p).filtered = .high) := by
    induction l with
    | nil => simp
    | cons q l ih =>
      rw [List.foldr_cons]
      split
      · next high =>
        rw [BitVec.getLsbD_or, ih, getLsbD_pinBit, ← Bool.decide_or]
        refine decide_eq_decide.mpr ⟨?_, ?_⟩
        · rintro (⟨later, level⟩ | rfl)
          · exact ⟨List.mem_cons_of_mem _ later, level⟩
          · exact ⟨List.mem_cons_self, high⟩
        · exact fun ⟨member, level⟩ => (List.mem_cons.mp member).elim .inr fun later => .inl ⟨later, level⟩
      · next low =>
        rw [ih]
        refine decide_eq_decide.mpr (and_congr_left fun level => ?_)
        rw [List.mem_cons, or_iff_right]
        rintro rfl
        exact low level
  rw [State.pinLevels, fold]
  simp

/-! ## The blocks (R29, R34, R69, R116, R129) -/

/-- A request whose block reports with the state as it is. -/
theorem exec_reports {cmd : Command} {tag : Byte} {pl reply : List Byte} (ha : s.Asks c (frameOf cmd tag pl))
    (hs : needsSession cmd = true → s.InSession c) (hl : lengthOk cmd pl = true)
    (hr : actOf c cmd pl (s.taken c) = { state := s.taken c, status := .ok, payload := reply }) :
    ∃ t, exec (requestAt c cmd) s = .next t ∧ OnlyAnswered s t c tag .ok reply :=
  exec_onlyAnswered ha ((State.served_act hs hl).trans hr)

theorem getPolicyAct_byteOf (s : State) (p : Pin) : getPolicyAct [byteOf p.val] s =
    { state := s, status := .ok, payload := policyBytes p (s.policy p) } := by
  simp only [getPolicyAct, byteAt_zero, pinOf?_byteOf]

theorem queryPinAct_byteOf (s : State) (c : Client) (p : Pin) : queryPinAct c [byteOf p.val] s =
    { state := s, status := .ok, payload := queryReply s c p } := by
  simp only [queryPinAct, byteAt_zero, pinOf?_byteOf]

theorem readChannelAct_byteOf (s : State) (k : Chan) : readChannelAct [byteOf k.val] s =
    { state := s, status := .ok, payload := readChannelReply s k } := by
  simp only [readChannelAct, byteAt_zero, chanOf?_byteOf]

/-- A byte that names no pin or no channel, at the block of a request that reports of one. -/
theorem actOf_reports_badArg {cmd : Command} {b : Byte} (h : cmd ∈ [Command.getPolicy, .queryPin, .readChannel])
    (hb : (if cmd = .readChannel then 6 else 16) ≤ b.toNat) :
    lengthOk cmd [b] = true ∧ actOf c cmd [b] s = refuse s .badArg := by
  simp only [List.mem_cons, List.not_mem_nil, or_false] at h
  obtain rfl | rfl | rfl := h
  · exact ⟨rfl, by simp only [actOf, getPolicyAct, byteAt_zero, pinOf?_eq_none.mpr hb]⟩
  · exact ⟨rfl, by simp only [actOf, queryPinAct, byteAt_zero, pinOf?_eq_none.mpr hb]⟩
  · exact ⟨rfl, by simp only [actOf, readChannelAct, byteAt_zero, chanOf?_eq_none.mpr hb]⟩

end

/-- Settles O24: the blocks answer with the state that the taking left, and each reply is the bytes of its layout. -/
theorem readingRequestsReport : Obligations.ReadingRequestsReport := by
  refine ⟨fun s c tag ha => exec_reports ha (fun h => absurd h (by decide)) rfl ?_,
    fun s c tag p ha hs => exec_reports ha (fun _ => hs) rfl ?_,
    fun s c tag k ha hs => exec_reports ha (fun _ => hs) rfl ?_,
    fun s c tag p ha hs => exec_reports ha (fun _ => hs) rfl ?_, fun s c tag ha hs => ?_,
    fun s c tag cmd b hm ha hs hb => ?_⟩
  · rw [actOf, pingAct, pingReply_taken, pingReply_eq]
  · rw [actOf, getPolicyAct_byteOf, policyBytes_eq, State.taken_policy]
  · rw [actOf, readChannelAct_byteOf, readChannelReply_eq, State.taken_channel]
    cases (s.channel k).trigger <;> rfl
  · have taken : queryReply (s.taken c) c p = queryReply s c p := rfl
    rw [actOf, queryPinAct_byteOf, taken, queryReply_eq]
    cases s.topClaim p <;> cases s.claimAt c p <;> rfl
  · obtain ⟨t, ht, answered⟩ := exec_reports ha (fun _ => hs) rfl rfl
    exact ⟨t, ht, answered, s.getLsbD_pinLevels⟩
  · obtain ⟨length, refused⟩ := actOf_reports_badArg (s := s.taken c) (c := c) hm hb
    exact exec_refused ha ((State.served_act (fun _ => hs) length).trans refused)

end Sys2Proof.Machine
end

section
/-! PROOFS. The teardown of a session (R21, R98, R109, R131): what it leaves of the channels, the sessions and the queues,
by CLOSE (R130) and by the expiry of the grace period (R127). -/

namespace Sys2Proof.Machine

open Sys2Proof

/-! ## A channel that a client leaves (R98) -/

/-- A channel once a client has gone: let go where the client owned it, else as it was. -/
def Channel.leftBy (ch : Channel) (c : Client) : Channel := if ch.owner = some c then ch.letGo else ch

section
variable {ch : Channel} {c : Client} {m n : Nat}

theorem Channel.settled_of_owned (h : ch.owner = some c) (n : Nat) : ch.settled n = { ch with refs := n } :=
  if_neg fun ⟨orphan, _⟩ => by rw [h] at orphan; cases orphan

theorem Channel.owner_settled (ch : Channel) (n : Nat) : (ch.settled n).owner = ch.owner := by
  unfold Channel.settled
  split
  · next h => exact h.1.symm
  · rfl

/-- The later of two settlings tells, since references only leave. -/
theorem Channel.settled_settled (h : n ≤ m) : (ch.settled m).settled n = ch.settled n := by
  by_cases gone : ch.owner = none ∧ m = 0
  · obtain ⟨orphan, rfl⟩ := gone
    obtain rfl := Nat.le_zero.mp h
    have cleared : ch.settled 0 = Channel.cleared := if_pos ⟨orphan, rfl⟩
    rw [cleared]
    rfl
  · rw [Channel.settled, Channel.settled, if_neg gone]
    rfl

theorem Channel.owner_leftBy (ch : Channel) (c : Client) :
    (ch.leftBy c).owner = if ch.owner = some c then none else ch.owner := by
  unfold Channel.leftBy
  split <;> rfl

theorem Channel.leftBy_of_not_owned (h : ch.owner ≠ some c) : ch.leftBy c = ch := if_neg h

theorem Channel.leftBy_leftBy (ch : Channel) (c : Client) : (ch.leftBy c).leftBy c = ch.leftBy c :=
  Channel.leftBy_of_not_owned (by rw [Channel.owner_leftBy]; split <;> simp_all)

/-- A settling before the client leaves does not tell. -/
theorem Channel.settled_leftBy_settled (h : n ≤ m) : ((ch.settled m).leftBy c).settled n = (ch.leftBy c).settled n := by
  by_cases owned : ch.owner = some c
  · rw [Channel.leftBy, Channel.owner_settled, if_pos owned, Channel.leftBy, if_pos owned,
      Channel.settled_of_owned owned]
    rfl
  · rw [Channel.leftBy_of_not_owned (by rwa [Channel.owner_settled]), Channel.leftBy_of_not_owned owned,
      Channel.settled_settled h]

end

/-! ## One channel after the other (R98, R99, R131) -/

/-- The client leaves one channel. -/
def State.leave (c : Client) (s : State) (k : Chan) : State :=
  if (s.channel k).owner = some c then s.letGo k c else s

/-- What a client's departure from one channel places in another client's queue (R99, R103). -/
def State.tellLeft (s : State) (c d : Client) (q : Queue) (k : Chan) : Queue :=
  if (s.channel k).owner = some c ∧ s.relies d k = true then
    q.place (.sourceChange k (s.channel k).letGo.state false)
  else q

section
variable {s : State} {c d : Client} {k : Chan}

theorem State.Ledger.not_free_of_owned (h : s.Ledger) (ho : (s.channel k).owner = some c) :
    (s.channel k).state ≠ .free := fun free => by
  rw [(h.sound k).owner_none free] at ho
  cases ho

theorem State.Ledger.leave (h : s.Ledger) (c : Client) (k : Chan) : (s.leave c k).Ledger := by
  unfold State.leave
  split
  · next ho => exact h.letGo ho
  · exact h

/-- Nothing is left to settle. -/
theorem State.Ledger.channel_settled (h : s.Ledger) (k : Chan) : s.channel k = (s.channel k).settled (s.refsOf k) := by
  obtain ⟨channels, counts⟩ := State.ledger_iff.mp h
  unfold Channel.settled
  split
  · next gone =>
    obtain ⟨orphan, unnamed⟩ := gone
    exact (channels k).2.1 (h.kept k orphan unnamed)
  · rw [← counts.1 k]

theorem State.refsOf_leave_le (s : State) (c : Client) (k j : Chan) : (s.leave c k).refsOf j ≤ s.refsOf j := by
  unfold State.leave
  split
  · exact s.refsOf_letGo_le k c j
  · exact le_refl _

theorem State.refsOf_foldl_leave_le (c : Client) (l : List Chan) (s : State) (j : Chan) :
    (l.foldl (State.leave c) s).refsOf j ≤ s.refsOf j := by
  induction l generalizing s with
  | nil => exact le_refl _
  | cons k l ih => exact (ih (s.leave c k)).trans (s.refsOf_leave_le c k j)

theorem State.channel_leave (h : s.Ledger) (c : Client) (k j : Chan) : (s.leave c k).channel j =
    (if j = k then (s.channel j).leftBy c else s.channel j).settled ((s.leave c k).refsOf j) := by
  unfold State.leave
  split
  · next ho =>
    rw [State.channel_letGo (fun i => (h.sound i).free) (h.not_free_of_owned ho)]
    by_cases e : j = k
    · rw [e, if_pos rfl, if_pos rfl, Channel.leftBy, if_pos ho]
    · rw [if_neg (Ne.symm e), if_neg e]
  · next ho =>
    have left : (if j = k then (s.channel j).leftBy c else s.channel j) = s.channel j := by
      split
      · next e => rw [e, Channel.leftBy_of_not_owned ho]
      · rfl
    rw [left]
    exact h.channel_settled j

theorem State.channel_foldl_leave (c : Client) (l : List Chan) (s : State) (h : s.Ledger) (j : Chan) :
    (l.foldl (State.leave c) s).channel j =
      (if j ∈ l then (s.channel j).leftBy c else s.channel j).settled ((l.foldl (State.leave c) s).refsOf j) := by
  induction l generalizing s with
  | nil => exact h.channel_settled j
  | cons k l ih =>
    have le := State.refsOf_foldl_leave_le c l (s.leave c k) j
    rw [List.foldl_cons, ih _ (h.leave c k), State.channel_leave h]
    by_cases later : j ∈ l <;> by_cases now : j = k
    · rw [if_pos later, if_pos now, if_pos (List.mem_cons_of_mem k later), Channel.settled_leftBy_settled le,
        Channel.leftBy_leftBy]
    · rw [if_pos later, if_neg now, if_pos (List.mem_cons_of_mem k later), Channel.settled_leftBy_settled le]
    · rw [if_neg later, if_pos now, if_pos (by rw [now]; exact List.mem_cons_self), Channel.settled_settled le]
    · rw [if_neg later, if_neg now, if_neg (by simp [later, now]), Channel.settled_settled le]

/-! ## Who is told (R99, R103) -/

/-- A channel that a claim names has a reference (R95). -/
theorem State.refs_ne_zero_of_relies (h : s.CountsOk) (hr : s.relies d k = true) : (s.channel k).refs ≠ 0 := by
  obtain ⟨q, hq, named⟩ := List.any_eq_true.mp hr
  have names : q.names k = true := (Bool.and_eq_true_iff.mp named).2
  have pos : 0 < s.claims.countP (·.names k) := List.countP_pos_iff.mpr ⟨q, hq, names⟩
  rw [h.1 k, State.refsOf]
  omega

theorem State.queue_leave (h : s.Ledger) (hd : d ≠ c) (k : Chan) :
    (s.leave c k).queue d = s.tellLeft c d (s.queue d) k := by
  obtain ⟨channels, counts⟩ := State.ledger_iff.mp h
  unfold State.leave State.tellLeft
  by_cases ho : (s.channel k).owner = some c
  · have used := h.not_free_of_owned ho
    rw [if_pos ho, State.queue_letGo channels counts used, State.channel_letGo_self channels counts used]
    by_cases hr : s.relies d k = true
    · have refs := State.refs_ne_zero_of_relies counts hr
      rw [if_pos ⟨refs, hd, hr⟩, if_neg refs, if_pos ⟨ho, hr⟩]
    · rw [if_neg fun all => hr all.2.2, if_neg fun both => hr both.2]
  · rw [if_neg ho, if_neg fun both => ho both.1]

/-- What `tellLeft` looks at. -/
theorem State.tellLeft_congr {t : State} {n : Nat} (hk : t.channel k = (s.channel k).settled n)
    (hr : t.relies d k = s.relies d k) (q : Queue) : t.tellLeft c d q k = s.tellLeft c d q k := by
  unfold State.tellLeft
  rw [hk, hr, Channel.owner_settled]
  by_cases ho : (s.channel k).owner = some c
  · rw [Channel.settled_of_owned ho]
    rfl
  · rw [if_neg fun both => ho both.1, if_neg fun both => ho both.1]

theorem State.relies_leave (s : State) (c d : Client) (k j : Chan) : (s.leave c k).relies d j = s.relies d j := by
  unfold State.leave State.relies
  split
  · rw [State.letGo_claims]
  · rfl

theorem State.queue_foldl_leave (hd : d ≠ c) (l : List Chan) (distinct : l.Nodup) (s : State) (h : s.Ledger) :
    (l.foldl (State.leave c) s).queue d = l.foldl (s.tellLeft c d) (s.queue d) := by
  induction l generalizing s with
  | nil => rfl
  | cons k l ih =>
    obtain ⟨fresh, distinct⟩ := List.nodup_cons.mp distinct
    rw [List.foldl_cons, List.foldl_cons, ih distinct _ (h.leave c k), State.queue_leave h hd]
    refine List.foldl_ext _ _ _ fun q j hj => ?_
    have other : j ≠ k := fun e => fresh (e ▸ hj)
    have channel := State.channel_leave h c k j
    rw [if_neg other] at channel
    exact State.tellLeft_congr channel (s.relies_leave c d k j) q

end

/-! ## Claims and watches (R21, R109) -/

/-- The part once the claims and the watches of a departing client are gone. -/
def State.withdrawn (s : State) (c : Client) : State := (s.tearClaims c).tearWatches c

theorem State.torn_eq (s : State) (c : Client) : s.torn c = allChans.foldl (State.leave c) (s.withdrawn c) := rfl

section
variable {s : State} {c d : Client}

theorem State.Ledger.tearClaims (h : s.Ledger) (c : Client) : (s.tearClaims c).Ledger :=
  (h.dropClaims fun c' _ => c' = c).settleRefs.congr (by rw [State.tearClaims, State.noteTops_channels])
    (by rw [State.tearClaims, State.noteTops_claims]) (by rw [State.tearClaims, State.noteTops_watches])
    (by rw [State.tearClaims, State.noteTops_sessions])

theorem State.Ledger.withdrawn (h : s.Ledger) (c : Client) : (s.withdrawn c).Ledger := by
  have claims := h.tearClaims c
  unfold State.withdrawn State.tearWatches
  generalize s.tearClaims c = u at claims
  exact State.Wired.recount (claims.toWired.mono claims.sound fun _ hf => ⟨hf, le_refl _⟩) claims.kept

theorem State.refsOf_tearWatches (s : State) (c : Client) (k : Chan) : (s.tearWatches c).refsOf k = s.refsOf k :=
  State.refsOf_congr (State.tearWatches_claims s c) (fun j => by rw [State.channel_tearWatches]) k

theorem State.channel_withdrawn (h : s.Ledger) (c : Client) (k : Chan) :
    (s.withdrawn c).channel k = (s.channel k).settled ((s.withdrawn c).refsOf k) := by
  have dropped : (s.tearClaims c).channel k = (s.channel k).settled ((s.tearClaims c).refsOf k) := by
    have settled := State.channel_settleRefs (s := s.dropClaims fun c' _ => c' = c) (fun j => (h.sound j).free) k
    rwa [← State.noteTops_channel s none, ← State.refsOf_congr (State.noteTops_claims s none _)
      (fun j => by rw [State.noteTops_channel]) k] at settled
  rw [State.withdrawn, State.refsOf_tearWatches, State.channel_tearWatches, ← dropped, ← (h.tearClaims c).counts.1 k]

theorem State.relies_withdrawn (hd : d ≠ c) (k : Chan) : (s.withdrawn c).relies d k = s.relies d k := by
  rw [State.relies, State.relies, State.withdrawn, State.tearWatches_claims, State.claims_tearClaims, List.any_filter]
  refine congrArg s.claims.any (funext fun q => ?_)
  by_cases e : q.client = d
  · simp [e, hd]
  · simp [e]

/-! ## The departure whole (R131) -/

theorem State.channel_torn (h : s.Ledger) (c : Client) (k : Chan) :
    (s.torn c).channel k = ((s.channel k).leftBy c).settled ((s.torn c).refsOf k) := by
  have le := State.refsOf_foldl_leave_le c allChans (s.withdrawn c) k
  rw [State.torn_eq, State.channel_foldl_leave c allChans _ (h.withdrawn c), if_pos (mem_allChans k),
    State.channel_withdrawn h, Channel.settled_leftBy_settled le]

theorem State.owner_torn (h : s.Ledger) (c : Client) (k : Chan) :
    ((s.torn c).channel k).owner = if (s.channel k).owner = some c then none else (s.channel k).owner := by
  rw [State.channel_torn h, Channel.owner_settled, Channel.owner_leftBy]

theorem State.queue_torn (h : s.Ledger) (hd : d ≠ c) : (s.torn c).queue d =
    allChans.foldl (s.tellLeft c d) (topNotices s (s.torn c) none d (s.queue d)) := by
  have top : topNotices s (s.torn c) none d (s.queue d) = (s.withdrawn c).queue d := by
    rw [State.withdrawn, State.tearWatches_queue, State.queue_tearClaims]
    exact topNotices_congr (by simp [State.torn]) (by simp [State.torn]) none d _
  rw [top, State.torn_eq, State.queue_foldl_leave hd allChans allChans_nodup _ (h.withdrawn c)]
  exact List.foldl_ext _ _ _ fun q k _ =>
    State.tellLeft_congr (State.channel_withdrawn h c k) (State.relies_withdrawn hd k) q

theorem State.torn_waitList (s : State) (c : Client) (k : Chan) :
    (s.torn c).waitList k = (s.waitList k).filter fun w => !decide (w.1 = c) := by
  rw [State.torn, State.tearChannels_waitList, State.tearWatches_waitList, State.tearClaims, State.noteTops_waitList,
    State.settleRefs_waitList, State.waitList_dropClaims]

theorem State.samePorts_torn (s : State) (c : Client) : SamePorts s (s.torn c) := fun d => by
  have known : s.Knows fun _ => True :=
    ⟨fun _ _ => trivial, fun _ _ _ => trivial, fun _ _ _ => trivial, fun _ _ => trivial⟩
  obtain ⟨-, told⟩ := Heeds.torn s c known
  rw [told.ports d]

/-! ## The sessions (R120) -/

/-- Two session entries that agree but for their counts, and in these. -/
theorem Session.eq_of_core {e f : Session} (core : e.core = f.core) (claims : e.claimsHeld = f.claimsHeld)
    (watches : e.watchesHeld = f.watchesHeld) (owned : e.channelsOwned = f.channelsOwned) : e = f := by
  cases e
  cases f
  simp_all [Session.core]

theorem countP_filter_client {α : Type} (f : α → Client) {l : List α} (hd : d ≠ c) :
    ((l.filter fun a => !decide (f a = c)).countP fun a => f a = d) = l.countP fun a => f a = d := by
  rw [List.countP_filter]
  refine List.countP_congr fun a _ => ?_
  by_cases e : f a = d
  · simp [e, hd]
  · simp [e]

theorem State.session_torn_other (h : s.Ledger) (hd : d ≠ c) : (s.torn c).session d = s.session d := by
  obtain ⟨claims, watches, owned⟩ := (s.torn_countsOk c).2 d
  obtain ⟨claims', watches', owned'⟩ := h.counts.2 d
  refine Session.eq_of_core (SameCore.torn s c d) ?_ ?_ ?_
  · rw [claims, claims', State.torn_claims, countP_filter_client Claim.client hd]
  · have same := countP_filter_client Watch.client (l := s.watches) hd
    rw [watches, watches', State.torn_watches, ← same]
    simp only [ne_eq, decide_not]
  · rw [owned, owned']
    refine List.countP_congr fun k _ => ?_
    rw [State.owner_torn h]
    split
    · next ho => simp [ho, Ne.symm hd]
    · exact Iff.rfl

/-- The client holds nothing once it has left. -/
theorem State.session_torn_self (s : State) (c : Client) (cause : EndCause) :
    ((s.torn c).session c).ended cause = { Session.atReset with priorEnd := cause } := by
  obtain ⟨claims, watches, owned⟩ := (s.torn_countsOk c).2 c
  have known := s.torn_knows c
  rw [Session.ended, claims, watches, owned, List.countP_eq_zero.mpr, List.countP_eq_zero.mpr, List.countP_eq_zero.mpr]
  · rfl
  · exact fun k _ ho => known.owners k c (of_decide_eq_true ho) rfl
  · exact fun w hw e => known.watches w hw (of_decide_eq_true e)
  · exact fun q hq e => known.claims q hq (of_decide_eq_true e)

/-! ## What a teardown leaves (R131, R132) -/

/-- What the departure of a client makes of everything but the ports. -/
structure Departed (s t : State) (c : Client) (cause : EndCause) : Prop where
  session : t.session c = { Session.atReset with priorEnd := cause }
  claims : t.claims = s.claims.filter (fun q => q.client ≠ c)
  claimList : ∀ p : Pin, t.claimList p = (s.claimList p).filter (· ≠ c)
  waitList : ∀ k : Chan, t.waitList k = (s.waitList k).filter (·.1 ≠ c)
  watches : t.watches = s.watches.filter (fun w => w.client ≠ c)
  channel : ∀ k : Chan, t.channel k =
    if (s.channel k).owner = some c then (s.channel k).letGo.settled (t.refsOf k)
    else (s.channel k).settled (t.refsOf k)
  queue : t.queue c = Queue.empty
  told : ∀ d : Client, d ≠ c → t.queue d = allChans.foldl (s.tellLeft c d) (topNotices s t none d (s.queue d))
  sessions : ∀ d : Client, d ≠ c → t.session d = s.session d
  pads : PadsResolved s t
  device : SameDevice s t

theorem State.teardown_claims (s : State) (c : Client) (cause : EndCause) :
    (s.teardown c cause).claims = (s.torn c).claims := by
  simp [State.teardown_eq]

theorem State.teardown_claimLists (s : State) (c : Client) (cause : EndCause) :
    (s.teardown c cause).claimLists = (s.torn c).claimLists := by
  simp [State.teardown_eq]

theorem State.refsOf_teardown (s : State) (c : Client) (cause : EndCause) (k : Chan) :
    (s.teardown c cause).refsOf k = (s.torn c).refsOf k :=
  State.refsOf_congr (s.teardown_claims c cause) (fun j => by rw [State.channel_teardown]) k

theorem State.queue_teardown_other (hd : d ≠ c) (cause : EndCause) :
    (s.teardown c cause).queue d = (s.torn c).queue d := by
  rw [State.teardown_eq, State.resolvePads_queue, State.queue_setSession, State.queue_purge, if_neg (Ne.symm hd)]

theorem State.padsResolved_teardown (s : State) (c : Client) (cause : EndCause) :
    PadsResolved s (s.teardown c cause) := by
  refine ⟨State.teardown_policies .., fun p => ?_⟩
  have pad : ((s.torn c).purge c).pad p = s.pad p := by rw [State.purge_pad, State.pad_congr (s.torn_pads c)]
  rw [State.teardown_eq, State.resolve_resolvePads, State.pad_resolvePads, State.pad_setSession, pad]

theorem State.departed_teardown (h : s.Ledger) (c : Client) (cause : EndCause) :
    Departed s (s.teardown c cause) c cause where
  session := by rw [State.session_teardown_self_eq, State.session_torn_self]
  claims := by
    rw [State.teardown_claims, State.torn_claims]
    simp only [ne_eq, decide_not]
  claimList p := by
    rw [State.claimList_congr (s.teardown_claimLists c cause), State.torn_claimList]
    simp only [ne_eq, decide_not]
  waitList k := by
    have same : (s.teardown c cause).waitList k = (s.torn c).waitList k := by simp [State.teardown_eq]
    rw [same, State.torn_waitList]
    simp only [ne_eq, decide_not]
  watches := by
    have same : (s.teardown c cause).watches = (s.torn c).watches := by simp [State.teardown_eq]
    rw [same, State.torn_watches]
  channel k := by
    rw [State.channel_teardown, State.refsOf_teardown, State.channel_torn h, Channel.leftBy]
    split <;> rfl
  queue := s.queue_teardown_self c cause
  told d hd := by
    rw [State.queue_teardown_other hd, State.queue_torn h hd,
      topNotices_congr (s.teardown_claimLists c cause) (s.teardown_claims c cause)]
  sessions d hd := by rw [State.session_teardown_ne s hd, State.session_torn_other h hd]
  pads := s.padsResolved_teardown c cause
  device := ⟨State.teardown_pending .., State.teardown_resetCause .., State.teardown_por .., State.teardown_nrstLow ..,
    State.teardown_edgeOwed ..⟩

theorem State.samePorts_teardown (s : State) (c : Client) (cause : EndCause) : SamePorts s (s.teardown c cause) := by
  refine samePorts_trans (s.samePorts_torn c) fun d => ?_
  rw [State.teardown_eq, State.resolvePads_port, State.port_setSession]
  generalize s.torn c = u
  rw [State.purge, State.port_syncAttention]
  split
  · next e => rw [← e]; rfl
  · rfl

/-- The same of a request, seen after its answer. -/
theorem Departed.answer {t : State} {cause : EndCause} (h : Departed (s.taken c) t c cause) (tag : Byte) (st : Status)
    (pl : List Byte) : Departed s (t.answer c tag st pl) c cause where
  session := h.session
  claims := h.claims
  claimList := h.claimList
  waitList := h.waitList
  watches := h.watches
  channel := h.channel
  queue := h.queue
  told := h.told
  sessions d hd := by rw [State.answer_session, h.sessions d hd, State.session_taken, if_neg (Ne.symm hd)]
  pads := h.pads
  device := sameDevice_answer h.device tag st pl

end

/-! ## CLOSE and the expiry of the grace period (R127, R130) -/

theorem State.exec_graceExpiry {s : State} (hs : s.Calm) {c : Client} (due : s.graceDue c = true) :
    exec (.graceExpiry c) s = .next (s.teardown c .lapsed) := by
  show Host.Outcome.next _ = _
  rw [hs.settle, State.ofTick, if_pos due, State.expireGrace]

theorem State.served_close {s : State} {c : Client} (hs : s.InSession c) : s.served c .closeSession [] =
    { state := (s.taken c).teardown c .closed, status := .ok
      payload := [byteOf (s.session c).claimsHeld, byteOf (s.session c).watchesHeld,
        byteOf (s.session c).channelsOwned] } := by
  rw [State.served_act (fun _ => hs) rfl, actOf, closeAct, countBytes, State.session_taken, if_pos rfl,
    Session.renewed_claimsHeld, Session.renewed_watchesHeld, Session.renewed_channelsOwned]

/-- Settles O22: the channels go one after the other, and a settling in between tells no more than the last. -/
theorem teardownWithdrawsEverything : Obligations.TeardownWithdrawsEverything := by
  refine ⟨fun s c tag h ha hs => ⟨_, exec_of_asks ha, ?_⟩, fun s c h calm grace due => ?_⟩
  · have ledger : (s.taken c).Ledger := State.ledger_iff.mpr ⟨h.channels, h.counts.taken c⟩
    rw [State.served_close hs]
    obtain ⟨session, claims, claimList, waitList, watches, channel, queue, told, sessions, pads, device⟩ :=
      (State.departed_teardown ledger c .closed).answer tag .ok [byteOf (s.session c).claimsHeld,
        byteOf (s.session c).watchesHeld, byteOf (s.session c).channelsOwned]
    exact ⟨session, answered_of_placed (State.samePorts_teardown _ c _) tag .ok _, claims, claimList, waitList, watches,
      channel, queue, told, sessions, pads, device⟩
  · have ledger : s.Ledger := State.ledger_iff.mpr ⟨h.channels, h.counts⟩
    have expires : s.graceDue c = true := by simp [State.graceDue, grace, due]
    obtain ⟨session, claims, claimList, waitList, watches, channel, queue, told, sessions, pads, device⟩ :=
      State.departed_teardown ledger c .lapsed
    exact ⟨_, State.exec_graceExpiry calm expires, session, s.samePorts_teardown c _, claims, claimList, waitList, watches,
      channel, queue, told, sessions, pads, device⟩

end Sys2Proof.Machine
end

section
/-! PROOFS. The notice queues (R141 to R147): each keeps its laws through every step, what a placement does to a lawful
queue, and what FETCH takes from the caller's. -/

namespace Sys2Proof.Machine

open Sys2Proof

/-! ## Every event and every effect (R141, R142, R145) -/

section
variable {s t : State} {c : Client}

theorem State.QueuesOk.of_same (h : s.QueuesOk) (hq : t.queues = s.queues) : t.QueuesOk := fun d => by
  rw [State.queue_congr hq]
  exact h d

theorem State.QueuesOk.heeds (h : s.QueuesOk) (e : Heeds (fun _ => True) s t) : t.QueuesOk :=
  (e ⟨fun _ _ => trivial, fun _ _ _ => trivial, fun _ _ _ => trivial, fun _ _ => trivial⟩).2.queuesOk h

theorem State.QueuesOk.setQueue (h : s.QueuesOk) {q : Queue} (hq : q.Ok) : (s.setQueue c q).QueuesOk := fun d => by
  rw [State.queue_setQueue]
  split
  · exact hq
  · exact h d

theorem State.QueuesOk.teardown (h : s.QueuesOk) (c : Client) (cause : EndCause) : (s.teardown c cause).QueuesOk := by
  have purged : ((s.torn c).setQueue c Queue.empty).QueuesOk := (h.heeds (.torn s c)).setQueue Queue.empty_ok
  exact purged.of_same (by rw [State.teardown_eq]; simp [State.purge])

theorem State.queuesOk_deviceReset (s : State) (cause : ResetCause) : (s.deviceReset cause).QueuesOk := fun d => by
  rw [State.deviceReset_queue]
  exact Queue.empty_ok

theorem Event.queuesOk (e : Event s t) (h : s.QueuesOk) : t.QueuesOk := by
  obtain told | ⟨c, -, rfl⟩ | ⟨c, kind, part, rfl⟩ | ⟨cause, por, nrstLow, rfl⟩ := e.heeds
  · exact h.heeds (told _ fun _ _ => trivial)
  · exact h.teardown c _
  · exact h.of_same (by simp)
  · exact (s.queuesOk_deviceReset cause).of_same rfl

theorem Effect.queuesOk (e : Effect c s t) (h : s.QueuesOk) : t.QueuesOk := by
  obtain told | rfl | rfl | ⟨n, -, pos, rfl⟩ := e.heeds
  · exact h.heeds (told _ fun _ => trivial)
  · exact h.teardown c _
  · exact (s.queuesOk_deviceReset .resetCommand).of_same (by simp)
  · exact (h.setQueue ((h c).fetch pos)).of_same (State.syncAttention_queues ..)

end

theorem queues_keeps : Keeps State.QueuesOk where
  event _ _ h e := e.queuesOk h
  pending _ _ h := h
  base _ _ caught := caught.of_same (by simp)
  request _ _ _ _ _ _ h _ _ e := (e.queuesOk (h.of_same (by simp))).of_same (by simp)

/-- Settles O6: an event or an effect places notices, empties queues or fetches from one, and each keeps a lawful
queue lawful. -/
theorem everyStepKeepsTheQueues : Obligations.EveryStepKeepsTheQueues := fun _ _ h ht => queues_keeps.step h ht

/-! ## Placements (R142, R143, R145) -/

section
variable {q : Queue} {n : Notice}

theorem Queue.key_not_mem : n.key ∉ q.keys ↔ ∀ e ∈ q.entries, e.notice.key ≠ n.key := by
  simp [Queue.mem_keys]

/-- Where no two elements share a key, a change of those of one key is a change at one index. -/
theorem map_key_eq_set {α β : Type} [DecidableEq β] {f : α → β} {l : List α} (unique : (l.map f).Nodup) {i : Nat} {a : α}
    (ha : l[i]? = some a) (g : α → α) : l.map (fun x => if f x = f a then g x else x) = l.set i (g a) := by
  obtain ⟨hi, rfl⟩ := List.getElem?_eq_some_iff.mp ha
  refine List.ext_getElem (by simp) fun j hj _ => ?_
  have hj : j < l.length := by simpa using hj
  have same : f l[j] = f l[i] ↔ j = i := by
    rw [← unique.getElem_inj_iff (hi := by simpa using hj) (hj := by simpa using hi), List.getElem_map, List.getElem_map]
  rw [List.getElem_map, List.getElem_set]
  by_cases e : i = j
  · subst e
    simp
  · rw [if_neg (mt same.mp (Ne.symm e)), if_neg e]

/-- A count that stays at 255 (R143, R145). -/
theorem min_countMax_succ (r : Nat) : min Config.countMax (r + 1) = if r < 255 then r + 1 else 255 := by
  rw [show Config.countMax = 255 from rfl]
  split <;> omega

/-- A placement that finds an entry of its kind and object changes that one alone (R142, R143). -/
theorem Queue.place_at (unique : q.keys.Nodup) {i : Nat} {e : Entry} (he : q.entries[i]? = some e)
    (key : e.notice.key = n.key) : q.place n =
      { q with entries := q.entries.set i { notice := n, repeats := min Config.countMax (e.repeats + 1) } } := by
  have held : n.key ∈ q.keys := Queue.mem_keys.mpr ⟨e, List.mem_of_getElem? he, key⟩
  rw [Queue.place_of_mem held, ← key]
  exact congrArg (fun l => { q with entries := l }) (map_key_eq_set unique he _)

/-- A notice that is not dropped is held afterwards (R142). -/
theorem Queue.holds_place (room : q.entries.length < Config.queueSize) (n : Notice) :
    ∃ e ∈ (q.place n).entries, e.notice = n := by
  by_cases held : n.key ∈ q.keys
  · obtain ⟨e, he, key⟩ := Queue.mem_keys.mp held
    rw [Queue.place_of_mem held]
    exact ⟨_, List.mem_map_of_mem he, by rw [if_pos key]⟩
  · rw [Queue.place_of_room held room]
    exact ⟨_, List.mem_append_right _ (List.mem_singleton_self _), rfl⟩

end

/-- Settles O5: no two entries are of one kind and object, so a placement finds one entry of its own, or none. -/
theorem noticesCoalesceJoinOrDrop : Obligations.NoticesCoalesceJoinOrDrop := by
  refine fun q n h => ⟨h.place n, fun i e he key => ?_, fun new room => ?_, fun new full => ?_⟩
  · have unique : q.keys.Nodup := (Queue.ok_iff.mp h).1.keys
    rw [Queue.place_at unique he key, min_countMax_succ]
    exact ⟨rfl, rfl⟩
  · rw [Queue.place_of_room (Queue.key_not_mem.mpr new) room]
    exact ⟨rfl, rfl⟩
  · rw [Queue.place_of_full (Queue.key_not_mem.mpr new) full.ge, min_countMax_succ]
    exact ⟨rfl, rfl⟩

/-! ## FETCH (R146, R147) -/

section
variable {s : State} {c : Client} {q : Queue} {n : Nat}

/-- A removal of at least one entry makes room for the notice placed next (R147). -/
theorem Queue.Ok.holds_place_drop (h : q.Ok) (pos : 1 ≤ n) (held : q.entries ≠ []) (x : Notice) :
    ∃ e ∈ (({ q with entries := q.entries.drop n } : Queue).place x).entries, e.notice = x := by
  refine Queue.holds_place ?_ x
  have fits : q.entries.length ≤ Config.queueSize := (Queue.ok_iff.mp h).1.length
  have depth : 0 < q.entries.length := List.length_pos_of_ne_nil held
  rw [List.length_drop]
  omega

/-- What FETCH leaves of a queue, by whether an entry left and a drop was counted (R146, R147). -/
theorem Queue.Ok.fetch_cases (h : q.Ok) (pos : 1 ≤ n) :
    if q.entries = [] ∨ q.dropped = 0 then q.fetch n = { q with entries := q.entries.drop n }
    else (q.fetch n).dropped = 0 ∧
      (q.fetch n).entries =
        (({ q with entries := q.entries.drop n } : Queue).place (.overflow q.dropped)).entries ∧
      ((q.fetch n).entries.any fun e => e.notice = .overflow q.dropped) = true := by
  have taken : (q.entries.take n).isEmpty = true ↔ q.entries = [] := by
    rw [List.isEmpty_iff, List.take_eq_nil_iff, or_iff_right (Nat.ne_of_gt pos)]
  split
  · next none => exact Queue.fetch_of_none (none.imp_left taken.mpr)
  · next dropped =>
    obtain ⟨held, counted⟩ := not_or.mp dropped
    rw [Queue.fetch_of_dropped (by simpa using mt taken.mp held) counted]
    refine ⟨rfl, rfl, List.any_eq_true.mpr ?_⟩
    obtain ⟨e, he, notice⟩ := h.holds_place_drop pos held (.overflow q.dropped)
    exact ⟨e, he, decide_eq_true notice⟩

theorem fetchReply_take (q : Queue) (n : Nat) : fetchReply (q.entries.take n) =
    byteOf (min n q.entries.length) :: (q.entries.take n).flatMap fun e => noticeBytes e.notice ++ [byteOf e.repeats] := by
  rw [fetchReply, List.length_take, ← List.flatMap_def]
  rfl

theorem State.served_fetch (hs : s.InSession c) (b : Byte) :
    s.served c .fetch [b] = fetchAct c [b] (s.taken c) := State.served_act (fun _ => hs) rfl

theorem fetchAct_byte (s : State) (c : Client) (b : Byte) : fetchAct c [b] s =
    if 1 ≤ b.toNat ∧ b.toNat ≤ 6 then
      { state := (s.setQueue c ((s.queue c).fetch b.toNat)).syncAttention c, status := .ok
        payload := fetchReply ((s.queue c).entries.take b.toNat) }
    else refuse s .badArg := by
  unfold fetchAct
  dsimp only
  rw [byteAt_zero]
  exact if_congr (by simp) rfl rfl

theorem fetchAct_byteOf (s : State) (c : Client) (pos : 1 ≤ n) (le : n ≤ 6) : fetchAct c [byteOf n] s =
    { state := (s.setQueue c ((s.queue c).fetch n)).syncAttention c, status := .ok
      payload := fetchReply ((s.queue c).entries.take n) } := by
  rw [fetchAct_byte, toNat_byteOf (by omega), if_pos ⟨pos, le⟩]

theorem fetchAct_refused (s : State) (c : Client) {b : Byte} (hb : b = 0 ∨ 6 < b.toNat) :
    fetchAct c [b] s = refuse s .badArg := by
  rw [fetchAct_byte, if_neg]
  rintro ⟨pos, le⟩
  obtain rfl | high := hb
  · exact absurd pos (by decide)
  · omega

/-- A queue rewritten and its line made to follow change no more of a port than the line. -/
theorem State.samePorts_requeued (s : State) (c : Client) (q : Queue) :
    SamePorts s ((s.setQueue c q).syncAttention c) := fun d => by
  rw [State.port_syncAttention]
  split
  · next e => subst e; rfl
  · rfl

/-- What a request leaves behind whose block rewrites the caller's queue. -/
theorem requeued_answered {t : State} {tag : Byte} {st : Status} {pl : List Byte}
    (ht : t = (((s.taken c).setQueue c q).syncAttention c).answer c tag st pl) :
    t.queue c = q ∧ (∀ d : Client, d ≠ c → t.queue d = s.queue d) ∧ Answered s t c tag st pl ∧
      OnlyRenewed s t c ∧ SamePool s t ∧ SamePins s t ∧ t.channels = s.channels ∧ t.watches = s.watches ∧
      SameDevice s t := by
  have device : SameDevice (s.taken c) (((s.taken c).setQueue c q).syncAttention c) := ⟨rfl, rfl, rfl, rfl, rfl⟩
  subst ht
  refine ⟨?_, fun d hd => ?_, answered_of_placed ((s.taken c).samePorts_requeued c q) tag st pl,
    onlyRenewed_of_sessions rfl tag st pl, ⟨rfl, rfl, rfl⟩, ⟨rfl, rfl⟩, rfl, rfl, sameDevice_answer device tag st pl⟩
  · rw [State.answer_queue, State.syncAttention_queue, State.queue_setQueue_self]
  · rw [State.answer_queue, State.syncAttention_queue, State.queue_setQueue_ne _ _ hd, State.taken_queue]

end

/-- Settles O44: at least one notice leaves a queue that holds any, so an OVERFLOW finds room. -/
theorem fetchRemovesTheOldest : Obligations.FetchRemovesTheOldest := by
  refine ⟨fun s c tag n h ha hs ⟨pos, le⟩ => ⟨_, exec_of_asks ha, ?_⟩, fun s c tag b ha hs hb => exec_refused ha ?_⟩
  · rw [State.served_fetch hs, fetchAct_byteOf _ c pos le, State.taken_queue, fetchReply_take]
    obtain ⟨own, others⟩ := requeued_answered rfl
    refine ⟨?_, others⟩
    rw [own]
    exact (h.queues c).fetch_cases pos
  · rw [State.served_fetch hs, fetchAct_refused _ c hb]

end Sys2Proof.Machine
end

section
/-! PROOFS. The ports and their attention lines through every step (R155 to R165): what a part of a transaction makes of its
port, said once, and that a law of one port and its queue which each event keeps is kept by every step. -/

namespace Sys2Proof.Machine

open Sys2Proof

/-! ## What a part of a transaction makes of its port (R156 to R163) -/

/-- What a part of a transaction makes of a port whose client has the queue `n`: bytes are shifted and the slot stays, a
good frame is held, a bad one is answered, or a reply has been read. -/
inductive Port.Moves (n : Queue) (q : Port) : Port → Prop
  | shifts {v : Port} (state : v.state = q.state) (held : v.held = q.held) (reply : v.reply = q.reply)
      (line : v.attention = q.attention) (receives : v.transaction = .receive → q.state = .ready)
      (sends : v.txReply = true → v.transaction = .send ∧ q.state = .answered) : Moves n q v
  | holds (f : Frame) (fits : f.payload.length ≤ Config.maxPayload) (ready : q.state = .ready)
      (quiet : q.txReply = false) :
      Moves n q { q with state := .held, held := some f, transaction := .none, rx := [], passedBy := [] }
  | errs (tag : Byte) (session : SessionState) (quiet : q.txReply = false) :
      Moves n q { q with
        state := .answered, held := none, attention := true, passedBy := [], transaction := .none, rx := []
        reply := some { status := .frameError, tag := tag, session := session, depth := n.entries.length, payload := [] } }
  | empties (answered : q.state = .answered) :
      Moves n q { q with
        state := .ready, reply := none, overrun := false, transaction := .none, tx := [], txReply := false
        attention := !n.entries.isEmpty }

section
variable {s t : State} {c : Client} {q v : Port} {n : Queue}

/-- A port that is not being READ sends no reply. -/
theorem Port.Ok.quiet (h : q.Ok) (idle : q.transaction ≠ .send) : q.txReply = false := by
  obtain ⟨-, -, -, sends⟩ := h
  exact Bool.eq_false_iff.mpr fun e => idle (sends e).1

theorem Port.Ok.moves (h : q.Ok) (m : q.Moves n v) : v.Ok := by
  obtain ⟨held, reply, -, -⟩ := h
  cases m with
  | shifts hs hh hr _ receives sends =>
    exact ⟨by rw [hh, hs]; exact held, by rw [hr, hs]; exact reply, fun e => hs ▸ receives e, fun e => hs ▸ sends e⟩
  | holds f _ ready quiet => exact ⟨by simp, by simpa [ready] using reply, by simp, by simp [quiet]⟩
  | errs tag session quiet => exact ⟨by simp, by simp, by simp, by simp [quiet]⟩
  | empties answered => exact ⟨by simpa [answered] using held, by simp, by simp, by simp⟩

/-- A port that a reset has cut receives nothing and sends nothing (R172). -/
theorem Port.cut_ok (q : Port) : q.cut.Ok := by
  have idle : q.cut.transaction ≠ .receive := fun e => by
    unfold Port.cut at e
    dsimp only at e
    split at e <;> cases e
  exact ⟨by simp [Port.cut, Port.atReset], by simp [Port.cut, Port.atReset], fun e => absurd e idle,
    by simp [Port.cut, Port.atReset]⟩

/-- The frame that a WRITE holds has a payload of its declared length (R158). -/
theorem goodFrame_fits {rx : List Byte} {f : Frame} (h : goodFrame rx = some f) :
    f.payload.length ≤ Config.maxPayload := by
  unfold goodFrame at h
  dsimp only at h
  split at h
  · next good =>
    simp only [Bool.and_eq_true, decide_eq_true_eq] at good
    cases h
    exact (List.length_take_le _ _).trans good.1.1.2
  · cases h

theorem State.busSelect_moves (s : State) (c : Client) (h : (s.port c).Ok) :
    ∃ v, s.busSelect c = s.setPort c v ∧ (s.port c).Moves (s.queue c) v := by
  obtain ⟨-, -, receives, sends⟩ := h
  unfold State.busSelect
  dsimp only
  split
  · refine ⟨_, rfl, .shifts rfl rfl rfl rfl (fun e => ?_) (by simp)⟩
    dsimp only at e
    split at e <;> cases e
  · exact ⟨_, (s.setPort_port c).symm, .shifts rfl rfl rfl rfl receives sends⟩

theorem State.busKind_moves (h : (s.port c).Ok) (begun : (s.port c).transaction = .kind) (b : Byte) :
    ∃ v, s.busKind c b = s.setPort c v ∧ (s.port c).Moves (s.queue c) v := by
  have quiet : (s.port c).txReply = false := h.quiet (by simp [begun])
  unfold State.busKind
  dsimp only
  split_ifs with _ ready
  · exact ⟨_, rfl, .shifts rfl rfl rfl rfl (fun _ => ready) (by simp [quiet])⟩
  · exact ⟨_, rfl, .shifts rfl rfl rfl rfl (by simp) (by simp [quiet])⟩
  · exact ⟨_, rfl, .shifts rfl rfl rfl rfl (by simp) (by simp)⟩
  · exact ⟨_, rfl, .shifts rfl rfl rfl rfl (by simp) (by simp [quiet])⟩

theorem State.busByte_moves (h : (s.port c).Ok) (b : Byte) :
    ∃ v, s.busByte c b = s.setPort c v ∧ (s.port c).Moves (s.queue c) v := by
  obtain ⟨-, -, receives, sends⟩ := id h
  unfold State.busByte
  dsimp only
  split
  · next begun => exact State.busKind_moves h begun b
  iterate 3 exact ⟨_, rfl, .shifts rfl rfl rfl rfl receives sends⟩
  · exact ⟨_, (s.setPort_port c).symm, .shifts rfl rfl rfl rfl receives sends⟩

theorem State.endWrite_moves (h : (s.port c).Ok) (receiving : (s.port c).transaction = .receive) :
    ∃ v, s.endWrite c = s.setPort c v ∧ (s.port c).Moves (s.queue c) v := by
  have quiet : (s.port c).txReply = false := h.quiet (by simp [receiving])
  obtain ⟨-, -, receives, -⟩ := h
  unfold State.endWrite
  split
  · next f good => exact ⟨_, rfl, .holds f (goodFrame_fits good) (receives receiving) quiet⟩
  · rw [State.answer, State.port_setPort_self, State.setPort_setPort]
    exact ⟨_, rfl, .errs (byteAt (s.port c).rx 1) (s.session c).state quiet⟩

theorem State.endRead_moves (h : (s.port c).Ok) :
    ∃ v, s.endRead c = s.setPort c v ∧ (s.port c).Moves (s.queue c) v := by
  obtain ⟨-, -, -, sends⟩ := h
  unfold State.endRead
  dsimp only
  split
  · next whole =>
    rw [State.syncAttention, State.port_setPort_self, State.setPort_setPort]
    exact ⟨_, rfl, .empties (sends (Bool.and_eq_true_iff.mp whole).1).2⟩
  · exact ⟨_, rfl, .shifts rfl rfl rfl rfl (by simp) (by simp)⟩

theorem State.busDeselect_moves (h : (s.port c).Ok) :
    ∃ v, s.busDeselect c = s.setPort c v ∧ (s.port c).Moves (s.queue c) v := by
  obtain ⟨-, -, receives, sends⟩ := id h
  have ends (idle : (s.port c).transaction ≠ .send) :
      (s.port c).Moves (s.queue c) { s.port c with transaction := .none } :=
    .shifts rfl rfl rfl rfl (by simp) (by simp [h.quiet idle])
  unfold State.busDeselect
  split
  · next receiving => exact State.endWrite_moves h receiving
  · exact State.endRead_moves h
  · next e => exact ⟨_, rfl, ends (by simp [e])⟩
  · next e => exact ⟨_, rfl, ends (by simp [e])⟩
  · exact ⟨_, (s.setPort_port c).symm, .shifts rfl rfl rfl rfl receives sends⟩

/-- What every move of a port keeps, every part of a transaction keeps. -/
theorem State.bus_inv {P : State → Prop} (ok : ∀ (s : State) (c : Client), P s → (s.port c).Ok)
    (move : ∀ (s : State) (c : Client) (v : Port), P s → (s.port c).Moves (s.queue c) v → P (s.setPort c v))
    (hs : P s) (c : Client) (kind : Byte) (part : BusPart) : P (s.bus c kind part) := by
  have moved {s t : State} (hs : P s) (h : ∃ v, t = s.setPort c v ∧ (s.port c).Moves (s.queue c) v) : P t := by
    obtain ⟨v, rfl, m⟩ := h
    exact move s c v hs m
  have byte (t : State) (b : Byte) (ht : P t) : P (t.busByte c b) := moved ht (State.busByte_moves (ok t c ht) b)
  have select : P (s.busSelect c) := moved hs (s.busSelect_moves c (ok s c hs))
  have deselect (t : State) (ht : P t) : P (t.busDeselect c) := moved ht (State.busDeselect_moves (ok t c ht))
  cases part with
  | select => exact select
  | kind => exact byte s kind hs
  | byte b => exact byte s b hs
  | deselect => exact deselect s hs
  | whole bytes =>
    unfold State.bus State.busWhole
    dsimp only
    split
    · exact deselect _ (foldl_inv (fun t b _ ht => byte t b ht) select)
    · exact hs

/-! ## A law of one port and its queue -/

/-- What a law of a consistent port and its client's queue has to survive for every event and every effect to keep it. -/
structure PortLaw (P : Port → Queue → Prop) : Prop where
  ok : ∀ q n, P q n → q.Ok
  told : ∀ q n m (a : Bool), P q n → m = n ∧ a = q.attention ∨ m.entries ≠ [] ∧ a = true →
    P { q with attention := a } m
  requeued : ∀ q n m, P q n → P { q with attention := q.state = .answered || !m.entries.isEmpty } m
  moves : ∀ q n v, P q n → q.Moves n v → P v n
  cut : ∀ q : Port, P q.cut Queue.empty
  passed : ∀ q n l, P q n → P { q with passedBy := l } n

/-- The law at every client. -/
def State.Links (P : Port → Queue → Prop) (s : State) : Prop := ∀ c : Client, P (s.port c) (s.queue c)

variable {P : Port → Queue → Prop}

theorem State.Links.of_same (h : s.Links P) (hp : t.ports = s.ports) (hq : t.queues = s.queues) : t.Links P := fun c => by
  rw [State.port_congr hp, State.queue_congr hq]
  exact h c

theorem PortLaw.heeds (law : PortLaw P) (h : s.Links P) (e : Heeds (fun _ => True) s t) : t.Links P := fun c => by
  have told := (e ⟨fun _ _ => trivial, fun _ _ _ => trivial, fun _ _ _ => trivial, fun _ _ => trivial⟩).2
  rw [told.ports c]
  exact law.told _ _ _ _ (h c) (told.attention c)

theorem PortLaw.requeue (law : PortLaw P) (h : s.Links P) (c : Client) (m : Queue) :
    ((s.setQueue c m).syncAttention c).Links P := fun d => by
  rw [State.port_syncAttention, State.syncAttention_queue, State.queue_setQueue, State.queue_setQueue, if_pos rfl,
    State.port_setQueue]
  split
  · next e => subst e; exact law.requeued _ _ m (h c)
  · exact h d

theorem PortLaw.teardown (law : PortLaw P) (h : s.Links P) (c : Client) (cause : EndCause) :
    (s.teardown c cause).Links P := by
  rw [State.teardown_eq]
  have purged : ((s.torn c).purge c).Links P := law.requeue (law.heeds h (.torn s c)) c Queue.empty
  exact purged.of_same (by simp) (by simp)

theorem PortLaw.deviceReset (law : PortLaw P) (s : State) (cause : ResetCause) : (s.deviceReset cause).Links P :=
  fun c => by
    rw [State.deviceReset_port, State.deviceReset_queue]
    exact law.cut _

theorem PortLaw.bus (law : PortLaw P) (h : s.Links P) (c : Client) (kind : Byte) (part : BusPart) :
    (s.bus c kind part).Links P := by
  refine State.bus_inv (P := State.Links P) (fun t d ht => law.ok _ _ (ht d)) (fun t d v ht m e => ?_) h c kind part
  rw [State.port_setPort, State.queue_setPort]
  split
  · next same => subst same; exact law.moves _ _ _ (ht d) m
  · exact ht e

theorem PortLaw.event (law : PortLaw P) (h : s.Links P) (e : Event s t) : t.Links P := by
  obtain told | ⟨c, -, rfl⟩ | ⟨c, kind, part, rfl⟩ | ⟨cause, por, nrstLow, rfl⟩ := e.heeds
  · exact law.heeds h (told _ fun _ _ => trivial)
  · exact law.teardown h c _
  · exact law.bus h c kind part
  · exact (law.deviceReset s cause).of_same rfl rfl

theorem PortLaw.effect (law : PortLaw P) (h : s.Links P) (e : Effect c s t) : t.Links P := by
  obtain told | rfl | rfl | ⟨m, -, -, rfl⟩ := e.heeds
  · exact law.heeds h (told _ fun _ => trivial)
  · exact law.teardown h c _
  · exact (law.deviceReset s .resetCommand).of_same (by simp) (by simp)
  · exact law.requeue h c _

theorem PortLaw.taken (law : PortLaw P) (h : s.Links P) (c : Client) : (s.taken c).Links P := fun d => by
  rw [State.port_taken, State.taken_queue]
  split
  · exact law.passed _ _ _ (h d)
  · exact h d

theorem State.Links.setPort (h : s.Links P) (hv : P v (s.queue c)) : (s.setPort c v).Links P := fun d => by
  rw [State.port_setPort, State.queue_setPort]
  split
  · next e => subst e; exact hv
  · exact h d

/-- A port that awaits a reply is consistent with the reply in its slot. -/
theorem Port.Ok.answered (h : q.Ok) (a : q.Awaits) (r : Reply) :
    ({ q with state := .answered, held := none, reply := some r, attention := true, passedBy := [] } : Port).Ok := by
  obtain ⟨-, -, -, sends⟩ := h
  exact ⟨by simp, by simp, fun e => absurd e a.transaction, fun e => absurd (sends e).2 a.state⟩

/-- The port of a request's client as its block leaves it: consistent, and it awaits the reply. -/
theorem PortLaw.awaits (law : PortLaw P) (h : s.Links P) (held : (s.port c).state = .held) (e : Effect c (s.taken c) t) :
    (t.port c).Ok ∧ (t.port c).Awaits := by
  have own : (s.taken c).port c = s.port c := by rw [State.port_taken]; simp
  have awaiting : (s.port c).Awaits := Port.Ok.awaits (law.ok _ _ (h c)) held
  exact ⟨law.ok _ _ (law.effect (law.taken h c) e c), e.awaits (own.symm ▸ awaiting)⟩

/-! ## The attention line (R165) -/

/-- A consistent port whose attention line tells of its slot and its queue. -/
structure Attentive (q : Port) (n : Queue) : Prop where
  port : q.Ok
  line : q.attention = (q.state = .answered || !n.entries.isEmpty)

theorem attentive_law : PortLaw Attentive where
  ok _ _ h := h.port
  told q n m a h e := by
    obtain ⟨rfl, rfl⟩ | ⟨some_notice, rfl⟩ := e
    · exact h
    · exact ⟨h.port, by simp [some_notice]⟩
  requeued q n m h := ⟨h.port, rfl⟩
  moves q n v h m := by
    refine ⟨h.port.moves m, ?_⟩
    cases m with
    | shifts state _ _ line => rw [line, state]; exact h.line
    | holds f _ ready => simpa [ready] using h.line
    | errs => simp
    | empties => simp
  cut q := ⟨q.cut_ok, rfl⟩
  passed q n l h := ⟨h.port, h.line⟩

theorem State.links_attentive_iff : s.Links Attentive ↔ s.AttentionOk ∧ s.PortsOk :=
  ⟨fun h => ⟨fun c => (h c).line, fun c => (h c).port⟩, fun ⟨ha, hp⟩ c => ⟨hp c, ha c⟩⟩

theorem attention_keeps : Keeps (State.Links Attentive) where
  event _ _ h e := attentive_law.event h e
  pending _ _ h := h
  base _ _ caught := caught.of_same (by simp) (by simp)
  request s u c _ _ _ h _ held e := by
    obtain ⟨ok, awaits⟩ := attentive_law.awaits h held e
    exact (attentive_law.effect (attentive_law.taken h c) e).setPort ⟨ok.answered awaits _, by simp⟩

end

/-- Settles O7: no event and no effect but a placement, an emptied queue, a transaction or a reset touches a line, and
each of these makes it tell of the slot and the queue. -/
theorem everyStepKeepsTheAttentionLines : Obligations.EveryStepKeepsTheAttentionLines := fun _ _ h ht =>
  State.links_attentive_iff.mp (attention_keeps.step (State.links_attentive_iff.mpr h) ht)

end Sys2Proof.Machine
end

section
/-! PROOFS. The dispatcher (R164, R166 to R171): what every owning block answers, that a refusal changes nothing but the
port and the lease, that every request taken is answered, and the common checks. -/

namespace Sys2Proof.Machine

open Sys2Proof

/-! ## What every owning block answers (R167, R182) -/

/-- An answer of a block that found `s`: its payload is one that R182 allows, and a refusal leaves the state as it was. -/
structure Result.Orderly (s : State) (r : Result) : Prop where
  fits : r.payload.length ≤ 25
  refused : r.status ≠ .ok → r.status ≠ .accepted → r.state = s

section
variable {s t : State}

theorem refuse_orderly (s : State) (st : Status) : (refuse s st).Orderly s := ⟨Nat.zero_le _, fun _ _ => rfl⟩

theorem orderly_of_ok {pl : List Byte} (fits : pl.length ≤ 25) :
    ({ state := t, status := .ok, payload := pl } : Result).Orderly s := ⟨fits, fun h => absurd rfl h⟩

/-! ### Payloads (R182) -/

theorem length_getD_map_le {α : Type} {o : Option α} {f : α → List Byte} {n : Nat} (h : ∀ a, (f a).length ≤ n) :
    ((o.map f).getD []).length ≤ n := by
  cases o with
  | none => exact Nat.zero_le n
  | some a => exact h a

theorem length_sourceBytes (src : Source) : (sourceBytes src).length = 2 := by rw [sourceBytes_eq]; rfl

theorem length_policyBytes (p : Pin) (e : Policy) : (policyBytes p e).length = 9 := by rw [policyBytes_eq]; rfl

theorem length_entryBytes (e : Entry) : (entryBytes e).length = 4 := by
  cases h : e.notice <;> simp [entryBytes, noticeBytes, h]

theorem length_stagedBytes (r : Staged) : (stagedBytes r).length ≤ 7 := by
  have reload : ((r.reload.map wordBytes).getD []).length ≤ 2 := length_getD_map_le fun _ => le_rfl
  have compare : ((r.compare.map wordBytes).getD []).length ≤ 2 := length_getD_map_le fun _ => le_rfl
  have exp : ((r.prescaleExp.map fun e => [byteOf e.val]).getD []).length ≤ 1 := length_getD_map_le fun _ => le_rfl
  have mode : ((r.mode.map fun m => [modeByte m]).getD []).length ≤ 1 := length_getD_map_le fun _ => le_rfl
  simp only [stagedBytes, List.length_append, List.length_singleton]
  omega

theorem length_pingReply (s : State) (c : Client) : (pingReply s c).length ≤ 8 := by
  cases h : (s.session c).lease <;> simp [pingReply, countBytes, h]

theorem length_readChannelReply (s : State) (k : Chan) : (readChannelReply s k).length ≤ 20 := by
  cases h : (s.channel k).trigger <;> simp [readChannelReply, settingsBytes, wordBytes, h]

theorem length_queryReply (s : State) (c : Client) (p : Pin) : (queryReply s c p).length ≤ 18 := by
  have claim (o : Option Claim) : ((o.map fun q => byteOf q.rank.val :: sourceBytes q.source).getD []).length ≤ 3 :=
    length_getD_map_le fun q => by simp [length_sourceBytes]
  have top := claim (s.topClaim p)
  have own := claim (s.claimAt c p)
  have hold : ((((s.claimAt c p).bind (·.holdLeft)).map wordBytes).getD []).length ≤ 2 :=
    length_getD_map_le fun _ => le_rfl
  have wait : ((((s.claimAt c p).bind (·.wait)).map fun k => [byteOf k.val]).getD []).length ≤ 1 :=
    length_getD_map_le fun _ => le_rfl
  simp only [queryReply, List.length_append, List.length_cons, List.length_nil]
  omega

theorem length_watchReply (s : State) (p : Pin) (e : EdgeSel) (was : Option EdgeSel) :
    (watchReply s p e was).length ≤ 5 := by
  cases was <;> simp [watchReply]

theorem length_fetchReply {taken : List Entry} (h : taken.length ≤ 6) : (fetchReply taken).length ≤ 25 := by
  have four : (taken.map entryBytes).flatten.length = 4 * taken.length := by
    simp [List.length_flatten, Function.comp_def, length_entryBytes, Nat.mul_comm]
  rw [fetchReply, List.length_cons, four]
  omega

/-! ### The blocks -/

section
variable (c : Client) (bs : List Byte) (s : State)

theorem openAct_orderly : (openAct c bs s).Orderly s := by
  unfold openAct
  dsimp only
  split_ifs
  · exact refuse_orderly s _
  · exact refuse_orderly s _
  · exact orderly_of_ok (by simp [openReply, wordBytes])

theorem resetAllAct_orderly : (resetAllAct c bs s).Orderly s := by
  unfold resetAllAct
  split
  · exact orderly_of_ok (Nat.zero_le _)
  · exact refuse_orderly s _

theorem getPolicyAct_orderly : (getPolicyAct bs s).Orderly s := by
  unfold getPolicyAct
  split
  · exact refuse_orderly s _
  · exact orderly_of_ok (by simp [length_policyBytes])

theorem setPolicyAct_orderly : (setPolicyAct c bs s).Orderly s := by
  unfold setPolicyAct
  split
  · exact refuse_orderly s _
  · split_ifs
    · exact refuse_orderly s _
    · exact refuse_orderly s _
    · exact orderly_of_ok (by simp [length_policyBytes])

theorem claimAct_orderly : (claimAct c bs s).Orderly s := by
  unfold claimAct
  split
  · exact refuse_orderly s _
  · split_ifs
    iterate 5 exact refuse_orderly s _
    split
    · exact orderly_of_ok (by simp)
    · exact orderly_of_ok (by simp)

theorem modifyAct_orderly : (modifyAct c bs s).Orderly s := by
  unfold modifyAct
  split
  · exact refuse_orderly s _
  · split
    · exact refuse_orderly s _
    · split_ifs
      iterate 3 exact refuse_orderly s _
      split
      · exact orderly_of_ok (by simp)
      · exact orderly_of_ok (by simp)

theorem releaseAct_orderly : (releaseAct c bs s).Orderly s := by
  unfold releaseAct
  split
  · exact refuse_orderly s _
  · split
    · exact refuse_orderly s _
    · exact orderly_of_ok (by simp)

theorem queryPinAct_orderly : (queryPinAct c bs s).Orderly s := by
  unfold queryPinAct
  split
  · exact refuse_orderly s _
  · next p _ => exact orderly_of_ok ((length_queryReply s c p).trans (by decide))

theorem bindAct_orderly : (bindAct c bs s).Orderly s := by
  unfold bindAct
  split
  · split
    · exact refuse_orderly s _
    · exact orderly_of_ok (by simp)
  · split
    · exact refuse_orderly s _
    · split_ifs
      · exact refuse_orderly s _
      · exact orderly_of_ok (by simp)

theorem configureAct_orderly : (configureAct c bs s).Orderly s := by
  unfold configureAct
  split
  · exact refuse_orderly s _
  · split_ifs
    iterate 2 exact refuse_orderly s _
    split
    · exact refuse_orderly s _
    · exact orderly_of_ok (Nat.zero_le _)

theorem stageAct_orderly : (stageAct c bs s).Orderly s := by
  unfold stageAct
  split
  · exact refuse_orderly s _
  · split_ifs
    · exact refuse_orderly s _
    · split
      · exact refuse_orderly s _
      · exact orderly_of_ok ((length_stagedBytes _).trans (by decide))

/-- A COMMIT that is neither applied nor accepted leaves its channel as it was (R77). -/
theorem Channel.commitStaged_refused {ch : Channel} {st : Staged} (ok : (ch.commitStaged st).2 ≠ .ok)
    (accepted : (ch.commitStaged st).2 ≠ .accepted) : (ch.commitStaged st).1 = ch := by
  unfold Channel.commitStaged at *
  split_ifs at *
  · exact absurd rfl ok
  · rfl
  · exact absurd rfl accepted

theorem commitAct_orderly : (commitAct c bs s).Orderly s := by
  unfold commitAct
  split
  · exact refuse_orderly s _
  · next k _ =>
    split_ifs
    · exact refuse_orderly s _
    · split
      · exact refuse_orderly s _
      · refine ⟨by simp [commitReply], fun ok accepted => ?_⟩
        dsimp only
        rw [Channel.commitStaged_refused ok accepted, State.setChannel_channel]

theorem cancelAct_orderly : (cancelAct c bs s).Orderly s := by
  unfold cancelAct
  split
  · exact refuse_orderly s _
  · split_ifs
    · exact refuse_orderly s _
    · exact refuse_orderly s _
    · exact orderly_of_ok (Nat.zero_le _)

theorem startAct_orderly : (startAct c bs s).Orderly s := by
  unfold startAct
  split
  · exact refuse_orderly s _
  · split_ifs
    · exact refuse_orderly s _
    · exact refuse_orderly s _
    · exact orderly_of_ok (by simp)

theorem armAct_orderly : (armAct c bs s).Orderly s := by
  unfold armAct
  split
  · exact refuse_orderly s _
  · split_ifs
    · exact refuse_orderly s _
    · exact refuse_orderly s _
    · exact orderly_of_ok (by simp)

theorem stopAct_orderly : (stopAct c bs s).Orderly s := by
  unfold stopAct
  split
  · exact refuse_orderly s _
  · split_ifs
    · exact refuse_orderly s _
    · split
      · exact orderly_of_ok (by simp)
      · exact orderly_of_ok (by simp)
      all_goals exact refuse_orderly s _

theorem startGroupAct_orderly : (startGroupAct c bs s).Orderly s := by
  unfold startGroupAct
  split
  · exact ⟨by simp, fun _ _ => rfl⟩
  · exact orderly_of_ok (Nat.zero_le _)

theorem releaseChannelAct_orderly : (releaseChannelAct c bs s).Orderly s := by
  unfold releaseChannelAct
  split
  · exact refuse_orderly s _
  · split_ifs
    · exact refuse_orderly s _
    · exact orderly_of_ok (by simp [releaseReply])

theorem adoptAct_orderly : (adoptAct c bs s).Orderly s := by
  unfold adoptAct
  split
  · exact refuse_orderly s _
  · split_ifs
    · exact refuse_orderly s _
    · exact refuse_orderly s _
    · exact orderly_of_ok (by simp)

theorem readChannelAct_orderly : (readChannelAct bs s).Orderly s := by
  unfold readChannelAct
  split
  · exact refuse_orderly s _
  · next k _ => exact orderly_of_ok ((length_readChannelReply s k).trans (by decide))

theorem watchAct_orderly : (watchAct c bs s).Orderly s := by
  unfold watchAct
  split
  · exact refuse_orderly s _
  · split
    · exact orderly_of_ok ((length_watchReply s _ _ _).trans (by decide))
    · split_ifs
      · exact refuse_orderly s _
      · exact orderly_of_ok ((length_watchReply s _ _ _).trans (by decide))

theorem unwatchAct_orderly : (unwatchAct c bs s).Orderly s := by
  unfold unwatchAct
  split
  · exact refuse_orderly s _
  · split
    · exact refuse_orderly s _
    · exact orderly_of_ok (by simp)

theorem fetchAct_orderly : (fetchAct c bs s).Orderly s := by
  unfold fetchAct
  dsimp only
  split_ifs with counted
  · simp only [Bool.and_eq_true, decide_eq_true_eq] at counted
    exact orderly_of_ok (length_fetchReply ((List.length_take_le _ _).trans counted.2))
  · exact refuse_orderly s _

end

theorem actOf_orderly (c : Client) (cmd : Command) (bs : List Byte) (s : State) : (actOf c cmd bs s).Orderly s := by
  cases cmd with
  | openSession => exact openAct_orderly c bs s
  | closeSession => exact orderly_of_ok (by simp [countBytes])
  | ping => exact orderly_of_ok ((length_pingReply s c).trans (by decide))
  | resetAll => exact resetAllAct_orderly c bs s
  | getPolicy => exact getPolicyAct_orderly bs s
  | setPolicy => exact setPolicyAct_orderly c bs s
  | claim => exact claimAct_orderly c bs s
  | modify => exact modifyAct_orderly c bs s
  | release => exact releaseAct_orderly c bs s
  | queryPin => exact queryPinAct_orderly c bs s
  | bind => exact bindAct_orderly c bs s
  | configure => exact configureAct_orderly c bs s
  | stage => exact stageAct_orderly c bs s
  | commit => exact commitAct_orderly c bs s
  | cancel => exact cancelAct_orderly c bs s
  | start => exact startAct_orderly c bs s
  | arm => exact armAct_orderly c bs s
  | stop => exact stopAct_orderly c bs s
  | startGroup => exact startGroupAct_orderly c bs s
  | releaseChannel => exact releaseChannelAct_orderly c bs s
  | adopt => exact adoptAct_orderly c bs s
  | readChannel => exact readChannelAct_orderly bs s
  | watch => exact watchAct_orderly c bs s
  | unwatch => exact unwatchAct_orderly c bs s
  | readPins => exact orderly_of_ok (by simp [wordBytes])
  | fetch => exact fetchAct_orderly c bs s

theorem served_orderly (s : State) (c : Client) (cmd : Command) (pl : List Byte) :
    (s.served c cmd pl).Orderly (s.taken c) := by
  unfold State.served State.serve
  split_ifs
  · exact refuse_orderly _ _
  · exact refuse_orderly _ _
  · exact actOf_orderly c cmd pl _

end

/-- Settles O19: every block refuses with the state that the taking left. -/
theorem refusalsChangeNothing : Obligations.RefusalsChangeNothing := by
  intro s c cmd tag pl ha
  refine ⟨_, exec_of_asks ha, ?_⟩
  by_cases done : (s.served c cmd pl).status = .ok ∨ (s.served c cmd pl).status = .accepted
  · left
    rw [State.port_answer, if_pos rfl, Option.any_some]
    exact decide_eq_true done
  · right
    obtain ⟨ok, accepted⟩ := not_or.mp done
    rw [(served_orderly s c cmd pl).refused ok accepted]
    exact (onlyAnswered s c tag _ _).2

/-! ## Every request taken is answered (R164, R166, R171) -/

section
variable {s t : State} {c : Client}

theorem Notified.samePorts {T : Client → Prop} (h : Notified T s t) : SamePorts s t := fun d => by rw [h.ports d]

/-- An effect other than a reset changes no more of a port than its attention line. -/
theorem Effect.samePorts_or_reset (e : Effect c s t) :
    SamePorts s t ∨ t = (s.deviceReset .resetCommand).firstSamples := by
  obtain told | rfl | rfl | ⟨n, -, -, rfl⟩ := e.heeds
  · have everyone : s.Knows fun _ => True :=
      ⟨fun _ _ => trivial, fun _ _ _ => trivial, fun _ _ _ => trivial, fun _ _ => trivial⟩
    exact .inl ((told _ fun _ => trivial) everyone).2.samePorts
  · exact .inl (s.samePorts_teardown c _)
  · exact .inr rfl
  · exact .inl (s.samePorts_requeued c _)

theorem needsSession_eq_false {cmd : Command} : needsSession cmd = false ↔ cmd = .openSession ∨ cmd = .ping := by
  cases cmd <;> simp [needsSession]

theorem openAct_samePorts (c : Client) (bs : List Byte) (s : State) : SamePorts s (openAct c bs s).state := by
  unfold openAct
  dsimp only
  split_ifs
  all_goals exact fun _ => rfl

/-- A request other than RESET ALL touches no port but for attention lines before its reply. Its effect is no reset: a
client in session stays so but for CLOSE and RESET ALL, and one out of session gets no further than OPEN and PING. -/
theorem served_samePorts {cmd : Command} (reset : cmd ≠ .resetAll) (s : State) (c : Client) (pl : List Byte) :
    SamePorts (s.taken c) (s.served c cmd pl).state := by
  obtain same | is_reset := (served_effect s c cmd pl).samePorts_or_reset
  · exact same
  have closed : ((s.served c cmd pl).state.session c).state = .closed := by
    rw [is_reset, State.firstSamples_session, State.deviceReset_session]
    rfl
  by_cases hs : s.InSession c
  · by_cases close : cmd = .closeSession
    · subst close
      unfold State.served State.serve
      split_ifs
      · exact fun _ => rfl
      · exact fun _ => rfl
      · exact (s.taken c).samePorts_teardown c .closed
    · have kept := (served_sameCore close reset pl hs).state c
      exact absurd (kept.symm.trans closed) (State.inSession_taken.mpr hs)
  · cases needs : needsSession cmd with
    | true =>
      rw [State.served_noSession needs (not_not.mp hs)]
      exact fun _ => rfl
    | false =>
      unfold State.served State.serve
      split_ifs
      · exact fun _ => rfl
      · exact fun _ => rfl
      · obtain rfl | rfl := needsSession_eq_false.mp needs
        · exact openAct_samePorts c pl _
        · exact fun _ => rfl

@[simp] theorem State.deviceReset_pending (s : State) (cause : ResetCause) : (s.deviceReset cause).pending = s.pending :=
  rfl

/-- No request reaches the command queue. -/
theorem Effect.pending (e : Effect c s t) : t.pending = s.pending := by
  cases e <;> simp

end

/-- Settles O16: whatever the block does, its answer is what enters the slot of the request's port. -/
theorem everyTakenRequestIsAnswered : Obligations.EveryTakenRequestIsAnswered := by
  intro s c cmd tag pl ha
  refine ⟨_, exec_of_asks ha, ?_⟩
  have port := State.port_answer (s.served c cmd pl).state c c tag (s.served c cmd pl).status (s.served c cmd pl).payload
  rw [if_pos rfl] at port
  rw [port, State.answer_session, State.answer_queue, State.answer_pending]
  refine ⟨rfl, rfl, rfl, by simp, fun reset => ?_, (served_effect s c cmd pl).pending.trans (by simp [State.taken])⟩
  exact (answered_of_placed (served_samePorts reset s c pl) tag _ _).2

/-! ## The common checks (R167 to R170) -/

theorem commandOf?_eq_none {b : Byte} : commandOf? b = none ↔ ∀ cmd ∈ allCommands, commandCode cmd ≠ b := by
  simp [commandOf?, List.find?_eq_none]

/-- The taking of a held request whose command is none of the 26 (R167). -/
theorem State.takeUnknown_of_asks {s : State} {c : Client} {f : Frame} (ha : s.Asks c f)
    (unknown : commandOf? f.command = none) : s.takeUnknown c = (s.taken c).answer c f.tag .unknown [] := by
  have calm : s.settle = s := State.Calm.settle ha.1
  simp only [State.takeUnknown, calm, ha.heldFrame, unknown, if_true, State.taken]

theorem marked_eq (b : Byte) (i : Nat) : marked b i = if b.getLsbD i then 1 else 0 := rfl

/-- The lengths that the dispatcher lets pass are those of the table of commands (R170, R181). -/
theorem lengthOk_iff (cmd : Command) (pl : List Byte) : lengthOk cmd pl = true ↔ lengthPermitted cmd pl := by
  cases cmd with
  | claim | modify | stage =>
    simp only [lengthOk, lengthPermitted, Bool.and_eq_true, decide_eq_true_eq, marked_eq, mul_ite, Nat.mul_one,
      Nat.mul_zero, byteAt, and_assoc]
    exact and_congr Nat.succ_le_iff (and_congr (decide_eq_true_iff.trans Nat.lt_succ_iff) Iff.rfl)
  | startGroup =>
    simp only [lengthOk, lengthPermitted, Bool.and_eq_true, decide_eq_true_eq]
    omega
  | _ => simp [lengthOk, lengthPermitted]

/-- Settles O17: the dispatcher's checks come before any block's. -/
theorem commonChecksRefuse : Obligations.CommonChecksRefuse := by
  refine ⟨fun s c tag b pl unknown ha => ⟨_, rfl, ?_⟩, fun s c cmd tag pl ha opens pings closed => ?_,
    fun s c cmd tag pl ha hs bad => ?_, lengthOk_iff, by decide⟩
  · rw [State.takeUnknown_of_asks ha (commandOf?_eq_none.mpr unknown)]
    exact onlyAnswered s c tag .unknown []
  · have needs : needsSession cmd = true := by
      rw [← Bool.not_eq_false, needsSession_eq_false]
      exact not_or.mpr ⟨opens, pings⟩
    exact exec_refused ha (State.served_noSession needs closed)
  · have checked (needs : needsSession cmd = true) : s.InSession c := by
      rw [← or_assoc, ← needsSession_eq_false] at hs
      exact hs.resolve_left (by simp [needs])
    have long : lengthOk cmd pl = false := by
      rw [← Bool.not_eq_true, lengthOk_iff]
      exact bad
    exact exec_refused ha (State.served_badLength checked long)

end Sys2Proof.Machine
end

section
/-! PROOFS. The frames that the ports hold and the replies in their slots (R155, R158, R182): a law of one port and its
queue through every command that is no request, and the bounds on payloads through every step. -/

namespace Sys2Proof.Machine

open Sys2Proof

section
variable {P : Port → Queue → Prop} {s t : State}

/-! ## Commands that are no request -/

theorem PortLaw.survives (law : PortLaw P) : Survives (State.Links P) := ⟨fun _ _ h e => law.event h e⟩

theorem PortLaw.clocked (law : PortLaw P) (h : s.Links P) (k : Chan) (asked : InputKind → Bool) :
    (s.clocked k asked).Links P := by
  have ready := law.survives.ready h k
  unfold State.clocked
  split
  · next t ht =>
    have caught : (s.ready k).catchUp.baseTick.Links P := (law.survives.catchUp ready).of_same (by simp) (by simp)
    have inv : t.Links P := (State.inputReady_running ht).1.elim (· ▸ ready) (· ▸ caught)
    split
    · exact law.heeds inv (.takeInput t k)
    · exact law.survives.settle h
  · exact law.survives.settle h

theorem PortLaw.triggered (law : PortLaw P) (h : s.Links P) (k : Chan) : (s.triggered k).Links P := by
  unfold State.triggered
  dsimp only
  split
  · exact law.heeds (law.survives.ready h k) (.startChans _ [k] none)
  · exact law.survives.settle h

theorem PortLaw.takeDue (law : PortLaw P) (h : s.Links P) : s.takeDue.Links P := by
  have holds : (allPins.foldl (fun t p => allClients.foldl (fun u c =>
      if u.holdDue c p then (u.expireHold c p).settle else u) t) s).Links P :=
    foldl_inv (fun t p _ ht => foldl_inv (fun u c _ hu => by
      split
      · next due => exact law.survives.settle (law.event hu (.hold c p due))
      · exact hu) ht) h
  refine foldl_inv (fun u p _ hu => ?_) (foldl_inv (fun u c _ hu => ?_) holds)
  · split
    · exact law.heeds hu (.takeEdge u p)
    · exact hu
  · split_ifs with lease grace
    · exact law.event hu (.lease c lease)
    · exact law.survives.settle (law.event hu (.grace c grace))
    · exact hu

theorem PortLaw.nextTick (law : PortLaw P) (h : s.Links P) : s.nextTick.Links P := by
  unfold State.nextTick
  split
  · exact h
  · exact law.event (law.takeDue h) .tick

theorem PortLaw.ofTick (law : PortLaw P) (h : s.Links P) {due : State → Bool} {event : State → State}
    (taken : ∀ t : State, t.Links P → due t = true → (event t).Links P) : (s.settle.ofTick due event).Links P := by
  have settled := law.survives.settle h
  unfold State.ofTick
  split_ifs with now next
  · exact taken _ settled now
  · exact taken _ (law.nextTick settled) next
  · exact settled

theorem PortLaw.filteredEdge (law : PortLaw P) (h : s.Links P) {p : Pin} (ht : execFilteredEdge p s = .next t) :
    t.Links P := by
  have ended := law.heeds h (.endEdge s)
  unfold execFilteredEdge at ht
  split_ifs at ht <;> cases ht
  · exact h
  · exact ended
  · exact law.heeds ended (.takeEdge _ p)
  · exact law.ofTick h fun u hu _ => law.heeds hu (.takeEdge u p)

/-- A reset line that goes to its other level resets the part, lets it take its first samples, or does neither. -/
theorem PortLaw.resets (law : PortLaw P) (h : s.Links P) {i : Instr}
    (hi : i ∈ [.powerOn, .nrst, .resetEnd, .powerOnResetEnd]) (ht : exec i s = .next t) : t.Links P := by
  have reset (cause : ResetCause) (por low : Bool) :
      ({ s.deviceReset cause with por := por, nrstLow := low } : State).Links P := (law.deviceReset s cause).of_same rfl rfl
  have sampled (por low : Bool) : ({ s with por := por, nrstLow := low } : State).firstSamples.Links P :=
    h.of_same (by simp) (by simp)
  simp only [List.mem_cons, List.not_mem_nil, or_false] at hi
  rcases hi with rfl | rfl | rfl | rfl
  · cases ht
    exact reset .powerOn true s.nrstLow
  · dsimp only [exec, execNrst] at ht
    split_ifs at ht <;> cases ht
    · exact h
    · exact h
    · exact reset .resetPin s.por true
  · dsimp only [exec, execResetEnd] at ht
    split_ifs at ht <;> cases ht
    · exact h
    · exact sampled s.por false
    · exact h
  · dsimp only [exec, execPowerOnResetEnd] at ht
    split_ifs at ht <;> cases ht
    · exact h
    · exact sampled false s.nrstLow
    · exact h

/-- Every command but the taking of a request keeps a law of the ports. -/
theorem PortLaw.exec (law : PortLaw P) (h : s.Links P) {i : Instr} (ht : exec i s = .next t) :
    t.Links P ∨ (∃ c, ∃ cmd ∈ allCommands, i = requestAt c cmd) ∨ ∃ c, i = .unknownCommand c := by
  have settled := law.survives.settle h
  cases i with
  | unknownCommand c => exact .inr (.inr ⟨c, rfl⟩)
  | write c part => cases ht; exact .inl (law.bus settled c _ part)
  | read c part => cases ht; exact .inl (law.bus settled c _ part)
  | ignoredTransaction c kind part => cases ht; exact .inl (law.bus h c kind part)
  | clockInput k | channelTick k | periodBoundary k => cases ht; exact .inl (law.clocked h k _)
  | triggerEdge k => cases ht; exact .inl (law.triggered h k)
  | pinLevelChange p b => cases ht; exact .inl (law.event settled (.board p b))
  | filteredEdge p => exact .inl (law.filteredEdge h ht)
  | holdExpiry c p => cases ht; exact .inl (law.ofTick h fun u hu due => law.event hu (.hold c p due))
  | leaseExpiry c => cases ht; exact .inl (law.ofTick h fun u hu due => law.event hu (.lease c due))
  | graceExpiry c => cases ht; exact .inl (law.ofTick h fun u hu due => law.event hu (.grace c due))
  | powerOn | nrst | resetEnd | powerOnResetEnd => exact .inl (law.resets h (by simp) ht)
  | millisecondTick => cases ht; exact .inl (law.nextTick settled)
  | openSession c | closeSession c | ping c | resetAll c | getPolicy c | setPolicy c | claim c | modify c | release c
  | queryPin c | bind c | configure c | stage c | commit c | cancel c | start c | arm c | stop c | startGroup c
  | releaseChannel c | adopt c | readChannel c | watch c | unwatch c | readPins c | fetch c =>
    exact .inr (.inl ⟨c, by clear ht; revert c; decide⟩)

/-! ## Payloads (R158, R182) -/

/-- A consistent port whose held frame and reply have the payloads that a frame and a reply may have. -/
structure Fitting (q : Port) (n : Queue) : Prop where
  port : q.Ok
  reply : q.reply.all fun r => r.payload.length ≤ 25
  held : q.held.all fun f => f.payload.length ≤ Config.maxPayload

theorem fitting_law : PortLaw Fitting where
  ok _ _ h := h.port
  told _ _ _ _ h _ := ⟨h.port, h.reply, h.held⟩
  requeued _ _ _ h := ⟨h.port, h.reply, h.held⟩
  moves q n v h m := by
    have port := h.port.moves m
    cases m with
    | shifts _ held reply => exact ⟨port, reply ▸ h.reply, held ▸ h.held⟩
    | holds f fits => exact ⟨port, h.reply, by simpa using fits⟩
    | errs => exact ⟨port, by simp, rfl⟩
    | empties => exact ⟨port, rfl, h.held⟩
  cut q := ⟨q.cut_ok, rfl, rfl⟩
  passed _ _ _ h := ⟨h.port, h.reply, h.held⟩

theorem State.links_fitting_iff : s.Links Fitting ↔ s.PortsOk ∧ s.FramesFit :=
  ⟨fun h => ⟨fun c => (h c).port, fun c => ⟨(h c).reply, (h c).held⟩⟩, fun ⟨hp, hf⟩ c => ⟨hp c, (hf c).1, (hf c).2⟩⟩

/-- The answer to a request enters the slot of its port. -/
theorem State.Links.answer_fits (h : s.Links Fitting) {c : Client} (held : (s.port c).state = .held)
    (e : Effect c (s.taken c) t) (tag : Byte) (st : Status) {pl : List Byte} (fits : pl.length ≤ 25) :
    (t.answer c tag st pl).Links Fitting := by
  obtain ⟨ok, awaits⟩ := fitting_law.awaits h held e
  exact (fitting_law.effect (fitting_law.taken h c) e).setPort ⟨ok.answered awaits _, by simpa using fits, rfl⟩

theorem State.Links.take_fits (h : s.Links Fitting) (c : Client) (cmd : Command) :
    (s.take c cmd (actOf c cmd)).Links Fitting := by
  have settled := fitting_law.survives.settle h
  unfold State.take
  dsimp only
  split
  · exact settled
  · next f hf =>
    split
    · exact settled.answer_fits (State.heldFrame_eq_some hf).2 (served_effect _ c cmd f.payload) f.tag _
        (served_orderly s.settle c cmd f.payload).fits
    · exact settled

theorem State.Links.takeUnknown_fits (h : s.Links Fitting) (c : Client) : (s.takeUnknown c).Links Fitting := by
  have settled := fitting_law.survives.settle h
  unfold State.takeUnknown
  dsimp only
  split
  · exact settled
  · next f hf =>
    split
    · exact settled.answer_fits (State.heldFrame_eq_some hf).2 .unchanged f.tag .unknown (Nat.zero_le _)
    · exact settled

theorem State.Links.exec_fits (h : s.Links Fitting) {i : Instr} (ht : exec i s = .next t) : t.Links Fitting := by
  obtain kept | ⟨c, cmd, -, rfl⟩ | ⟨c, rfl⟩ := fitting_law.exec h ht
  · exact kept
  · rw [exec_requestAt] at ht
    cases ht
    exact h.take_fits c cmd
  · cases ht
    exact h.takeUnknown_fits c

end

/-- Settles O8: a WRITE holds no longer frame than its length byte may say, and every block's reply is one that R182
allows. -/
theorem everyStepKeepsThePorts : Obligations.EveryStepKeepsThePorts := fun _ _ h ht =>
  State.links_fitting_iff.mp <| step_keeps (Inv := State.Links Fitting) (fun _ _ h => h) (fun _ _ _ h he => h.exec_fits he)
    (State.links_fitting_iff.mpr h) ht

end Sys2Proof.Machine
end

section
/-! PROOFS. Whole transactions (R156 to R164, R180): each in one equation, the bytes of the frames that it carries, and that
it is its parts one after another. -/

namespace Sys2Proof.Machine

open Sys2Proof

/-! ## A transaction part by part (R156) -/

section
variable {s : State} {c : Client}

/-- A transaction makes no pad lag and no notice owed. -/
theorem State.Calm.bus (h : s.Calm) (c : Client) (kind : Byte) (part : BusPart) : (s.bus c kind part).Calm := by
  obtain ⟨out, still, owed⟩ := h
  refine ⟨(State.inReset_congr (by simp) (by simp)).trans out, fun p => ?_, by simpa using owed⟩
  exact (State.lags_congr (by simp) (by simp)).trans (still p)

/-- Commands that carry out the parts of transactions of one kind at a port, from calm states. -/
def RunsBus (c : Client) (kind : Byte) (com : BusPart → Instr) : Prop :=
  ∀ (u : State) (part : BusPart), u.Calm → exec (com part) u = .next (u.bus c kind part)

variable {kind : Byte} {com : BusPart → Instr}

theorem runAll_cons {i : Instr} {is : List Instr} {t : State} (h : exec i s = .next t) :
    runAll (i :: is) s = runAll is t := by
  rw [runAll, h]

theorem RunsBus.bytes (h : RunsBus c kind com) (bs : List Byte) (calm : s.Calm) :
    runAll (bs.map (fun b => com (.byte b)) ++ [com .deselect]) s = .next ((s.busBytes c bs).busDeselect c) := by
  induction bs generalizing s with
  | nil => exact runAll_cons (h s .deselect calm)
  | cons b bs ih => exact (runAll_cons (h s (.byte b) calm)).trans (ih (calm.bus c kind (.byte b)))

/-- The parts of a transaction, one command after another, lead where the whole transaction leads. -/
theorem RunsBus.whole (h : RunsBus c kind com) (bs : List Byte) (calm : s.Calm) (idle : (s.port c).transaction = .none) :
    exec (com (.whole bs)) s = .next (s.busWhole c kind bs) ∧
      runAll ([com .select, com .kind] ++ bs.map (fun b => com (.byte b)) ++ [com .deselect]) s =
        .next (s.busWhole c kind bs) := by
  refine ⟨h s (.whole bs) calm, ?_⟩
  have selected := calm.bus c kind .select
  rw [State.busWhole, if_pos idle, List.append_assoc]
  refine (runAll_cons (h s .select calm)).trans ((runAll_cons (h _ .kind selected)).trans ?_)
  exact h.bytes bs (selected.bus c kind .kind)

theorem runsBus_write (c : Client) : RunsBus c Config.writeKind (.write c) := fun _ part calm =>
  congrArg (fun t : State => Host.Outcome.next (t.bus c Config.writeKind part)) calm.settle

theorem runsBus_read (c : Client) : RunsBus c Config.readKind (.read c) := fun _ part calm =>
  congrArg (fun t : State => Host.Outcome.next (t.bus c Config.readKind part)) calm.settle

theorem runsBus_ignored (c : Client) (kind : Byte) : RunsBus c kind (.ignoredTransaction c kind) := fun _ _ _ => rfl

end

section
variable {s : State} {c : Client} {kd : Byte} {bs : List Byte}

/-! ## A transaction from its select to its deselect (R156) -/

/-- A port whose select has just been asserted. -/
def Port.selected (q : Port) : Port := { q with transaction := .kind, rx := [], tx := [], txReply := false, out := [] }

theorem State.busSelect_eq (out : s.inReset = false) (idle : (s.port c).transaction = .none) :
    s.busSelect c = s.setPort c (s.port c).selected := by
  simp [State.busSelect, Port.selected, out, idle]

theorem State.busByte_of_kind (begun : (s.port c).transaction = .kind) : s.busByte c kd = s.busKind c kd := by
  simp only [State.busByte, begun]

theorem State.busWhole_eq (out : s.inReset = false) (idle : (s.port c).transaction = .none) :
    s.busWhole c kd bs =
      (((s.setPort c (s.port c).selected).busKind c kd).busBytes c bs).busDeselect c := by
  rw [State.busWhole, if_pos idle, State.busSelect_eq out idle, List.foldl_cons,
    State.busByte_of_kind (by rw [State.port_setPort_self]; rfl)]

/-- A transaction that is ignored from its kind byte on. -/
theorem State.bus_ignored {v : Port}
    (kind : (s.setPort c (s.port c).selected).busKind c kd =
      s.setPort c { v with transaction := .ignore, out := [Config.filler] }) :
    (((s.setPort c (s.port c).selected).busKind c kd).busBytes c bs).busDeselect c =
      s.setPort c { v with transaction := .none, out := List.replicate (1 + bs.length) Config.filler } := by
  rw [kind, State.busBytes_ignore (by simp)]
  simp [State.busDeselect, Nat.add_comm 1, List.replicate_succ]

/-! ## WRITE (R158 to R160) -/

theorem State.exec_write (calm : s.Calm) (idle : (s.port c).transaction = .none) :
    exec (.write c (.whole bs)) s =
      .next ((((s.setPort c (s.port c).selected).busKind c Config.writeKind).busBytes c bs).busDeselect c) :=
  (runsBus_write c s (.whole bs) calm).trans (congrArg Host.Outcome.next (State.busWhole_eq calm.1 idle))

/-- The port of a WRITE in READY once its bytes have come. -/
def Port.received (q : Port) (bs : List Byte) : Port :=
  { q with
    transaction := .receive, rx := takeFrame [] bs, tx := [], txReply := false
    out := List.replicate (1 + bs.length) Config.filler }

theorem State.exec_write_ready (calm : s.Calm) (idle : (s.port c).transaction = .none)
    (ready : (s.port c).state = .ready) :
    exec (.write c (.whole bs)) s = .next ((s.setPort c ((s.port c).received bs)).endWrite c) := by
  have kind : (s.setPort c (s.port c).selected).busKind c Config.writeKind =
      s.setPort c { (s.port c).selected with transaction := .receive, out := [Config.filler] } := by
    simp [State.busKind, Port.selected, ready]
  rw [State.exec_write calm idle, kind, State.busBytes_receive (by simp)]
  simp [State.busDeselect, Port.selected, Port.received, Nat.add_comm 1, List.replicate_succ]

/-- A request frame with bytes after it is a good frame, and the frame is what the client sent (R158, R159, R180). -/
theorem goodFrame_requestBytes (f : Frame) (fits : f.payload.length ≤ Config.maxPayload) (more : List Byte) :
    goodFrame (takeFrame [] (requestBytes f ++ more)) = some f := by
  obtain ⟨command, tag, pl⟩ := f
  have len : (byteOf pl.length).toNat = pl.length := toNat_byteOf_length fits
  have bytes : requestBytes ⟨command, tag, pl⟩ ++ more =
      command :: tag :: byteOf pl.length :: (pl ++ (crc8 ([command, tag, byteOf pl.length] ++ pl) :: more)) := by
    simp [requestBytes, withCrc]
  have crcAt : byteAt (requestBytes ⟨command, tag, pl⟩ ++ more) (3 + pl.length) =
      crc8 ([command, tag, byteOf pl.length] ++ pl) := by
    rw [bytes, Nat.add_comm]
    simp [byteAt]
  have head : (requestBytes ⟨command, tag, pl⟩ ++ more).take (3 + pl.length) =
      [command, tag, byteOf pl.length] ++ pl := by
    rw [bytes, Nat.add_comm]
    simp
  have declared : byteAt (requestBytes ⟨command, tag, pl⟩ ++ more) 2 = byteOf pl.length := by rw [bytes]; rfl
  rw [goodFrame_takeFrame, declared, len, crcAt, head, if_pos]
  · rw [bytes]
    simp
  · rw [bytes]
    exact ⟨by simp, fits, by simp; omega, rfl⟩

end

/-- Settles O45: the bytes after a good frame are not taken into it. -/
theorem writeHoldsAGoodFrame : Obligations.WriteHoldsAGoodFrame := by
  intro s c f more calm idle ready fits
  refine ⟨_, State.exec_write_ready calm idle ready, ?_⟩
  have good := goodFrame_requestBytes f fits more
  rw [requestBytes, withCrc] at good
  rw [State.endWrite, State.port_setPort_self]
  dsimp only [Port.received]
  rw [good]
  simp only [State.setPort_setPort, idle, List.length_append, List.length_cons, List.length_nil]
  congr 3
  omega

/-- Settles O46: what makes a frame bad is what keeps the port from holding it. -/
theorem writeAnswersABadFrame : Obligations.WriteAnswersABadFrame := by
  intro s c bs calm idle ready bad
  refine ⟨_, State.exec_write_ready calm idle ready, ?_⟩
  have no_frame : goodFrame (takeFrame [] bs) = none := by
    rw [goodFrame_takeFrame, if_neg]
    rintro ⟨_, short, whole, crc⟩
    have short : (bs.getD 2 0).toNat ≤ 56 := short
    have whole : 4 + (bs.getD 2 0).toNat ≤ bs.length := whole
    obtain tiny | long | cut | wrong := bad
    · omega
    · omega
    · omega
    · exact wrong crc
  rw [State.endWrite, State.port_setPort_self]
  dsimp only [Port.received]
  rw [no_frame, byteAt_takeFrame_one]
  simp only [State.answer, State.port_setPort_self, State.setPort_setPort, State.session_setPort, State.queue_setPort, idle]
  rfl

/-! ## Discarded and ignored transactions (R156, R160) -/

/-- Settles O47: from the kind byte on such a transaction is ignored. -/
theorem discardedAndIgnoredTransactions : Obligations.DiscardedAndIgnoredTransactions := by
  refine ⟨fun s c bs calm idle busy => ⟨_, State.exec_write calm idle, ?_⟩, fun s c kd bs out idle ⟨write, read⟩ => ?_⟩
  · rw [State.bus_ignored (v := { (s.port c).selected with overrun := true })]
    · simp only [Port.selected, idle]
      rfl
    · simp [State.busKind, Port.selected, busy]
  · refine ⟨_, congrArg Host.Outcome.next (State.busWhole_eq out idle), ?_⟩
    rw [State.bus_ignored (v := (s.port c).selected)]
    · simp only [Port.selected, idle]
      rfl
    · have write : kd ≠ Config.writeKind := write
      have read : kd ≠ Config.readKind := read
      simp [State.busKind, Port.selected, write, read]

/-! ## READ (R161 to R164) -/

section
variable {s : State} {c : Client} {bs : List Byte}

/-- The port of a READ once its bytes have gone. -/
def Port.shiftedOut (q : Port) (frame bs : List Byte) : Port :=
  { q with
    transaction := .send, rx := [], tx := frame.drop bs.length, txReply := q.state = .answered
    out := Config.filler :: (frame ++ List.replicate bs.length Config.filler).take bs.length }

theorem State.exec_read (calm : s.Calm) (idle : (s.port c).transaction = .none) :
    exec (.read c (.whole bs)) s = .next ((s.setPort c ((s.port c).shiftedOut (s.readFrame c) bs)).endRead c) := by
  have kind : (s.setPort c (s.port c).selected).busKind c Config.readKind =
      s.setPort c { (s.port c).selected with
        transaction := .send, out := [Config.filler], tx := s.readFrame c, txReply := (s.port c).state = .answered } := by
    simp [State.busKind, State.readFrame, Port.selected, Config.readKind, Config.writeKind]
  refine (runsBus_read c s (.whole bs) calm).trans (congrArg Host.Outcome.next ?_)
  rw [State.bus, State.busWhole_eq calm.1 idle, kind, State.busBytes_send (by simp)]
  simp [State.busDeselect, Port.selected, Port.shiftedOut]

/-- A READ empties the slot where all bytes of the slot's reply have gone (R162). -/
theorem State.endRead_shiftedOut (s : State) (c : Client) (frame bs : List Byte) :
    (s.setPort c ((s.port c).shiftedOut frame bs)).endRead c =
      s.setPort c (if (s.port c).state = .answered ∧ frame.length ≤ bs.length then
        { s.port c with
          state := .ready, reply := none, overrun := false, transaction := .none, rx := [], tx := [], txReply := false
          attention := !(s.queue c).entries.isEmpty
          out := Config.filler :: (frame ++ List.replicate bs.length Config.filler).take bs.length }
      else
        { s.port c with
          transaction := .none, rx := [], tx := [], txReply := false
          out := Config.filler :: (frame ++ List.replicate bs.length Config.filler).take bs.length }) := by
  have whole : (frame.drop bs.length).isEmpty = true ↔ frame.length ≤ bs.length := by
    rw [List.isEmpty_iff, List.drop_eq_nil_iff]
  unfold State.endRead
  simp only [State.port_setPort_self, Port.shiftedOut, Bool.and_eq_true, decide_eq_true_eq, whole]
  split
  · simp [State.syncAttention]
  · simp

theorem replyBytes_eq (o : Bool) (r : Reply) : replyBytes o r =
    statusByte r.status :: r.tag :: portFlags o r.session r.depth :: byteOf r.payload.length ::
      (r.payload ++ [crc8 ([statusByte r.status, r.tag, portFlags o r.session r.depth, byteOf r.payload.length] ++
        r.payload)]) := by
  simp [replyBytes, withCrc]

theorem length_replyBytes (o : Bool) (r : Reply) : (replyBytes o r).length = 5 + r.payload.length := by
  rw [replyBytes_eq]
  simp only [List.length_cons, List.length_append, List.length_nil]
  omega

/-- The port flags as a number: overrun, session state and queue depth in their bits (R180). -/
theorem toNat_portFlags (o : Bool) (st : SessionState) {depth : Nat} (fits : depth < 16) :
    (portFlags o st depth).toNat = 128 * o.toNat + 32 * sessionBits st + depth := by
  have bits : sessionBits st ≤ 2 := by cases st <;> decide
  have overrun : (if o then 128 else 0) = 128 * o.toNat := by cases o <;> rfl
  have one : o.toNat ≤ 1 := o.toNat_le
  rw [portFlags, toNat_byteOf (by omega)]
  omega

/-- A reply frame byte by byte (R161, R162, R164, R180). -/
theorem replyBytes_layout (o : Bool) (r : Reply) (depth : r.depth ≤ 12) (fits : r.payload.length ≤ 56) :
    (replyBytes o r).length = 5 + r.payload.length ∧
      (replyBytes o r).getD 0 0 = statusByte r.status ∧ (replyBytes o r).getD 1 0 = r.tag ∧
      ((replyBytes o r).getD 2 0).getLsbD 7 = o ∧
      ((replyBytes o r).getD 2 0).toNat / 32 % 4 = sessionBits r.session ∧
      ((replyBytes o r).getD 2 0).getLsbD 4 = false ∧ ((replyBytes o r).getD 2 0).toNat % 16 = r.depth ∧
      ((replyBytes o r).getD 3 0).toNat = r.payload.length ∧
      ((replyBytes o r).drop 4).take r.payload.length = r.payload ∧
      (replyBytes o r).getLast? = some (crc8 (replyBytes o r).dropLast) := by
  have flags : ((replyBytes o r).getD 2 0).toNat = 128 * o.toNat + 32 * sessionBits r.session + r.depth := by
    rw [replyBytes_eq]
    exact toNat_portFlags o r.session (by omega)
  have two : sessionBits r.session ≤ 2 := by cases r.session <;> decide
  have one : o.toNat ≤ 1 := o.toNat_le
  rw [← BitVec.testBit_toNat, ← BitVec.testBit_toNat, Nat.testBit_eq_decide_div_mod_eq, Nat.testBit_eq_decide_div_mod_eq,
    flags]
  refine ⟨length_replyBytes o r, by rw [replyBytes_eq]; rfl, by rw [replyBytes_eq]; rfl, ?_, by omega,
    decide_eq_false (by omega), by omega, ?_, ?_, ?_⟩
  · have overrun : (128 * o.toNat + 32 * sessionBits r.session + r.depth) / 2 ^ 7 % 2 = o.toNat := by omega
    rw [overrun]
    cases o <;> rfl
  · rw [replyBytes_eq]
    exact toNat_byteOf_length fits
  · rw [replyBytes_eq]
    exact List.take_left
  · rw [replyBytes, withCrc, List.dropLast_concat, List.getLast?_concat]

/-- The CRC as R180 gives it: eight shifts for each byte. -/
theorem crc8_eq (bytes : List Byte) : crc8 bytes = bytes.foldl (fun r b =>
    (List.range 8).foldl (fun x _ => if x.getLsbD 7 then (x <<< 1) ^^^ 0x07 else x <<< 1) (r ^^^ b)) 0xFF := rfl

end

/-- Settles O48: the frame is fixed at the kind byte, and whether the slot is emptied turns on its last byte. -/
theorem readShiftsTheReplyOut : Obligations.ReadShiftsTheReplyOut := by
  refine ⟨fun s c bs r calm idle answered slot => ⟨_, State.exec_read calm idle, ?_⟩,
    fun s c bs calm idle other => ⟨_, State.exec_read calm idle, ?_⟩, replyBytes_layout, crc8_eq, by decide⟩
  · have frame : s.readFrame c = replyBytes (s.port c).overrun r := by simp [State.readFrame, answered, slot]
    have out : (((s.setPort c ((s.port c).shiftedOut (s.readFrame c) bs)).endRead c).port c).out = 0xFF ::
        (replyBytes (s.port c).overrun r ++ List.replicate bs.length 0xFF).take bs.length := by
      rw [State.endRead_shiftedOut, State.port_setPort_self, frame]
      split <;> rfl
    refine ⟨out, ?_⟩
    rw [out, State.endRead_shiftedOut, frame, length_replyBytes]
    simp only [answered, true_and, idle]
    rfl
  · have frame : s.readFrame c = replyBytes (s.port c).overrun
        { status := .noReply, tag := 0, session := (s.session c).state, depth := (s.queue c).entries.length
          payload := [] } := by
      simp [State.readFrame, other]
    rw [State.endRead_shiftedOut, if_neg fun whole => other whole.1, frame]
    simp only [idle]
    rfl

/-! ## The part held in reset (R134, R172) -/

/-- No request is taken while the part is held in reset (R134, R172). -/
theorem State.take_of_inReset {s : State} (held : s.inReset = true) (c : Client) (cmd : Command)
    (act : List Byte → State → Result) : s.take c cmd act = s := by
  simp [State.take, State.settle_of_inReset held, State.heldFrame, held]

/-- Settles O49: a calm state stays calm through a transaction, so that no settling comes between its parts. -/
theorem transactionsAreTheirParts : Obligations.TransactionsAreTheirParts := by
  refine ⟨fun s c bs calm idle => ?_, fun s c kd bs calm idle => ?_, fun s c held => ⟨fun cmd => ?_, fun idle => ?_⟩⟩
  · obtain ⟨write, writes⟩ := (runsBus_write c).whole bs calm idle
    obtain ⟨read, reads⟩ := (runsBus_read c).whole bs calm idle
    exact ⟨_, _, write, writes, read, reads⟩
  · exact ⟨_, (runsBus_ignored c kd).whole bs calm idle⟩
  · rw [exec_requestAt, State.take_of_inReset held]
  · have select : exec (.write c .select) s = .next (s.busSelect c) :=
      congrArg (fun t : State => Host.Outcome.next (t.busSelect c)) (State.settle_of_inReset held)
    refine ⟨_, select, ?_⟩
    simp [State.busSelect, idle, held]

end Sys2Proof.Machine
end

section
/-! PROOFS. Commands whose event is not due or not possible (log entries 1, 5, 6, 7 and 17): each leaves a calm state as it
is. -/

namespace Sys2Proof.Machine

open Sys2Proof

section
variable {s : State} {c : Client} {k : Chan}

/-! ## Requests that are not taken (R166) -/

/-- The frame that the dispatcher may take at a port. -/
theorem State.heldFrame_iff {f : Frame} : s.heldFrame c = some f ↔
    s.inReset = false ∧ (s.port c).state = .held ∧ s.mayTake c = true ∧ (s.port c).held = some f := by
  unfold State.heldFrame
  split_ifs with out held
  · simp [out]
  · simp only [Bool.and_eq_true, decide_eq_true_eq] at held
    simp [out, held]
  · simp only [Bool.and_eq_true, decide_eq_true_eq, not_and] at held
    exact ⟨fun h => by simp at h, fun ⟨_, state, may, _⟩ => absurd may (held state)⟩

/-- No frame of a command that satisfies `asked` is held at a port whose request may be taken. -/
def State.NothingHeld (s : State) (c : Client) (asked : Byte → Prop) : Prop :=
  ∀ f, s.heldFrame c = some f → ¬asked f.command

theorem State.nothingHeld_of {asked : Byte → Prop} {other : Frame → Bool}
    (no : ∀ f, other f = true → ¬asked f.command)
    (h : (s.port c).state ≠ .held ∨ s.mayTake c = false ∨ (s.port c).held.all other = true) : s.NothingHeld c asked := by
  intro f hf
  obtain ⟨-, state, may, held⟩ := State.heldFrame_iff.mp hf
  obtain idle | turned | another := h
  · exact absurd state idle
  · exact absurd (may.symm.trans turned) (by decide)
  · rw [held] at another
    exact no f another

theorem State.take_of_nothingHeld (calm : s.Calm) {cmd : Command} (h : s.NothingHeld c (· = commandCode cmd))
    (act : List Byte → State → Result) : s.take c cmd act = s := by
  unfold State.take
  rw [calm.settle]
  dsimp only
  split
  · rfl
  · next f hf => exact if_neg (h f hf)

theorem State.takeUnknown_of_nothingHeld (calm : s.Calm) (h : s.NothingHeld c (commandOf? · = none)) :
    s.takeUnknown c = s := by
  unfold State.takeUnknown
  rw [calm.settle]
  dsimp only
  split
  · rfl
  · next f hf => exact if_neg (h f hf)

/-! ## Trigger edges and clock inputs (R50, R57, R58, R64) -/

/-- No edge comes at a pin of a calm state that no tick has brought. -/
theorem State.Calm.edgeComes (calm : s.Calm) {p : Pin} (early : (s.pad p).tickDue = false) (e : Edge) :
    s.edgeComes p e = false := by
  simp [State.edgeComes, calm.2.1 p, early]

/-- To be ready for what waits changes no channel's state. -/
theorem State.Calm.state_ready (calm : s.Calm) (k j : Chan) :
    ((s.ready k).channel j).state = (s.channel j).state := by
  unfold State.ready
  split
  · rw [calm.settle]
  · rw [if_neg (by simp [calm.1]), if_neg (by simp [calm.2.2])]
    split
    · rw [State.endEdge_of_none calm.2.2, State.followBut_of_calm fun q _ => calm.2.1 q, State.channel_beginEdge,
        State.channel_takeEdge, Channel.handEdge_state]
    · rw [calm.settle]

theorem State.triggered_of_not_due (calm : s.Calm) (h : (s.channel k).state ≠ .armed ∨
    ((s.channel k).triggerDue = false ∧ ((s.channel k).trigger.all fun x => !(s.pad x.1).tickDue) = true)) :
    s.triggered k = s := by
  have not_due : ¬((((s.ready k).channel k).state = .armed) ∧ ((s.ready k).channel k).triggerDue = true) := by
    rw [calm.state_ready]
    rintro ⟨armed, due⟩
    obtain ⟨none_due, early⟩ := h.resolve_left (not_not.mpr armed)
    have ready : s.ready k = s := by
      refine calm.ready (.inr (.inr fun p e waits => calm.edgeComes ?_ e))
      have trigger : (s.channel k).trigger = some (p, e) := by simpa [Channel.edgePin, armed] using waits
      simpa [trigger] using early
    rw [ready, none_due] at due
    cases due
  unfold State.triggered
  dsimp only
  rw [if_neg (by simpa using not_due), calm.settle]

/-- A clock command of a channel whose source is no base tick, with no input handed to it and none that comes. -/
theorem State.clocked_of_not_due (calm : s.Calm) (none_due : (s.channel k).inputsDue = 0)
    (h : (∃ j : Chan, (s.channel k).settings.clock = .chain j) ∨
      ∃ (p : Pin) (g : Edge), (s.channel k).settings.clock = .pin p g ∧ (s.pad p).tickDue = false)
    (asked : InputKind → Bool) : s.clocked k asked = s := by
  by_cases run : (s.channel k).state = .running
  · have not_base : (s.channel k).settings.clock ≠ .base := by
      obtain ⟨j, clock⟩ | ⟨p, g, clock, -⟩ := h <;> simp [clock]
    have ready : s.ready k = s := by
      obtain ⟨j, clock⟩ | ⟨p, g, clock, early⟩ := h
      · exact calm.ready (.inr (.inl (by simp [Channel.edgePin, run, clock])))
      · refine calm.ready (.inr (.inr fun p' e waits => calm.edgeComes ?_ e))
        obtain ⟨rfl, rfl⟩ : p = p' ∧ g = e := by simpa [Channel.edgePin, run, clock] using waits
        exact early
    have no_input : s.inputReady k = none := by simp [State.inputReady, run, none_due, not_base]
    unfold State.clocked
    rw [ready, no_input]
    exact calm.settle
  · exact State.clocked_of_idle calm run asked

/-! ## Ticks -/

/-- An event that is not due and that the next tick does not make due. -/
theorem State.Calm.ofTick (calm : s.Calm) {due : State → Bool} {event : State → State} (now : due s = false)
    (next : due s.nextTick = false) : s.settle.ofTick due event = s := by
  simp [State.ofTick, calm.settle, now, next]

theorem exec_filteredEdge_of_not_due (calm : s.Calm) {p : Pin} (now : (s.pad p).tickDue = false)
    (next : (s.nextTick.pad p).tickDue = false) : exec (.filteredEdge p) s = .next s := by
  have early : s.edgeDue p = false := now
  have tick : s.settle.ofTick (fun t => t.edgeDue p) (fun t => t.takeEdge p) = s := calm.ofTick now next
  simp only [exec, execFilteredEdge, tick]
  simp [calm.1, calm.2.1 p, calm.2.2, early]

end

/-- Settles O59: in a calm state nothing is settled first, and the command finds no event that it names. -/
theorem commandsWithoutTheirEventChangeNothing : Obligations.CommandsWithoutTheirEventChangeNothing := by
  refine ⟨fun s c cmd calm h => ?_, fun s c calm h => ?_, fun s k calm h => ?_, fun s k calm none_due h => ?_,
    fun s m calm tick => ?_, fun s c b calm idle => ?_, fun s c bs calm busy => ?_,
    fun s => ⟨fun low => if_pos low, fun high => if_neg (by simp [high]), fun off => if_neg (by simp [off])⟩⟩
  · rw [exec_requestAt, State.take_of_nothingHeld calm (State.nothingHeld_of (fun f other => by simpa using other) h)]
  · refine congrArg Host.Outcome.next (State.takeUnknown_of_nothingHeld calm (State.nothingHeld_of (fun f known => ?_) h))
    rw [commandOf?_eq_none]
    intro unknown
    obtain ⟨cmd, mem, code⟩ := List.any_eq_true.mp known
    exact unknown cmd mem (of_decide_eq_true code).symm
  · exact congrArg Host.Outcome.next (State.triggered_of_not_due calm h)
  · have ignored (asked : InputKind → Bool) : Host.Outcome.next (s.clocked k asked) = (.next s : Out) :=
      congrArg Host.Outcome.next (State.clocked_of_not_due calm none_due h asked)
    exact ⟨ignored _, ignored _, ignored _⟩
  · have next : s.nextTick = m := by
      have settled : s.settle.nextTick = m := by injection tick
      rwa [calm.settle] at settled
    subst next
    exact ⟨fun c p now next => congrArg Host.Outcome.next (calm.ofTick now next),
      fun c now next => congrArg Host.Outcome.next (calm.ofTick now next),
      fun c now next => congrArg Host.Outcome.next (calm.ofTick now next),
      fun p now next => exec_filteredEdge_of_not_due calm now next⟩
  · have byte : s.busByte c b = s := by simp only [State.busByte, idle]
    have deselect : s.busDeselect c = s := by simp only [State.busDeselect, idle]
    exact ⟨(runsBus_write c s (.byte b) calm).trans (congrArg _ byte),
      (runsBus_read c s (.byte b) calm).trans (congrArg _ byte),
      (runsBus_write c s .deselect calm).trans (congrArg _ deselect),
      (runsBus_read c s .deselect calm).trans (congrArg _ deselect)⟩
  · have select : s.busSelect c = s := if_neg busy
    have whole (kind : Byte) : s.busWhole c kind bs = s := if_neg busy
    exact ⟨(runsBus_write c s .select calm).trans (congrArg _ select),
      (runsBus_read c s .select calm).trans (congrArg _ select),
      (runsBus_write c s (.whole bs) calm).trans (congrArg _ (whole _)),
      (runsBus_read c s (.whole bs) calm).trans (congrArg _ (whole _))⟩

end Sys2Proof.Machine
end

section
/-! PROOFS. A step by its front command, and the laws of all blocks right after a device reset (R32, R38, R48, R108, R121,
R135, R141, R172): whatever state a reset finds, it leaves a lawful one, and the reset state is what it makes of itself. -/

namespace Sys2Proof.Machine

open Sys2Proof

/-! ## The front command -/

/-- Settles O1, by the second case of the step. -/
theorem stepTakesTheFrontCommand : Obligations.StepTakesTheFrontCommand := fun _ _ _ => rfl

/-! ## The laws after a device reset -/

section
variable (s : State) (cause : ResetCause)

theorem State.deviceReset_sessionsOk : (s.deviceReset cause).SessionsOk := fun c => by
  rw [State.deviceReset_session]; exact Session.atReset_ok

/-- Every channel is clocked by BASE, so none follows another (R47, R59). -/
theorem State.deviceReset_noLoops : (s.deviceReset cause).NoLoops := fun k j chained => by
  rw [State.deviceReset_channel] at chained; cases chained

/-- No filter has begun a run (R38). -/
theorem State.deviceReset_filtersOk : (s.deviceReset cause).FiltersOk := fun p => by
  rw [State.deviceReset_pad]
  exact ⟨Nat.zero_le _, fun due => nomatch due⟩

/-- A device reset leaves a lawful state, whatever it finds: the pools and the lists are empty, and every table stands at
its reset values. -/
theorem State.deviceReset_safe : (s.deviceReset cause).Safe where
  links := s.deviceReset_linksOk cause
  sessions := s.deviceReset_sessionsOk cause
  base := .empty rfl (s.deviceReset_claimList cause)
  waits := .empty rfl (s.deviceReset_waitList cause)
  within _ mem := nomatch mem
  members := s.deviceReset_membersOk cause
  ledger := s.deviceReset_ledger cause
  noLoops := s.deviceReset_noLoops cause
  pads := s.padsOk_deviceReset cause
  filters := s.deviceReset_filtersOk cause
  edge := rfl
  watches := ⟨Nat.zero_le _, .nil⟩

/-- A device reset leaves no frame in any port (R172). -/
theorem State.deviceReset_framesFit : (s.deviceReset cause).FramesFit :=
  (State.links_fitting_iff.mp (fitting_law.deviceReset s cause)).2

end

/-! ## The reset state -/

/-- At its reset values the part is as a power-on reset leaves it. -/
theorem State.deviceReset_reset : State.reset.deviceReset .powerOn = State.reset := rfl

/-- Settles O3: the reset state is one that a device reset leaves. -/
theorem lawfulAtReset : Obligations.LawfulAtReset := by
  unfold Obligations.LawfulAtReset
  rw [← State.deviceReset_reset]
  exact ⟨State.lawful_iff.mpr (State.deviceReset_safe _ _), State.deviceReset_framesFit _ _⟩

end Sys2Proof.Machine
end
